-- ==== Sys2Proof/Word.lean ====
section
/-! DEFINITION. Words of the Ahnino A4: the bit vectors the manual treats as bits, and the finite
numbers that name its units (00_scope R6). -/

namespace Sys2Proof

/-- A byte. -/
abbrev Byte := BitVec 8
/-- A 32-bit word. -/
abbrev Word32 := BitVec 32
/-- A 64-bit word. -/
abbrev Word64 := BitVec 64
/-- A compute die, D0 to D3 (R6). -/
abbrev Die := Fin 4
/-- A package core number, 512 × die + 32 × cluster + logical core (R449). -/
abbrev CoreNo := Fin 2048
/-- A package cluster number, 16 × die + cluster (R497). -/
abbrev ClusterNo := Fin 64
/-- A ring (R365). -/
abbrev RingNo := Fin 8192
/-- A group number: the die of creation in bits [9:8], the slot in [7:0] (R243). -/
abbrev GroupNo := Fin 1024
/-- The bits [119:0] of a tile instruction; the opcode [127:120] is the command itself (R107). -/
abbrev Body := BitVec 120

end Sys2Proof
end

