-- ==== Sys2Proof/Syntax.lean ====
section
/-! DEFINITION. The commands of the A4: one constructor for each row of the table, in the table's
order. A tile instruction is issued by the sequencer of a core and carries its bits [119:0]; an event
carries the values that the surroundings or a free choice of the part gives it. -/

namespace Sys2Proof

/-- The slot classes of R170. -/
inductive SlotClass where
  | read | write | remote
  deriving DecidableEq, Repr

/-- The paths of a heartbeat (R454): a bridge to another die, the hub link, the always-on link. -/
inductive HbPath where
  | bridge (peer : Die) | hub | alwaysOn
  deriving DecidableEq, Repr

/-- The rails of R490. -/
inductive Rail where
  | vaon | v1p8aux | vio | vinCore | vdram
  deriving DecidableEq, Repr

/-- A block that CLUSTER_RST or CORE_RST asks to go idle (R485). -/
inductive IdleBlock where
  | cluster (k : ClusterNo) | core (c : CoreNo) | die (d : Die)
  deriving DecidableEq, Repr

/-- The readings of one 10 µs control period (R16, R497, R498). Temperatures are in units of 0.5 °C:
`hub` holds the CXL PHY and the Cocoon, `compute` 17 a die (16 regions, then the die controller), `dram` 128 a die in the
order of R332. -/
structure Readings where
  hub     : List Int := []
  compute : List Int := []
  dram    : List Int := []
  powerW  : Nat := 0
  dieA    : List Nat := []
  vinCoreMv : Nat := 1800
  deriving DecidableEq, Repr

/-- An engine instruction in flight: on the execute or the fetch engine, and its place in that queue (R165). -/
structure EntryRef where
  exe : Bool
  k   : Nat
  deriving DecidableEq, Repr

/-- Why a page read is late (R355): not resident in time, failed in every copy, or estimated to take longer. -/
inductive LateWhy where
  | timeout | failed | estimate
  deriving DecidableEq, Repr

/-- What sends a request for a die's DRAM (R308, R327): a core of a job, the page service for a group, the host over
CXL.mem, or a movement between tiers. -/
inductive DramSource where
  | job (n : Nat) | group (g : GroupNo) | host | tier
  deriving DecidableEq, Repr

/-- One request for a die's DRAM (R308). `errs` gives for each codeword that it touches, in order, the erroneous bytes
found there (R309); `reader` is the die that a request not of the host comes from. -/
structure DramReq where
  dpa    : Nat
  len    : Nat
  write  : Option (List Byte) := none
  errs   : List Nat := []
  src    : DramSource := .tier
  reader : Die := 0
  deriving DecidableEq, Repr

/-- One operation of a memory-side adder (R54, R325). -/
inductive AdderKind where
  | add | fetchAdd | cswap
  deriving DecidableEq, Repr

/-- An operation of an adder and what sends it. -/
structure AdderOp where
  kind : AdderKind
  src  : DramSource := .tier
  deriving DecidableEq, Repr

/-- One operation at a memory-side adder (R54, R324): the word's die address, the format's code, the operation, its
operand and for a compare-swap what it compares with, and what sends it. -/
structure AddReq where
  dpa : Nat
  fmt : BitVec 4
  op  : AdderKind
  v   : Word64
  cmp : Word64 := 0
  src : DramSource := .tier
  deriving DecidableEq, Repr

/-- One field of a write request (R440): index, subindex, type code, value bytes. -/
structure FieldWrite where
  index : BitVec 16
  sub   : BitVec 8
  ty    : BitVec 8
  value : List Byte
  deriving DecidableEq, Repr

/-- The regulator's answer to one poll of R499. -/
structure PmbusReading where
  vinMv  : Nat
  ioutA  : Nat
  status : BitVec 16
  deriving DecidableEq, Repr

/-- How a restart of R476 ended: the new bank, the previous bank, or neither. -/
inductive UpdateEnd where
  | newBank | oldBank | none
  deriving DecidableEq, Repr

/-- A copy that the fill of R463 makes: the page tables of an address space or the state of a group. -/
inductive FillItem where
  | aspace (asid : Nat) | group (g : GroupNo)
  deriving DecidableEq, Repr

/-- The firmware units of R524. -/
inductive FwUnit where
  | cocoon | hub | die (d : Die)
  deriving DecidableEq, Repr

/-- The commands (one for each row of the table). -/
inductive Instr where
  | ldt (c : CoreNo) (b : Body)  -- LDT
  | stt (c : CoreNo) (b : Body)  -- STT
  | gath (c : CoreNo) (b : Body)  -- GATH
  | scat (c : CoreNo) (b : Body)  -- SCAT
  | mma (c : CoreNo) (b : Body) (fault : Option Nat)  -- MMA
  | mmax (c : CoreNo) (b : Body) (fault : Option Nat)  -- MMAX
  | ewu (c : CoreNo) (b : Body) (fault : Option Nat)  -- EWU
  | ewb (c : CoreNo) (b : Body)  -- EWB
  | act (c : CoreNo) (b : Body) (fault : Option Nat)  -- ACT
  | win (c : CoreNo) (b : Body)  -- WIN
  | pool (c : CoreNo) (b : Body)  -- POOL
  | atts (c : CoreNo) (b : Body) (fault : Option Nat)  -- ATTS
  | attv (c : CoreNo) (b : Body) (fault : Option Nat)  -- ATTV
  | scan (c : CoreNo) (b : Body)  -- SCAN
  | lconv (c : CoreNo) (b : Body)  -- LCONV
  | route (c : CoreNo) (b : Body) (fault : Option Nat)  -- ROUTE
  | comb (c : CoreNo) (b : Body) (order : List Nat)  -- COMB
  | boxd (c : CoreNo) (b : Body) (fault : Option Nat)  -- BOXD
  | nms (c : CoreNo) (b : Body)  -- NMS
  | madd (c : CoreNo) (b : Body)  -- MADD
  | cnta (c : CoreNo) (b : Body)  -- CNTA
  | cvt (c : CoreNo) (b : Body)  -- CVT
  | wait (c : CoreNo) (b : Body)  -- WAIT
  | sig (c : CoreNo) (b : Body)  -- SIG
  | bar (c : CoreNo) (b : Body)  -- BAR
  | loop (c : CoreNo) (b : Body)  -- LOOP
  | jmp (c : CoreNo) (b : Body)  -- JMP
  | skipl (c : CoreNo) (b : Body)  -- SKIPL
  | fork (c : CoreNo) (b : Body)  -- FORK
  | drop (c : CoreNo) (b : Body)  -- DROP
  | dropTrunc (c : CoreNo) (b : Body)  -- DROP_TRUNC
  | passOver (c : CoreNo) (op : BitVec 8) (b : Body)  -- PASS_OVER
  | identityWrite (c : CoreNo) (op : BitVec 8) (b : Body)  -- IDENTITY_WRITE
  | instrRetire (c : CoreNo) (lc exe : Bool) (k : Nat)  -- INSTR_RETIRE
  | segmentComplete (c : CoreNo) (lc : Bool) (k : EntryRef) (cls : SlotClass)  -- SEGMENT_COMPLETE
  | fetchHazardStart (c : CoreNo) (lc : Bool) (k : Nat)  -- FETCH_HAZARD_START
  | sigAddLands (c : CoreNo) (lc : Bool)  -- SIG_ADD_LANDS
  | watchRelease (c : CoreNo) (lc : Bool)  -- WATCH_RELEASE
  | watchPoll (c : CoreNo) (lc : Bool)  -- WATCH_POLL
  | syncTimeout (c : CoreNo) (lc : Bool)  -- SYNC_TIMEOUT
  | jobStart (j : Nat)  -- JOB_START
  | jobComplete (j : Nat)  -- JOB_COMPLETE
  | lcPreempt (c : CoreNo)  -- LC_PREEMPT
  | lcResumeBe (c : CoreNo)  -- LC_RESUME_BE
  | rampEnd (c : CoreNo)  -- RAMP_END
  | scratchScrub (c : CoreNo) (word : Fin 24576) (badBits : Nat)  -- SCRATCH_SCRUB
  | rearmPromote (c : CoreNo) (lc : Bool) (sid : Fin 8)  -- REARM_PROMOTE
  | mcastBlockFetch (j : Nat) (g : Fin 64)  -- MCAST_BLOCK_FETCH
  | carouselStart (c : CoreNo) (lc : Bool) (k : Nat)  -- CAROUSEL_START
  | commit (g : GroupNo) (idx : Fin 4096) (layer : Nat) (n : Int)  -- COMMIT
  | appendDone (g : GroupNo) (idx : Fin 4096) (layer : Nat)  -- APPEND_DONE
  | commitResume (d : Die)  -- COMMIT_RESUME
  | prefixOffer (g : GroupNo) (idx : Fin 4096) (block : Nat)  -- PREFIX_OFFER
  | mirrorFill (d : Die) (page : Nat)  -- MIRROR_FILL
  | groupCreate (id : Nat) (slot : Fin 256)  -- GROUP_CREATE
  | groupDestroy (id : Nat)  -- GROUP_DESTROY
  | join (id : Nat)  -- JOIN
  | leave (id : Nat)  -- LEAVE
  | stepBoundary (g : GroupNo)  -- STEP_BOUNDARY
  | evictionDone (g : GroupNo)  -- EVICTION_DONE
  | swapOutRequest (c : CoreNo) (lc : Bool) (slot : Nat)  -- SWAP_OUT_REQUEST
  | swapOut (c : CoreNo) (lc : Bool) (slot : Nat)  -- SWAP_OUT
  | swapIn (c : CoreNo) (lc : Bool) (slot : Nat)  -- SWAP_IN
  | swapInDone (c : CoreNo) (lc : Bool) (slot : Nat)  -- SWAP_IN_DONE
  | dramRequest (d : Die) (r : DramReq)  -- DRAM_REQUEST
  | ceWriteback (d : Die) (channel : Fin 128) (dpa : Nat)  -- CE_WRITEBACK
  | patrolScrub (d : Die) (channel : Fin 128) (errBytes : Nat × Nat)  -- PATROL_SCRUB
  | adderOp (d : Die) (dpa : Nat) (fmt : BitVec 4) (op : AdderOp) (v cmp : Word64)  -- ADDER_OP
  | regulatorTick (d : Die)  -- REGULATOR_TICK
  | migrateRequest (d : Die) (channel : BitVec 8)  -- MIGRATE_REQUEST
  | recalExpiry (d : Die) (channel : Fin 128)  -- RECAL_EXPIRY
  | migrationStart (d : Die)  -- MIGRATION_START
  | migrationSwap (d : Die)  -- MIGRATION_SWAP
  | retrainDone (d : Die) (pass : Bool)  -- RETRAIN_DONE
  | controlPeriod (r : Readings)  -- CONTROL_PERIOD
  | dramLimitRaise (k : ClusterNo)  -- DRAM_LIMIT_RAISE
  | neighbourThrottle (k : ClusterNo)  -- NEIGHBOUR_THROTTLE
  | refreshRestore (d : Die) (layer : Fin 8)  -- REFRESH_RESTORE
  | junctionRaise (k : ClusterNo)  -- JUNCTION_RAISE
  | powerRaise  -- POWER_RAISE
  | halfRateStart (d : Option Die) (amps : Nat)  -- HALF_RATE_START
  | pointRampDone (k : ClusterNo)  -- POINT_RAMP_DONE
  | aspaceCreate (id : Nat) (asid : Fin 1024)  -- ASPACE_CREATE
  | aspaceDestroy (id : Nat)  -- ASPACE_DESTROY
  | map (id : Nat) (frame : Nat)  -- MAP
  | unmap (id : Nat)  -- UNMAP
  | place (id : Nat) (frame : Nat)  -- PLACE
  | bias (id : Nat)  -- BIAS
  | imagoLoad (id : Nat) (slot : Fin 64) (frame : Nat)  -- IMAGO_LOAD
  | imagoLoadDone (slot : Fin 64)  -- IMAGO_LOAD_DONE
  | imagoRetire (id : Nat)  -- IMAGO_RETIRE
  | libraryStore (id : Nat)  -- LIBRARY_STORE
  | nop (id : Nat)  -- NOP
  | demotion (d : Die) (frame : Nat)  -- DEMOTION
  | promotion (asid : Option (Fin 1024)) (vpn frame : Nat)  -- PROMOTION
  | pageMoveDone (asid : Fin 1024) (vpn : Nat)  -- PAGE_MOVE_DONE
  | lateRead (j : Nat) (why : LateWhy)  -- LATE_READ
  | nandReadDone (library : Bool) (page : Nat) (fails : Fin 3)  -- NAND_READ_DONE
  | badBlockRetire (channel : Fin 8) (block : Nat)  -- BAD_BLOCK_RETIRE
  | wearLevelMove (channel : Fin 8) (block fresh : Nat)  -- WEAR_LEVEL_MOVE
  | readDisturbRefresh (channel : Fin 8) (block fresh : Nat)  -- READ_DISTURB_REFRESH
  | cxlLinkTrain (rate : Fin 3) (width : Nat)  -- CXL_LINK_TRAIN
  | ringContextWrite (r : RingNo) (ctx : BitVec 512)  -- RING_CONTEXT_WRITE
  | ringEnable (r : RingNo)  -- RING_ENABLE
  | ringDisable (r : RingNo)  -- RING_DISABLE
  | sqTail (r : RingNo) (t : BitVec 16)  -- SQ_TAIL
  | cqHead (r : RingNo) (h : BitVec 16)  -- CQ_HEAD
  | push (r : RingNo) (entry : Option (BitVec 512))  -- PUSH
  | sqFetch (r : RingNo) (entry : Option (BitVec 512))  -- SQ_FETCH
  | job (id : Nat)  -- JOB
  | completionPost (r : RingNo) (hostError : Bool)  -- COMPLETION_POST
  | holdoffExpiry (r : RingNo)  -- HOLDOFF_EXPIRY
  | hostSnoop (r : RingNo)  -- HOST_SNOOP
  | eventPost (hostError : Bool)  -- EVENT_POST
  | quench (id : Nat)  -- QUENCH
  | quenchCtrl (v : Word64) (bytes : Nat)  -- QUENCH_CTRL
  | quenchNAssert  -- QUENCH_N_ASSERT
  | quenchNRelease  -- QUENCH_N_RELEASE
  | mbGo (opcode : Word64) (len : Word64) (vector : BitVec 11) (payload : List Byte)  -- MB_GO
  | dictRead  -- DICT_READ
  | dictWrite  -- DICT_WRITE
  | changeOrder  -- CHANGE_ORDER
  | claim  -- CLAIM
  | attestReport  -- ATTEST_REPORT
  | attestCertificate  -- ATTEST_CERTIFICATE
  | hostMemRead (pdpa : Nat)  -- HOST_MEM_READ
  | hostMemWrite (pdpa : Nat) (line : List Byte)  -- HOST_MEM_WRITE
  | hdmCommit (decoder : Fin 2) (base size skip : Nat) (ways : Nat) (lock : Bool)  -- HDM_COMMIT
  | objectWrite (f : FieldWrite)  -- OBJECT_WRITE
  | store (v : Word32)  -- STORE
  | storeDone (ok : Bool)  -- STORE_DONE
  | restore (v : Word32)  -- RESTORE
  | restoreDefaults (v : Word32)  -- RESTORE_DEFAULTS
  | sillClear (v : Word32)  -- SILL_CLEAR
  | resetCauseClear (v : Word32)  -- RESET_CAUSE_CLEAR
  | pmbusClear (v : Byte)  -- PMBUS_CLEAR
  | vinCoreSetpoint (v : BitVec 16)  -- VIN_CORE_SETPOINT
  | pmbusPoll (r : Option PmbusReading)  -- PMBUS_POLL
  | fnEnable (v : Byte)  -- FN_ENABLE
  | fnQuench (v : Word64)  -- FN_QUENCH
  | lossQuery (v : Word32)  -- LOSS_QUERY
  | coreRetire (d : Die) (v : BitVec 16)  -- CORE_RETIRE
  | spareSwapDone (c : CoreNo) (pass : Bool)  -- SPARE_SWAP_DONE
  | drain (d : Die)  -- DRAIN
  | undrain (d : Die)  -- UNDRAIN
  | update (d : Die)  -- UPDATE
  | updateRestart (d : Die)  -- UPDATE_RESTART
  | updateDone (d : Die) (e : UpdateEnd)  -- UPDATE_DONE
  | hubUpdate  -- HUB_UPDATE
  | rejoin (d : Die)  -- REJOIN
  | autoRejoin (d : Die)  -- AUTO_REJOIN
  | rejoinDone (d : Die)  -- REJOIN_DONE
  | fwStageKind (v : Byte)  -- FW_STAGE_KIND
  | fwStageData (v : List Byte)  -- FW_STAGE_DATA
  | fwStageCommit (v : Word32)  -- FW_STAGE_COMMIT
  | cocoonBankSwap (v : Word32)  -- COCOON_BANK_SWAP
  | fnFrame (frame : List Byte)  -- FN_FRAME
  | sessionGrant  -- SESSION_GRANT
  | sessionClose  -- SESSION_CLOSE
  | sessionExpiry (n : BitVec 16)  -- SESSION_EXPIRY
  | reassemblyTimeout (buffer : Fin 4)  -- REASSEMBLY_TIMEOUT
  | jobDispatch (j : Nat)  -- JOB_DISPATCH
  | clusterWake (k : ClusterNo)  -- CLUSTER_WAKE
  | wakeDone (k : ClusterNo)  -- WAKE_DONE
  | coldAfterExpiry (k : ClusterNo)  -- COLD_AFTER_EXPIRY
  | clusterDrydownDone (k : ClusterNo)  -- CLUSTER_DRYDOWN_DONE
  | spill (c : CoreNo) (frame : Nat)  -- SPILL
  | spillDone (c : CoreNo)  -- SPILL_DONE
  | spillRestore (c : CoreNo) (failed : Bool)  -- SPILL_RESTORE
  | forcedSwitch (j : Nat)  -- FORCED_SWITCH
  | fallbackSwitch (j : Nat)  -- FALLBACK_SWITCH
  | deadlineExpiry (j : Nat)  -- DEADLINE_EXPIRY
  | heartbeat (d : Die) (p : HbPath) (watchdogExpired : Bool)  -- HEARTBEAT
  | heartbeatMiss (d : Die) (p : HbPath)  -- HEARTBEAT_MISS
  | watchdogExpiry (d : Die)  -- WATCHDOG_EXPIRY
  | dieLoss (d : Die) (memory : Bool)  -- DIE_LOSS
  | ringRehome (r : RingNo)  -- RING_REHOME
  | ringReturn (r : RingNo)  -- RING_RETURN
  | groupRehome (g : GroupNo)  -- GROUP_REHOME
  | jobRequeue (j : Nat)  -- JOB_REQUEUE
  | secondDieFill (i : FillItem)  -- SECOND_DIE_FILL
  | fillDone (i : FillItem)  -- FILL_DONE
  | repack  -- REPACK
  | repackSwitch (frame : Nat)  -- REPACK_SWITCH
  | lockstepMismatch  -- LOCKSTEP_MISMATCH
  | cocoonRestartDone (ok : Bool)  -- COCOON_RESTART_DONE
  | trip (cause : Fin 8) (sensor : BitVec 16) (reading : BitVec 16)  -- TRIP
  | tripRelease (cool : Bool)  -- TRIP_RELEASE
  | aliasGenDone  -- ALIAS_GEN_DONE
  | porAssert  -- POR_ASSERT
  | porRelease (bootSel clkMode : Fin 4)  -- POR_RELEASE
  | instarStart (u : FwUnit) (pass : Bool)  -- INSTAR_START
  | perstAssert  -- PERST_ASSERT
  | perstRelease  -- PERST_RELEASE
  | hotReset  -- HOT_RESET
  | flr  -- FLR
  | dieRstAssert (d : Die)  -- DIE_RST_ASSERT
  | dieRstRelease (d : Die)  -- DIE_RST_RELEASE
  | dieReleaseDone (d : Die)  -- DIE_RELEASE_DONE
  | clusterRst (k : ClusterNo)  -- CLUSTER_RST
  | coreRst (c : CoreNo)  -- CORE_RST
  | idleReport (b : IdleBlock)  -- IDLE_REPORT
  | idleTimeout (b : IdleBlock)  -- IDLE_TIMEOUT
  | supplyLoss (r : Rail)  -- SUPPLY_LOSS
  | referenceQualified  -- REFERENCE_QUALIFIED
  | linkTrain (l : Fin 10) (badLanes : Nat)  -- LINK_TRAIN
  | laneRetrain (l : Fin 10)  -- LANE_RETRAIN
  | laneRetrainDone (l : Fin 10)  -- LANE_RETRAIN_DONE
  | linkFault (l : Fin 10)  -- LINK_FAULT
  | unassignedOpcode (c : CoreNo) (op : BitVec 8) (b : Body)  -- UNASSIGNED_OPCODE
  | watchdogRestartTimeout (d : Die)  -- WATCHDOG_RESTART_TIMEOUT
  | releaseSequenceOverrun (d : Die)  -- RELEASE_SEQUENCE_OVERRUN
  | coreLogicUe (c : CoreNo)  -- CORE_LOGIC_UE
  | vinCoreUp  -- VIN_CORE_UP
  | hubUpdateDone  -- HUB_UPDATE_DONE
  | currentLimitRaise  -- CURRENT_LIMIT_RAISE
  | pmbusEnable (v : Byte)  -- PMBUS_ENABLE
  deriving DecidableEq, Repr

end Sys2Proof
end

