-- ==== Sys2Proof/Decode.lean ====
section
/-! DEFINITION. The A4 takes commands, and the table gives none of its rows bits: no word of the table spells a command.
A tile instruction itself is a word of 128 bits, whose opcode picks its command (R107, R112). -/

namespace Sys2Proof

/-- The command that a word spells by the bits of the table: none, since no row has bits. -/
def decodeTableWord (_nbits _w : Nat) : Option Instr := none

/-- The opcode field of a tile instruction, bits [127:120] (R107). -/
def opcodeOf (w : BitVec 128) : BitVec 8 := w.extractLsb' 120 8

/-- What a tile instruction holds under its opcode, bits [119:0] (R107). -/
def bodyOf (w : BitVec 128) : Body := w.extractLsb' 0 120

/-- TRUNC of a DROP, bit 107 (R143). -/
def dropTruncBit (w : BitVec 128) : Bool := w.getLsbD 107

/-- The command that a core carries out for the instruction word that it fetched (R112): the opcode picks it, and every
opcode that is not assigned is UNASSIGNED_OPCODE. What a word does not say, a fault found by a checker and the order of a
COMB's sums, is left out. -/
def decodeWord (c : CoreNo) (w : BitVec 128) : Instr :=
  let b := bodyOf w
  match (opcodeOf w).toNat with
  | 0x01 => .ldt c b
  | 0x02 => .stt c b
  | 0x03 => .gath c b
  | 0x04 => .scat c b
  | 0x10 => .mma c b none
  | 0x11 => .mmax c b none
  | 0x20 => .ewu c b none
  | 0x21 => .ewb c b
  | 0x22 => .act c b none
  | 0x30 => .win c b
  | 0x31 => .pool c b
  | 0x40 => .atts c b none
  | 0x41 => .attv c b none
  | 0x50 => .scan c b
  | 0x51 => .lconv c b
  | 0x60 => .route c b none
  | 0x61 => .comb c b []
  | 0x70 => .boxd c b none
  | 0x71 => .nms c b
  | 0x80 => .madd c b
  | 0x81 => .cnta c b
  | 0x90 => .cvt c b
  | 0xA0 => .wait c b
  | 0xA1 => .sig c b
  | 0xA2 => .bar c b
  | 0xB0 => .loop c b
  | 0xB1 => .jmp c b
  | 0xB2 => .skipl c b
  | 0xC0 => .fork c b
  | 0xC1 => if dropTruncBit w then .dropTrunc c b else .drop c b
  | _ => .unassignedOpcode c (opcodeOf w) b

end Sys2Proof
end

