-- ==== Sys2Proof/Config.lean ====
section
/-! DEFINITION. What the manual leaves open: the free values. Each is a constant with no body, so that
no proof can see what it is. The first argument of most is the counter of the state (`State.free`),
which the step advances at each use. -/

namespace Sys2Proof.Config

/-- A byte of a region that holds undefined data (R147, R418, R491, R465, R215): the region's token and the address. -/
opaque freeByte : Nat → Nat → Byte
/-- What the entropy source of a die gives a core's generator at a job start (R52). -/
opaque entropy : Nat → Word32
/-- The next state of a core's 32-bit generator (R52). -/
opaque rngNext : Word32 → Word32
/-- The 16 random bits of a state of the generator (R52). -/
opaque rngBits : Word32 → BitVec 16
/-- A core's function unit passes its self-test (R88): core and a counter. -/
opaque selfTest : Nat → Nat → Bool
/-- What the function unit gives for function `f` at input bits `x` where R84 fixes only a bound. -/
opaque functionUnit : Nat → Word32 → Word32
/-- The line of a segment of the piecewise-linear unit (R85), by function and segment 0 to 15: FP32 codes of its value
at 0 and its slope. The fit is minimax; its coefficients are not given. -/
opaque pwlLine : Nat → Nat → Nat × Nat
/-- The order of the additions of EWU RSUM, fixed for a given COLS (R121): at step t of a row of `cols` elements,
which two partial sums are added. -/
opaque rsumOrder : Nat → Nat → Nat × Nat
/-- The hi/lo pair of FP32 bits of one LCONV state element (R290, R292): NS, C, L, then a, b, the initial hi and lo
and the inputs as FP32 bits. Within R293's bound the bits are one function of the operands. -/
opaque lconvState : Nat → Nat → Nat → List Nat → Nat × Nat
/-- The order of the sums of one LCONV state element, fixed for given NS, C and L (R290): NS, C, L, and at each step which
two partial sums are added. -/
opaque lconvOrder : Nat → Nat → Nat → Nat → Nat × Nat
/-- XMSS verification under RFC 8391 (R509, R444, R523): public key, message, signature. -/
opaque xmssVerify : List Byte → List Byte → List Byte → Bool
/-- An XMSS signature by the Cocoon's signing engine (R520): key handle, leaf, message. -/
opaque xmssSign : Nat → Nat → List Byte → List Byte
/-- The public half of the alias key of a boot, 68 bytes (R519). -/
opaque aliasPublic : Nat → List Byte
/-- The per-part values of R438 and R527, numbered by object (index × 256 + subindex). -/
opaque perPart : Nat → Nat
/-- The identity public key, 68 bytes (R518, R527). -/
opaque identityKey : List Byte
/-- The vendor public keys 0 and 1 (R518). -/
opaque vendorKey : Nat → List Byte
/-- What a code of an I16 object reads before any reading has been taken, and like values of objects
whose tables give no default. -/
opaque freeNat : Nat → Nat

/-- The E8M0 scale of a block of an MX operand that comes without a scale plane (R233 lets ATTS and ATTV take one, and no field
of R125 and R126 names a plane): a counter, the row and the block. -/
opaque noPlaneScale : Nat → Nat → Nat → Nat
/-- The REQ (0) and DATA (1) credit pools of a link direction, less one: R24 calls them shared pools and gives no size. -/
opaque linkPool : Nat → Nat

/-- The NAND block in which the flash translation layer keeps the part of a tier page that lies on a channel (R348):
the page's number and the channel. -/
opaque flashBlock : Nat → Nat → Nat

end Sys2Proof.Config
end

