-- ==== Sys2Proof/Machine/Num.lean ====
section
/-! DEFINITION. Number formats and exact arithmetic (02_number_formats R35 to R54): decode a stored code
to an exact value, compute exactly, round once. -/

namespace Sys2Proof.Machine

/-- The element formats of R35. -/
inductive Fmt where
  | fp32 | bf16 | fp16 | e4m3 | e5m2 | fp4 | int8 | int4 | mxE4 | mxE5 | mx4 | int32 | int64 | e8m0
  deriving DecidableEq, Repr

/-- The format of a code of R35; 0xE and 0xF are reserved. -/
def fmtOfCode (c : Nat) : Option Fmt :=
  [Fmt.fp32, .bf16, .fp16, .e4m3, .e5m2, .fp4, .int8, .int4, .mxE4, .mxE5, .mx4, .int32, .int64, .e8m0][c]?

/-- Bits of one element. -/
def fmtBits : Fmt → Nat
  | .fp32 | .int32 => 32
  | .bf16 | .fp16 => 16
  | .fp4 | .int4 | .mx4 => 4
  | .int64 => 64
  | _ => 8

/-- The MX formats 0x8 to 0xA (R38). -/
def isMx : Fmt → Bool
  | .mxE4 | .mxE5 | .mx4 => true
  | _ => false

/-- The element format of a block-scaled format; any other format is its own. -/
def elemFmt : Fmt → Fmt
  | .mxE4 => .e4m3
  | .mxE5 => .e5m2
  | .mx4 => .fp4
  | f => f

/-- A rounding mode: those of R51 and the upward rounding of the KV scales (R43). -/
inductive Rnd where
  | rne | rz | sr | up
  deriving DecidableEq, Repr

/-- The rounding-mode field of R51; 3 is reserved. -/
def rndOfCode : Nat → Option Rnd
  | 0 => some .rne
  | 1 => some .rz
  | 2 => some .sr
  | _ => none

/-- An exact value: NaN, an infinity, or ±m × 2^e. A zero keeps its sign. -/
inductive Num where
  | nan
  | inf (neg : Bool)
  | fin (neg : Bool) (m : Nat) (e : Int)
  deriving DecidableEq, Repr

/-- +0. -/
def numZero : Num := .fin false 0 0
/-- 1.0. -/
def numOne : Num := .fin false 1 0

/-- Exponent bits, mantissa bits and bias of a floating-point format (R35). -/
def floatShape : Fmt → Option (Nat × Nat × Int)
  | .fp32 => some (8, 23, 127)
  | .bf16 => some (8, 7, 127)
  | .fp16 => some (5, 10, 15)
  | .e4m3 | .mxE4 => some (4, 3, 7)
  | .e5m2 | .mxE5 => some (5, 2, 15)
  | .fp4 | .mx4 => some (2, 1, 1)
  | _ => none

/-- `m` read as a two's-complement number of `w` bits. -/
def toSigned (w m : Nat) : Int :=
  if m < 2 ^ (w - 1) then (m : Int) else (m : Int) - 2 ^ w

/-- The stored bits of an integer in `w` bits. -/
def ofSigned (w : Nat) (x : Int) : Nat := (x % 2 ^ w).toNat

/-- An integer as an exact value. -/
def numOfInt (x : Int) : Num := .fin (decide (x < 0)) x.natAbs 0

/-- True when the exponent field all ones holds specials (R35: not in E4M3, FP4). -/
def hasInf : Fmt → Bool
  | .fp32 | .bf16 | .fp16 | .e5m2 | .mxE5 => true
  | _ => false

/-- The exact value of a stored code (R35, R38 for an element without its scale). -/
def decodeNum (f : Fmt) (bits : Nat) : Num :=
  match floatShape f with
  | some (eb, mb, bias) =>
    let neg := bits / 2 ^ (eb + mb) % 2 = 1
    let ex := bits / 2 ^ mb % 2 ^ eb
    let man := bits % 2 ^ mb
    if hasInf f ∧ ex = 2 ^ eb - 1 then
      (if man = 0 then .inf neg else .nan)
    else if elemFmt f = .e4m3 ∧ bits % 128 = 127 then .nan
    else if ex = 0 then .fin neg man (1 - bias - mb)
    else .fin neg (2 ^ mb + man) (ex - bias - mb)
  | none =>
    match f with
    | .e8m0 => if bits % 256 = 255 then .nan else .fin false 1 ((bits % 256 : Nat) - 127)
    | _ => numOfInt (toSigned (fmtBits f) (bits % 2 ^ fmtBits f))

/-- The largest finite magnitude of a floating-point format as mantissa and exponent (R35). -/
def maxFinite : Fmt → Nat × Int
  | .fp32 => (2 ^ 24 - 1, 104)
  | .bf16 => (255, 120)
  | .fp16 => (2047, 5)
  | .e4m3 | .mxE4 => (14, 5)
  | .e5m2 | .mxE5 => (7, 13)
  | _ => (3, 1)

/-- `⌊m × 2^e / 2^q⌋` rounded by a mode; `r` holds 16 random bits for SR (R52). -/
def roundTo (md : Rnd) (r : Nat) (neg : Bool) (m : Nat) (e q : Int) : Nat :=
  if q ≤ e then m * 2 ^ (e - q).toNat else
    let d := (q - e).toNat
    let n := m / 2 ^ d
    let rest := m % 2 ^ d
    match md with
    | .rz => n
    | .up => if rest = 0 ∨ neg then n else n + 1
    | .rne => if 2 * rest > 2 ^ d ∨ (2 * rest = 2 ^ d ∧ n % 2 = 1) then n + 1 else n
    | .sr => (m * 2 ^ 16 + r * 2 ^ d) / 2 ^ (d + 16)

/-- `floor(log2 (m × 2^e))` for m ≠ 0. -/
def floorLog2 (m : Nat) (e : Int) : Int := (Nat.log2 m : Int) + e

/-- Comparison of two non-negative magnitudes `a × 2^ea < b × 2^eb`. -/
def magLt (a : Nat) (ea : Int) (b : Nat) (eb : Int) : Bool :=
  let lo := min ea eb
  a * 2 ^ (ea - lo).toNat < b * 2 ^ (eb - lo).toNat

/-- The result of a conversion: the code, and which counter of R53 it increments. -/
structure Conv where
  code : Nat
  sat  : Bool := false
  nonfinite : Bool := false
  deriving DecidableEq, Repr

/-- The canonical NaN of a destination; formats without one write 0 (R37, R53). -/
def canonicalNaN : Fmt → Nat
  | .fp32 => 0x7FC00000
  | .bf16 => 0x7FC0
  | .fp16 => 0x7E00
  | .e5m2 | .mxE5 => 0x7E
  | .e4m3 | .mxE4 => 0x7F
  | .e8m0 => 0xFF
  | _ => 0

/-- The largest finite code of a floating-point format, without its sign. -/
def maxCode : Fmt → Nat
  | .fp32 => 0x7F7FFFFF
  | .bf16 => 0x7F7F
  | .fp16 => 0x7BFF
  | .e4m3 | .mxE4 => 0x7E
  | .e5m2 | .mxE5 => 0x7B
  | _ => 7

/-- The code of infinity, without its sign, for the formats that have one. -/
def infCode : Fmt → Nat
  | .fp32 => 0x7F800000
  | .bf16 => 0x7F80
  | .fp16 => 0x7C00
  | _ => 0x7C

/-- The sign bit of a code in its place. -/
def signBit (f : Fmt) (neg : Bool) : Nat := if neg then 2 ^ (fmtBits f - 1) else 0

/-- Pack a rounded magnitude `n × 2^q`, in range, into a floating-point code. -/
def packFloat (mb : Nat) (bias : Int) (n : Nat) (q : Int) : Nat :=
  let (n, q) := if 2 ^ (mb + 1) ≤ n then (n / 2, q + 1) else (n, q)
  if n < 2 ^ mb then n else (q + mb + bias).toNat * 2 ^ mb + (n - 2 ^ mb)

/-- The mode that acts on a destination: SR acts only on 16 bits or fewer (R52). -/
def effRnd (f : Fmt) (md : Rnd) : Rnd := if md = .sr ∧ fmtBits f > 16 then .rne else md

/-- Conversion of an exact value into a format (R51 to R53). -/
def convertNum (f : Fmt) (md : Rnd) (sat : Bool) (r : Nat) (x : Num) : Conv :=
  let md := effRnd f md
  match floatShape f with
  | some (_, mb, bias) =>
    match x with
    | .nan => { code := if elemFmt f = .fp4 then 0 else canonicalNaN f, nonfinite := true }
    | .inf neg =>
      { code := signBit f neg + (if hasInf f ∧ ¬ sat then infCode f else maxCode f), nonfinite := true }
    | .fin neg m e =>
      if m = 0 then { code := signBit f neg } else
        let q := max (floorLog2 m e - mb) (1 - bias - mb)
        let n := roundTo md r neg m e q
        let (mm, me) := maxFinite f
        if magLt mm me n q then
          { code := signBit f neg +
              (if hasInf f ∧ ¬ sat ∧ md ≠ .rz then infCode f else maxCode f), sat := true }
        else { code := signBit f neg + packFloat mb bias n q }
  | none =>
    let w := fmtBits f
    let lo : Int := -(2 ^ (w - 1) : Nat)
    let hi : Int := (2 ^ (w - 1) : Nat) - 1
    match x with
    | .nan => { code := 0, nonfinite := true }
    | .inf neg => { code := ofSigned w (if neg then lo else hi), nonfinite := true }
    | .fin neg m e =>
      let n := roundTo md r neg m e 0
      let v : Int := if neg then -(n : Int) else n
      if v < lo then { code := ofSigned w lo, sat := true }
      else if hi < v then { code := ofSigned w hi, sat := true }
      else { code := ofSigned w v }

/-- An exact value rounded into FP32 and read back: the single rounding of an operation (R50, R47). -/
def toFp32 (md : Rnd) (x : Num) : Num :=
  match x with
  | .fin .. => decodeNum .fp32 (convertNum .fp32 md false 0 x).code
  | _ => x

/-- FP32 bits of a value that FP32 holds exactly. -/
def fp32Bits (x : Num) : Nat := (convertNum .fp32 .rne false 0 x).code

/-- A value as signed mantissa and exponent. -/
def signedMan (neg : Bool) (m : Nat) : Int := if neg then -(m : Int) else m

def numNeg : Num → Num
  | .nan => .nan
  | .inf n => .inf (!n)
  | .fin n m e => .fin (!n) m e

def numAbs : Num → Num
  | .nan => .nan
  | .inf _ => .inf false
  | .fin _ m e => .fin false m e

def isNaN : Num → Bool
  | .nan => true
  | _ => false

def isFinite : Num → Bool
  | .fin .. => true
  | _ => false

def isZero : Num → Bool
  | .fin _ m _ => m = 0
  | _ => false

def isNeg : Num → Bool
  | .nan => false
  | .inf n => n
  | .fin n _ _ => n

/-- Exact product with the special values of R49. -/
def numMul (a b : Num) : Num :=
  match a, b with
  | .nan, _ => .nan
  | _, .nan => .nan
  | .inf n, y => if isZero y then .nan else .inf (n != isNeg y)
  | x, .inf n => if isZero x then .nan else .inf (n != isNeg x)
  | .fin n m e, .fin k p f => .fin (n != k) (m * p) (e + f)

/-- Exact sum of two values; an exact zero sum is +0 unless both terms are −0 (R49). -/
def numAdd (a b : Num) : Num :=
  match a, b with
  | .nan, _ => .nan
  | _, .nan => .nan
  | .inf n, .inf k => if n = k then .inf n else .nan
  | .inf n, _ => .inf n
  | _, .inf n => .inf n
  | .fin n m e, .fin k p f =>
    if m = 0 ∧ p = 0 then .fin (n && k) 0 0
    else if m = 0 then .fin k p f
    else if p = 0 then .fin n m e
    else
      let lo := min e f
      let s := signedMan n m * 2 ^ (e - lo).toNat + signedMan k p * 2 ^ (f - lo).toNat
      .fin (decide (s < 0)) s.natAbs lo

/-- Exact sum of a list from left to right, starting from the first term. -/
def numSum : List Num → Num
  | [] => numZero
  | x :: xs => xs.foldl numAdd x

/-- `a < b`; false with a NaN (R50); −0 equals +0. -/
def numLt (a b : Num) : Bool :=
  match a, b with
  | .nan, _ => false
  | _, .nan => false
  | .inf n, .inf k => n && !k
  | .inf n, _ => n
  | _, .inf n => !n
  | .fin n m e, .fin k p f =>
    let lo := min e f
    decide (signedMan n m * 2 ^ (e - lo).toNat < signedMan k p * 2 ^ (f - lo).toNat)

/-- Equality of values; false with a NaN; −0 equals +0. -/
def numEq (a b : Num) : Bool :=
  match a, b with
  | .nan, _ => false
  | _, .nan => false
  | .inf n, .inf k => n = k
  | .inf _, _ => false
  | _, .inf _ => false
  | .fin n m e, .fin k p f =>
    let lo := min e f
    decide (signedMan n m * 2 ^ (e - lo).toNat = signedMan k p * 2 ^ (f - lo).toNat)

def numLe (a b : Num) : Bool := numLt a b || numEq a b

/-- Minimum of R50: NaN if either is NaN; −0 is less than +0. -/
def numMin (a b : Num) : Num :=
  if isNaN a || isNaN b then .nan
  else if numLt a b then a else if numLt b a then b else if isNeg a then a else b

/-- Maximum of R50. -/
def numMax (a b : Num) : Num :=
  if isNaN a || isNaN b then .nan
  else if numLt a b then b else if numLt b a then a else if isNeg a then b else a

/-- Quotient of two finite values rounded to `q = 2^q` units by a sticky bit: the quotient is held to 64
more bits than the dividend needs, with the remainder folded into the lowest bit, so one later rounding
is exact. Division by zero of a finite non-zero value is an infinity, 0 / 0 is NaN. -/
def numDiv (a b : Num) : Num :=
  match a, b with
  | .nan, _ => .nan
  | _, .nan => .nan
  | .inf _, .inf _ => .nan
  | .inf n, y => .inf (n != isNeg y)
  | x, .inf n => .fin (isNeg x != n) 0 0
  | .fin n m e, .fin k p f =>
    if p = 0 then (if m = 0 then .nan else .inf (n != k)) else
      let sh := 64 + Nat.log2 p + 1
      let num := m * 2 ^ sh
      let quo := num / p
      let sticky := if num % p = 0 then 0 else 1
      .fin (n != k) (2 * quo + sticky) (e - f - sh - 1)

/-- FP32 operations of R50: exact, then one rounding under the mode. -/
def fAdd (md : Rnd) (a b : Num) : Num := toFp32 md (numAdd a b)
def fSub (md : Rnd) (a b : Num) : Num := toFp32 md (numAdd a (numNeg b))
def fMul (md : Rnd) (a b : Num) : Num := toFp32 md (numMul a b)
def fFma (md : Rnd) (a b c : Num) : Num := toFp32 md (numAdd (numMul a b) c)
def fDiv (md : Rnd) (a b : Num) : Num := toFp32 md (numDiv a b)

/-- The widening of an element to FP32 on entry to the element-wise pipeline (R50): exact for every
format but INT32 and INT64, whose values FP32 may have to round (DEDUCED from R51: to nearest even). -/
def widen (f : Fmt) (bits : Nat) : Num := toFp32 .rne (decodeNum f bits)

/-- `emax` of an MX element format (R39). -/
def mxEmax (f : Fmt) : Int :=
  match elemFmt f with
  | .fp4 => 2
  | .e4m3 => 8
  | _ => 15

/-- Encoding of one MX block (R39, R40): the scale code, the element codes, and whether NUM_NONFINITE
counts. `rs` gives the random bits of element i. -/
def mxEncode (f : Fmt) (md : Rnd) (rs : Nat → Nat) (xs : List Num) : Nat × List Nat × Bool :=
  if xs.any (fun x => !isFinite x) then (255, xs.map (fun _ => 0), true) else
    let logs : List Int := xs.filterMap fun x =>
      match x with
      | .fin _ m e => if m = 0 then none else some (floorLog2 m e)
      | _ => none
    match logs with
    | [] => (127, xs.map (fun _ => 0), false)
    | l :: ls =>
      let sh := max (-127) (min 127 (ls.foldl max l - mxEmax f))
      let enc := xs.zipIdx.map fun (x, i) =>
        match x with
        | .fin n m e =>
          let x' : Num := .fin n m (e - sh)
          (convertNum (elemFmt f) md true (rs i) x').code
        | _ => 0
      ((sh + 127).toNat, enc, false)

/-- Accepted operand pairs of R48: the array depth, none for an illegal pair. -/
def arrayDepth (a b : Fmt) : Option Nat :=
  let cls (f : Fmt) : Option Nat :=
    match f with
    | .fp4 | .mx4 => some 0
    | .e4m3 | .e5m2 | .mxE4 | .mxE5 => some 1
    | .bf16 => some 2
    | .fp16 => some 3
    | _ => none
  match cls a, cls b with
  | some x, some y =>
    let hi := max x y
    let lo := min x y
    if hi = 0 then some 64
    else if hi = 1 then some 32
    else if hi = 2 then some 16
    else if lo = 2 then none
    else some 16
  | _, _ => none

end Sys2Proof.Machine
end

