-- ==== Sys2Proof/Machine/Bounds.lean ====
section
/-! DEFINITION. The bounds of R84, R85 and R293: what a function or a chunk is exactly, to far more digits than FP32
has, and the free results within the manual's bound of it. -/

namespace Sys2Proof.Machine

/-! ### Fixed point with 256 fraction bits -/

def fixOne : Int := 2 ^ 256

/-- ln 2. -/
def fixLn2 : Int := 80260960185991308862233904206310070533990667611589946606122867505419956976171

/-- 1 / √(2π). -/
def fixPhi : Int := 46194360132781112550002021175736725500524138381534012844286371432913401257262

/-- A value in fixed point, cut to 256 fraction bits. -/
def fixOf (x : Num) : Int :=
  match x with
  | .fin n m e => signedMan n (if 0 ≤ e + 256 then m * 2 ^ (e + 256).toNat else m / 2 ^ (-(e + 256)).toNat)
  | _ => 0

/-- A value of fixed point. -/
def ofFix (x : Int) : Num := .fin (decide (x < 0)) x.natAbs (-256)

/-- `t + t × r / (n + 1) + …`: the Taylor series of exp from its term `n`. -/
def expTail : Nat → Nat → Int → Int → Int
  | 0, _, _, _ => 0
  | k + 1, n, r, t => t + expTail k (n + 1) r (t * r / fixOne / (n + 1))

/-- exp of a finite value not far from the range of FP32: 2^k × exp(r) with r in [0, ln 2). -/
def exactExp (x : Num) : Num :=
  let k := fixOf x / fixLn2
  .fin false (expTail 80 0 (fixOf x - k * fixLn2) fixOne).natAbs (k - 256)

/-- `z / n + z³ / (n + 2) + …`: the series of atanh; `t` is the power of z, `z2` its square. -/
def atanhTail : Nat → Nat → Int → Int → Int
  | 0, _, _, _ => 0
  | k + 1, n, z2, t => t / n + atanhTail k (n + 2) z2 (t * z2 / fixOne)

/-- The natural logarithm of a value above 0: k ln 2 + 2 atanh((y − 1) / (y + 1)) with y in [1, 2). -/
def exactLog (m : Nat) (e : Int) : Num :=
  let one : Int := 2 ^ Nat.log2 m
  let z := ((m : Int) - one) * fixOne / (m + one)
  ofFix (floorLog2 m e * fixLn2 + 2 * atanhTail 90 1 (z * z / fixOne) z)

/-- A value kept within ±200, beyond which exp is far outside FP32. -/
def within200 (x : Num) : Num :=
  if numLt (numOfInt 200) x then numOfInt 200 else if numLt x (numOfInt (-200)) then numOfInt (-200) else x

/-- 1 / (1 + exp(−x)). -/
def exactSigmoid (x : Num) : Num := numDiv numOne (numAdd numOne (exactExp (numNeg (within200 x))))

/-- tanh; near 0 by x − x³ / 3, elsewhere by (exp(2x) − 1) / (exp(2x) + 1). -/
def exactTanh (x : Num) : Num :=
  if numLt (numAbs x) (.fin false 1 (-20)) then numAdd x (numNeg (numDiv (numMul x (numMul x x)) (numOfInt 3)))
  else
    let y := exactExp (numMul (numOfInt 2) (within200 x))
    numDiv (numAdd y (numNeg numOne)) (numAdd y numOne)

/-- `t / (2 n + 1) − …`: the series of the normal distribution; `h` is x² / 2. -/
def phiTail : Nat → Nat → Int → Int → Int
  | 0, _, _, _ => 0
  | k + 1, n, h, t => t / (2 * n + 1) + phiTail k (n + 1) h (-(t * h / fixOne) / (n + 1))

/-- x Φ(x), with Φ the normal distribution. -/
def exactGelu (x : Num) : Num :=
  if numLt (numOfInt 12) x then x
  else if numLt x (numOfInt (-12)) then numZero
  else
    let v := fixOf x
    numMul x (ofFix (fixOne / 2 + fixPhi * phiTail 300 0 (v * v / fixOne / 2) v / fixOne))

/-- The square root of a natural number, rounded down, found from bit `k − 1` of the root downward. -/
def sqrtBits : Nat → Nat → Nat → Nat
  | 0, _, r => r
  | k + 1, n, r => sqrtBits k n (if (r + 2 ^ k) * (r + 2 ^ k) ≤ n then r + 2 ^ k else r)

/-- 1 / √(m × 2^e), for m above 0. -/
def exactRsqrt (m : Nat) (e : Int) : Num :=
  let odd := e % 2 = 1
  let m := if odd then 2 * m else m
  let e := if odd then e - 1 else e
  .fin false (sqrtBits 130 (2 ^ 256 / m) 0) (-128 - e / 2)

/-- FUNC of R110 at a finite value that R84 names no special case for, to more digits than its bound asks. -/
def exactFn (f : Nat) (x : Num) : Num :=
  match f, x with
  | 1, _ => exactExp x
  | 2, .fin _ m e => exactLog m e
  | 3, _ => exactSigmoid x
  | 4, _ => exactTanh x
  | 5, _ => exactGelu x
  | 6, _ => numMul x (exactSigmoid x)
  | 7, _ => numDiv numOne x
  | 8, .fin _ m e => exactRsqrt m e
  | _, _ => numZero

/-! ### Bounds -/

/-- One ulp of a value in FP32; 2⁻¹⁴⁹ for a subnormal or zero (R84, R87). -/
def ulp32 (x : Num) : Num :=
  match x with
  | .fin _ m e => if m = 0 then .fin false 1 (-149) else .fin false 1 (max (floorLog2 m e - 23) (-149))
  | _ => .fin false 1 (-149)

def numLarger (a b : Num) : Num := if numLt a b then b else a

/-- The bound of R84 for a function whose exact result is `y`. -/
def fnBound (f : Nat) (x y : Num) : Num :=
  let ulps (n : Int) := numMul (numOfInt n) (ulp32 y)
  match f with
  | 2 => if numLt x (.fin false 1 (-1)) || numLt (numOfInt 2) x then ulps 2 else .fin false 1 (-23)
  | 5 | 6 => numLarger (ulps 4) (.fin false 1 (-24))
  | 7 | 8 => ulps 1
  | _ => ulps 2

/-- R85's bound as numerator, denominator and whether it is relative. -/
def pwlBound : Nat → Int × Nat × Bool
  | 1 => (25, 100000, true)
  | 2 => (25, 100000, false)
  | 7 => (1, 1000, true)
  | 8 => (35, 10000, true)
  | 3 => (65, 10000, false)
  | 4 => (13, 1000, false)
  | 5 => (13, 1000, false)
  | _ => (32, 1000, false)

/-- A result lies within R85's bound of the exact one, or within one rounding of it (R87). -/
def pwlClose (f : Nat) (y c : Num) : Bool :=
  let diff := numAbs (numAdd c (numNeg y))
  let (n, d, rel) := pwlBound f
  let lim := if rel then numMul (numOfInt n) (numAbs y) else numOfInt n
  !numLt lim (numMul diff (numOfInt d)) || !numLt (ulp32 y) diff

/-- A free result where it is finite and close enough, else the exact one rounded. -/
def boundedFree (y c : Num) (close : Bool) : Num := if isFinite c && close then c else toFp32 .rne y

/-! ### A chunk of a recurrence (R290, R293) -/

/-- a^L s + Σ a^(L−1−τ) b x_τ, exactly. -/
def exactState (a b s : Num) (xs : List Num) : Num := xs.foldl (fun s x => numAdd (numMul a s) (numMul b x)) s

/-- W_L of R293. -/
def stateWeight (a b s : Num) (xs : List Num) : Num :=
  exactState (numAbs a) (numAbs b) (numAbs s) (xs.map numAbs)

/-- ceil(log₂(n)) for n ≥ 1. -/
def ceilLog2 (n : Nat) : Nat := if n ≤ 1 then 0 else Nat.log2 (n - 1) + 1

/-- A hi/lo pair of one state element is normalised, |lo| at most half an ulp of hi (R292), and lies within R293's bound for a
chunk of |xs| steps. -/
def chunkClose (a b s : Num) (xs : List Num) (hi lo : Num) : Bool :=
  let L := xs.length
  let diff := numAbs (numAdd (numAdd hi lo) (numNeg (exactState a b s xs)))
  let lim := numMul (.fin false (3 * (L + 2 * ceilLog2 (L + 1))) (-48)) (stateWeight a b s xs)
  numEq (fAdd .rne hi lo) hi && !numLt lim diff

/-- two_sum of R292. -/
def twoSum (m q : Num) : Num × Num :=
  let s := fAdd .rne m q
  let bb := fSub .rne s m
  (s, fAdd .rne (fSub .rne m (fSub .rne s bb)) (fSub .rne q bb))

/-- fast_two_sum of R292. -/
def fastTwoSum (s r : Num) : Num × Num :=
  let hi := fAdd .rne s r
  (hi, fSub .rne r (fSub .rne hi s))

/-- The error-free product of R292. -/
def twoProd (a b : Num) : Num × Num :=
  let m := fMul .rne a b
  (m, fFma .rne a b (numNeg m))

/-- Product and sum of hi/lo pairs from R292's error-free operations (DESIGN CHOICE, log 127: the spec does not write them
out). -/
def pairMul (p q : Num × Num) : Num × Num :=
  let (m, e) := twoProd p.1 q.1
  fastTwoSum m (fFma .rne p.2 q.1 (fFma .rne p.1 q.2 e))

def pairAdd (p q : Num × Num) : Num × Num :=
  let (s, g) := twoSum p.1 q.1
  fastTwoSum s (fAdd .rne (fAdd .rne p.2 q.2) g)

/-- base^j × acc by binary powering (R292). -/
def pairPow : Nat → Nat → Num × Num → Num × Num → Num × Num
  | 0, _, _, acc => acc
  | k + 1, j, base, acc =>
    if j = 0 then acc
    else pairPow k (j / 2) (pairMul base base) (if j % 2 = 1 then pairMul acc base else acc)

/-- Sum of hi/lo pairs in an order. -/
def pairSum (order : Nat → Nat × Nat) : Nat → List (Num × Num) → Num × Num
  | _, [] => (numZero, numZero)
  | _, [p] => p
  | 0, p :: _ => p
  | k + 1, l =>
    let (i, j) := order k
    let i := i % l.length
    let rest := l.eraseIdx i
    let j := j % rest.length
    pairSum order k (pairAdd (l.getD i (numZero, numZero)) (rest.getD j (numZero, numZero)) :: rest.eraseIdx j)

/-- The closed form of R290 as R292 has LCONV compute it: powers, terms and sums in hi/lo pairs. -/
def pairState (order : Nat → Nat × Nat) (a b hi lo : Num) (xs : List Num) : Num × Num :=
  let L := xs.length
  let pow (j : Nat) := pairPow (Nat.log2 j + 1) j (a, numZero) (numOne, numZero)
  let terms := pairMul (pow L) (hi, lo) :: xs.zipIdx.map fun (x, t) => pairMul (pow (L - 1 - t)) (twoProd b x)
  pairSum order terms.length terms

/-- One state element after a chunk. Where R293 gives a bound, for |a| ≤ 1 and, of finite operands, for results that FP32
holds: the free pair where it is a normalised one within the bound, else the exact state rounded to a pair. Elsewhere: the
sequence of R292, whose operations pass special values on under R49 (R288). -/
def boundedState (order : Nat → Nat × Nat) (a b hi0 lo0 : Num) (xs : List Num) (hi lo : Num) : Num × Num :=
  let s := numAdd hi0 lo0
  let y := exactState a b s xs
  let h := toFp32 .rne y
  if numLt numOne (numAbs a) || !(isFinite a && isFinite y && isFinite h) then pairState order a b hi0 lo0 xs
  else if isFinite hi && isFinite lo && chunkClose a b s xs hi lo then (hi, lo)
  else (h, toFp32 .rne (numAdd y (numNeg h)))

end Sys2Proof.Machine
end

