-- ==== Sys2Proof/Machine/Keccak.lean ====
section
/-! DEFINITION. SHAKE256 and KMAC256 (19_cocoon R518, R444, 08 R235): the functions of FIPS 202 and SP 800-185
that the manual names. -/

namespace Sys2Proof.Machine

/-- Lane `i` of a state of 25 lanes; lane (x, y) is number x + 5 y. -/
def lane (a : List Word64) (i : Nat) : Word64 := a.getD i 0

/-- θ: every lane takes the parities of two columns. -/
def keccakTheta (a : List Word64) : List Word64 :=
  let parity (x : Nat) : Word64 := (List.range 5).foldl (fun p y => p ^^^ lane a (x % 5 + 5 * y)) 0
  let col := (List.range 5).map parity
  a.zipIdx.map fun (w, i) => w ^^^ lane col ((i + 4) % 5) ^^^ (lane col ((i % 5 + 1) % 5)).rotateLeft 1

/-- ρ and π as one walk from lane (1, 0): step `t` takes a lane to (y, 2 x + 3 y), turned by the sum of 1 to t. Each
item: the lane left, the lane reached, the turn. -/
def keccakWalk : Nat → Nat → Nat → Nat → List (Nat × Nat × Nat)
  | 0, _, _, _ => []
  | n + 1, t, x, y =>
    let y' := (2 * x + 3 * y) % 5
    (x + 5 * y, y + 5 * y', t * (t + 1) / 2 % 64) :: keccakWalk n (t + 1) y y'

def keccakTurn (a : List Word64) : List Word64 :=
  (keccakWalk 24 1 1 0).foldl (fun b (i, j, n) => b.set j ((lane a i).rotateLeft n)) a

/-- χ: a lane changes where the next one in its row is clear and the one after it is set. -/
def keccakChi (a : List Word64) : List Word64 :=
  a.zipIdx.map fun (w, i) => let at1 := i - i % 5 + (i + 1) % 5
                             let at2 := i - i % 5 + (i + 2) % 5
                             w ^^^ (lane a at2 &&& ~~~ lane a at1)

/-- ι's shift register, x⁸ + x⁶ + x⁵ + x⁴ + 1, one step. -/
def keccakShift (r : Nat) : Nat := if 128 ≤ r then (2 * r) ^^^ 0x171 else 2 * r

/-- The constant of a round: bit 2^j - 1 is the register's low bit after j steps; and the register after the round. -/
def keccakIota (r : Nat) : Nat × Nat :=
  (List.range 7).foldl (fun (c, r) j => (c + (r % 2) * 2 ^ (2 ^ j - 1), keccakShift r)) (0, r)

def keccakRounds : Nat → Nat → List Word64 → List Word64
  | 0, _, a => a
  | n + 1, r, a =>
    let i := keccakIota r
    let b := keccakChi (keccakTurn (keccakTheta a))
    keccakRounds n i.2 (b.set 0 (lane b 0 ^^^ BitVec.ofNat 64 i.1))

/-- Keccak-f[1600]: 24 rounds. -/
def keccakF (a : List Word64) : List Word64 := keccakRounds 24 1 a

/-- Little-endian number of a byte list. -/
def leNat : List Byte → Nat
  | [] => 0
  | b :: bs => b.toNat + 256 * leNat bs

/-- `n` little-endian bytes of a number. -/
def leBytes : Nat → Nat → List Byte
  | 0, _ => []
  | n + 1, x => BitVec.ofNat 8 x :: leBytes n (x / 256)

/-- Cut a list into pieces of `n` bytes (`fuel` pieces at most). -/
def chunks (n : Nat) : Nat → List Byte → List (List Byte)
  | 0, _ => []
  | k + 1, l => if l.isEmpty then [] else l.take n :: chunks n k (l.drop n)

/-- Absorb one block of 136 bytes. -/
def keccakAbsorb (a : List Word64) (blk : List Byte) : List Word64 :=
  keccakF (((List.range 25).map fun i =>
    if i < 17 then lane a i ^^^ BitVec.ofNat 64 (leNat ((blk.drop (8 * i)).take 8)) else lane a i))

def laneBytes (a : List Word64) : List Byte := (a.take 17).flatMap fun w => leBytes 8 w.toNat

/-- Squeeze `k` blocks of 136 bytes. -/
def keccakSqueeze : Nat → List Word64 → List Byte
  | 0, _ => []
  | k + 1, a => laneBytes a ++ keccakSqueeze k (keccakF a)

/-- The sponge of rate 136 with a domain-separation byte. -/
def sponge (suffix : Byte) (msg : List Byte) (outLen : Nat) : List Byte :=
  let padLen := 136 - msg.length % 136
  let pad : List Byte := if padLen = 1 then [suffix ||| 0x80]
    else suffix :: (List.replicate (padLen - 2) 0 ++ [0x80])
  let m := msg ++ pad
  let a := (chunks 136 (m.length / 136 + 1) m).foldl keccakAbsorb (List.replicate 25 0)
  (keccakSqueeze (outLen / 136 + 1) a).take outLen

/-- SHAKE256 (FIPS 202). -/
def shake256 (msg : List Byte) (outLen : Nat) : List Byte := sponge 0x1F msg outLen

/-- Big-endian bytes of a number, without leading zero bytes, at least one. -/
def beBytes (x : Nat) : List Byte :=
  let n := Nat.log2 x / 8 + 1
  (leBytes n x).reverse

def leftEncode (x : Nat) : List Byte := let b := beBytes x; BitVec.ofNat 8 b.length :: b
def rightEncode (x : Nat) : List Byte := let b := beBytes x; b ++ [BitVec.ofNat 8 b.length]
def encodeString (s : List Byte) : List Byte := leftEncode (8 * s.length) ++ s
def bytePad (x : List Byte) (w : Nat) : List Byte :=
  let z := leftEncode w ++ x
  z ++ List.replicate ((w - z.length % w) % w) 0

end Sys2Proof.Machine
end

