-- ==== Sys2Proof/Machine/State.lean ====
section
/-! DEFINITION. The state of the A4: everything the manual gives the part, as plain data, and the state
under power-on reset. Each field's line names its width or kind and the file and rule that gives it; fields
marked MODEL are the model's own. -/

namespace Sys2Proof.Machine

/-- A table from numbers to values, sorted by strictly rising key. -/
abbrev Tab (α : Type) := List (Nat × α)

/-- A range of bytes that hold undefined data, each a free value of its token. -/
structure URange where
  base  : Nat  -- first byte; MODEL
  len   : Nat  -- bytes; MODEL
  token : Nat  -- token of the free bytes; MODEL
  deriving DecidableEq, Repr

/-- A byte-addressed memory. `cells` rises strictly in address; outside every range of `undefs` no listed
byte is 0; an unlisted byte reads 0, or a free byte inside a range of `undefs`. -/
structure Mem where
  cells  : List Host.Cell := []  -- listed bytes; 03 R74, 12 R305, 13 R346-R348
  undefs : List URange := []  -- ranges of undefined data; 04 R147, 15 R418, 18 R491
  deriving DecidableEq, Repr

/-- A place where a byte lies: the package DRAM by package DPA, host memory by host physical address, the
spill area of NAND by handle × 64 KiB. -/
inductive MemSpace where
  | dram | host | nand
  deriving DecidableEq, Repr

/-- A physical byte address. -/
structure PAddr where
  sp : MemSpace  -- the memory; 13 R334
  a  : Nat  -- the byte in it; 13 R337
  deriving DecidableEq, Repr

/-! ### Cores -/

/-- Bytes that an instruction reads or writes: a range of the scratchpad or of job memory (R167, R298). -/
structure Touch where
  scratch : Bool  -- scratchpad, else job memory; 06 R167
  lo      : Nat  -- first byte: a scratchpad address as the core's, or a job virtual address; 06 R167
  hi      : Nat  -- one past the last; 06 R167
  deriving DecidableEq, Repr

/-- Segments of one instruction on one page (R169 to R171). -/
structure Seg where
  asid    : Nat := 0  -- address space of the page; 06 R169
  vpn     : Option Nat := none  -- the page, none for scratchpad to scratchpad; 06 R169
  kv      : Option Nat := none  -- the key-value page of a read of a sequence; 08 R224
  node    : Option Nat := none  -- the die of another core's scratchpad, or the home die of a future; 06 R170
  cls     : SlotClass := .read  -- slot class; 06 R170
  waiting : Bool := false  -- page in the NAND tier, no slot held; 06 R170
  held    : Bool := false  -- its page is under a move that began before it; 13 R344
  left    : Nat  -- segments not completed; 06 R169
  born    : Nat := 0  -- time of its request, ns, when it waits; 13 R355
  landing : Nat := 0  -- segments in flight when an LC job took the core; 06 R168
  deriving DecidableEq, Repr

/-- A multicast LDT under way (R183 to R187). -/
structure McastPart where
  group    : Nat  -- group 1-63; 06 R181
  nth      : Nat  -- number of this LDT on the group; 06 R183
  sender   : Bool  -- member 0; 06 R183
  blocks   : Nat  -- blocks of the tile; 06 R184
  got      : Nat := 0  -- blocks fetched (sender) or received; 06 R185
  detached : Bool := false  -- fetching by unicast; 06 R185
  out      : List Nat := []  -- sender: ranks detached from this LDT; 06 R185
  total    : Nat := 0  -- sender: segments of its fetch; 06 R183
  deriving DecidableEq, Repr

/-- Why an entry that reached its start is held. -/
inductive Hold where
  | none | hazard | slot (n : Nat) | carousel | commits | shadow | mcast
  deriving DecidableEq, Repr

/-- What a receiver detached from a multicast LDT needs of the sender (R185): the LDT's body and index values. -/
structure Detached where
  rank  : Nat  -- receiver; 06 R185
  group : Nat  -- group; 06 R185
  nth   : Nat  -- number of the LDT on the group; 06 R183
  body  : Body  -- the sender's LDT; 06 R185
  ix    : Vector Word32 16  -- the sender's captured index values; 06 R185
  deriving DecidableEq, Repr

/-- An element to be written when its instruction retires (R213). -/
structure OutStore where
  scratch : Bool  -- scratchpad, else job memory; 07 R213
  a       : Int  -- bit address; 07 R213
  w       : Nat  -- bits; 07 R213
  code    : Nat  -- stored code; 07 R213
  deriving DecidableEq, Repr

/-- One entry of a command queue (R165): an issued instruction with the index values captured at issue (R92). -/
structure QEntry where
  uid     : Nat := 0  -- its number among all issued instructions; MODEL
  pc      : Nat  -- instruction index; 04 R147
  op      : BitVec 8  -- opcode; 04 R112
  body    : Body  -- bits [119:0]; 04 R107
  ix      : Vector Word32 16  -- index registers captured at issue; 04 R92
  ident   : Bool := false  -- identity write; 05 R160
  fault   : Option Nat := none  -- element whose table word fails parity; 03 R87
  order   : List Nat := []  -- arrival order of COMB contributions; 10 R282
  arrived : Option Nat := none  -- arrival of a FORK or DROP at the page service; 09 R252, R254
  outs    : List OutStore := []  -- elements that it writes when it retires; 07 R213
  lateIx  : Option (Nat × Int) := none  -- index register that it writes when it retires, with the value; 04 R93, 07 R213
  kext    : Option Nat := none  -- committed length taken at issue; 08 R223
  started : Bool := false  -- started; 06 R166
  hold    : Hold := .none  -- why held; 06 R167, R179, R189, 11 R298
  counted : Bool := false  -- STATE_HOLDS counted; 11 R298
  segs    : List Seg := []  -- outstanding segments; 06 R169
  reads   : List Touch := []  -- what it reads; 06 R167
  writes  : List Touch := []  -- what it writes; 06 R167
  sid     : Option Nat := none  -- stream context it armed; 06 R174
  mcast   : Option McastPart := none  -- multicast part; 06 R183
  group   : Option Nat := none  -- carousel group; 06 R188
  slots   : List Nat := []  -- carried-state slots it touches; 11 R298
  deriving DecidableEq, Repr

/-- A body being skipped by SKIPL (R157, R159). -/
structure Skip where
  lo   : Nat  -- first instruction of the body; 05 R156
  hi   : Nat  -- one past the last; 05 R156
  zero : Bool  -- its SKIPL found length zero; 05 R159
  deriving DecidableEq, Repr

/-- What the sequencer waits for. A wait on a counter word: its address, the awaited value, whether its channel
controller keeps a watch for it, and whether an add has met the watch (R207). -/
inductive Blocked where
  | sem (n count : Nat)
  | watch (va : Nat) (least : Int) (held met : Bool)
  | sigSem (n count : Nat)
  | sigMem (va count : Nat)
  | barPre (bid npart : Nat)
  | bar (bid : Nat)
  deriving DecidableEq, Repr

/-- State of a carried-state slot's record while bound (R295). -/
inductive SlotState where
  | swapped | out | inn | resident
  deriving DecidableEq, Repr

/-- A carried-state slot of a core (R296 to R300). -/
structure Slot where
  sbase    : Nat  -- scratchpad address of the slot; 11 R296
  record   : Nat  -- job virtual address of the record; 11 R296
  ns       : Nat  -- state indices; 11 R295
  channels : Nat  -- channels; 11 R295
  anchorN  : Nat  -- ANCHOR_N; 11 R295
  hist     : Nat  -- HIST_ADDR; 11 R295
  anchor   : Nat  -- ANCHOR_ADDR; 11 R295
  state    : SlotState := .swapped  -- STATE; 11 R295
  steps    : Nat := 0  -- running step count while RESIDENT; 11 R300
  anchorStep : Nat := 0  -- ANCHOR_STEP; 11 R303
  anchorValid : Bool := false  -- ANCHOR_VALID; 11 R300
  covered  : Nat := 0  -- SWAP_OUT adds the swap-out under way or wanted covers; 11 R299
  wanted   : Bool := false  -- a swap-out is requested but not begun; 11 R299
  trigger  : Option Nat := none  -- the instruction that triggered the swap-in; 11 R299
  landed   : Nat := 0  -- adds landed on SWAP_OUT and not yet handled; 11 R299
  landedIn : Nat := 0  -- adds that landed during the last swap-in and are not yet handled; 11 R299
  deriving DecidableEq, Repr

/-- A stream context (R174, R179): the running list's instruction and the shadow's, by queue identity. -/
structure StreamCtx where
  running : Option Nat := none  -- running list: number of its LDT; 06 R174
  shadow  : Option Nat := none  -- shadow list: number of its LDT; 06 R179
  deriving DecidableEq, Repr

/-- The part of a job on one core: the sequencer state of R98 to R100 and the queues of R165. -/
structure Task where
  job     : Nat  -- job number of the model; MODEL
  lc      : Bool  -- class; 14 R381
  rank    : Nat  -- rank within the job; 04 R100
  ix      : Vector Word32 16 := Vector.replicate 16 0  -- ix0-ix15, 32 bits; 04 R98
  sem     : Vector (BitVec 16) 16 := Vector.replicate 16 0  -- SEM1-SEM15, 16 bits; 04 R99
  td      : Vector (BitVec 256) 64 := Vector.replicate 64 0  -- td0-td63, 256 bits; 04 R103
  pc      : Nat := 0  -- next instruction; 04 R91
  started : Bool := false  -- JOB_START has run; 04 R100
  ended   : Bool := false  -- the core has ended its part; 04 R96
  skips   : List Skip := []  -- bodies being skipped; 05 R157
  blocked : Option Blocked := none  -- the wait issue is held by; 04 R136-R137
  since   : Nat := 0  -- when that wait began, ns; 04 R138
  timeout : Nat := 1000000  -- SYNC_TIMEOUT_US taken at job start; 04 R138
  fq      : List QEntry := []  -- fetch queue, 32 or 8 entries; 06 R165
  eq      : List QEntry := []  -- execute queue, 16 or 8 entries; 06 R165
  ctxs    : Vector StreamCtx 8 := Vector.replicate 8 {}  -- stream contexts; 06 R174
  waitDone : Nat := 0  -- DONE_SEM of the waiting instruction; 04 R107
  sigAdds : List (Nat × Nat × Nat × Nat) := []  -- SIG adds under way: address, count, DONE_SEM, instruction; 04 R136, R147
  pollNs  : Nat := 0  -- when a wait without a watch last read its word, ns; 07 R207
  carousel : Tab Nat := []  -- carousel LDTs retired, by group; 06 R189
  carIssued : Tab Nat := []  -- carousel LDTs issued, by group; 06 R188
  mcIssued : Tab Nat := []  -- multicast LDTs issued, by group; 06 R183
  slotsR  : Nat := 10  -- READ slots of the split; 06 R172
  slotsW  : Nat := 4  -- WRITE slots; 06 R172
  slotsX  : Nat := 2  -- REMOTE slots; 06 R172
  states  : List Slot := []  -- carried-state slots; 11 R298
  waiting : Bool := false  -- placed on a core being woken or spilled; 15 R405, R408
  reserve : Nat := 24  -- LC_RESERVE_KIB taken at job start; 03 R78
  cycles  : Nat := 0  -- core-cycles charged so far; 15 R403
  chargeNs : Nat := 0  -- start of the interval not yet charged, ns; 15 R403
  endNs   : Option Nat := none  -- when the core ended its part, ns; 15 R403
  landing : Bool := false  -- segments in flight recorded at a preemption; 06 R168
  deriving DecidableEq, Repr

/-- A core's best-effort context put away by a spill (R408, R412). -/
structure Spilled where
  ranges : List (Nat × Nat)  -- scratchpad address and length spilled; 15 R408
  vpn    : Nat := 0  -- first spill page of the core in the BE job's address space; 15 R409
  asid   : Nat := 0  -- address space of the BE job; 15 R409
  need   : List Nat := []  -- spill pages not yet mapped; 15 R409
  done   : Bool := false  -- the spill's writes are complete; 15 R408
  part   : Nat := 0  -- partition of the LC job that caused it; 15 R403
  backNs : Option Nat := none  -- when the restore is due, ns; 15 R403
  deriving DecidableEq, Repr

/-- A core (R58). -/
structure Core where
  be      : Option Task := none  -- best-effort task; 03 R81
  lc      : Option Task := none  -- latency-critical task; 03 R81
  spill   : Option Spilled := none  -- spilled best-effort data; 15 R408
  ramp    : Bool := false  -- activity ramp under way; 03 R72
  rampDue : Bool := false  -- a ramp was cut short, the next pass starts with a new one; 03 R73
  fenced  : Bool := false  -- function unit fenced; 03 R87
  acc     : Mem := {}  -- accumulator bank, 64 KiB: FP32 of row r, column c at 4 (32 r + c); 03 R58
  lcAcc   : Mem := {}  -- LC accumulator, 16 KiB, in the same order; 03 R58
  live    : Mem := {}  -- live weight registers, 4 bytes a dot cell: row r, column c at 4 (32 r + c); 03 R58, R60
  shadow  : Mem := {}  -- shadow weight registers; 03 R58, R63
  rng     : Word32 := 0  -- generator of stochastic rounding, 32 bits; 02 R52
  scale   : List Nat := List.replicate 32 0x3F800000  -- per-column scale registers, FP32; 03 R82
  bias    : List Nat := List.replicate 32 0  -- per-column bias registers, FP32; 03 R82
  retired : Bool := false  -- logical number unassigned; 01 R19
  idleNs  : Nat := 0  -- when it was asked to go idle, ns; 18 R485
  lcHas   : Bool := false  -- the LC job has taken the core; 03 R79
  lcCache : Option (Nat × Nat × Nat × List Byte) := none  -- LC program cache: ASID, PROG_BASE, SEQ_IMAGE, image; 15 R413
  warm    : Bool := false  -- ramp ended since the last start; 03 R73
  idleReq : Bool := false  -- asked to go idle for a reset or a swap; 18 R485, 17 R475
  deriving DecidableEq, Repr

/-! ### Jobs -/

/-- Where a job stands. -/
inductive JobState where
  | waiting | placed | running | ending | done
  deriving DecidableEq, Repr

/-- A group-table entry (R181). -/
structure GroupEntry where
  kind   : Nat  -- 0 UNUSED, 1 MULTICAST, 2 CAROUSEL; 06 R181
  first  : Nat  -- FIRST_RANK; 06 R181
  count  : Nat  -- COUNT; 06 R181
  stride : Nat  -- STRIDE; 06 R181
  deriving DecidableEq, Repr

/-- A carried-state table entry (R296). -/
structure CstEntry where
  rank  : Nat  -- RANK; 11 R296
  sbase : Nat  -- SBASE; 11 R296
  record : Nat  -- REC_ADDR; 11 R296
  deriving DecidableEq, Repr

/-- Events of which only the first in a job writes a sillage record (R448). -/
inductive FirstEvent where
  | saturated | nonfinite | rearm | detach | masked | overflow | commitWait
  deriving DecidableEq, Repr

/-- A job: its command of R381 and what it has come to. -/
structure Job where
  ring    : Nat  -- ring of submission; 14 R381
  tag     : Nat  -- TAG; 14 R378
  irq     : Bool := false  -- IRQ; 14 R378
  lc      : Bool := false  -- CLASS; 14 R381
  ncores  : Nat := 1  -- CORES; 14 R381
  homeDie : Nat := 0  -- HOME_DIE; 14 R381
  homeCluster : Nat := 0  -- HOME_CLUSTER; 14 R381
  footKib : Nat := 0  -- LC_FOOT_KIB; 14 R381
  part    : Nat := 0  -- PARTITION; 14 R381
  asid    : Nat := 0  -- ASID; 14 R381
  group   : Option Nat := none  -- GROUP when GRP_VALID; 14 R381
  imago   : Option Nat := none  -- IMAGO_SLOT when IMAGO_VALID; 14 R381
  split   : Nat × Nat × Nat := (0, 0, 0)  -- SPLIT; 14 R381
  progLen : Nat := 1  -- instructions; 14 R381
  progBase : Nat := 0  -- PROG_BASE; 14 R381
  seqImage : Nat := 0  -- SEQ_IMAGE; 14 R381
  mcgTable : Nat := 0  -- MCG_TABLE; 14 R381
  cstTable : Nat := 0  -- CST_TABLE; 14 R381
  cstCount : Nat := 0  -- CST_COUNT; 14 R381
  fbEntry : Nat := 0  -- FB_ENTRY; 14 R381
  deadlineUs : Nat := 0  -- DEADLINE_US; 14 R381
  rt      : Vector Word32 4 := Vector.replicate 4 0  -- RT0-RT3; 14 R381
  entry   : BitVec 512 := 0  -- the submission entry as fetched; 14 R378
  state   : JobState := .waiting  -- where it stands; 15 R398
  cores   : List Nat := []  -- package core numbers by rank; 04 R100
  doorbell : Nat := 0  -- arrival of the doorbell, ns; 15 R398
  arrival : Nat := 0  -- order of entry in its queue; 15 R398
  failed  : Option (Nat × Nat) := none  -- first FAIL status and its DETAIL; 04 R146
  okRank  : Nat := 0  -- highest OK status raised: 0 OK, 1 EMPTY, 2 CLAMPED, 3 FALLBACK; 04 R146
  barriers : Tab Nat := []  -- arrivals by barrier; 04 R137
  barNeed : Tab Nat := []  -- participants awaited by barrier; 04 R137
  groups  : Tab GroupEntry := []  -- group table read at start; 06 R181
  cst     : List CstEntry := []  -- carried-state table; 11 R296
  firsts  : List (FirstEvent × Nat) := []  -- first events already recorded, each with the die of its counter; 02 R55, 16 R448
  cycles  : Nat := 0  -- core-cycles charged; 15 R403
  startNs : Nat := 0  -- dispatch time, ns; 15 R403
  fallback : Bool := false  -- running on its fall-back program; 15 R418
  snapshot : Option Nat := none  -- time of the last monitor snapshot, ns; 15 R415
  stepsDone : Nat := 0  -- step boundaries counted by the monitor; 15 R415
  projUs  : Nat := 0  -- projection of the deadline monitor; 15 R416
  armed   : Bool := false  -- fall-back switch armed; 15 R416
  requeued : Bool := false  -- requeued once after a die loss; 17 R468
  interrupted : Option Nat := none  -- die whose loss interrupted it; 17 R468
  cmd     : Nat := 0  -- command that submitted it; 14 R381
  stepNs  : Nat := 0  -- longest completed step, ns; 15 R416
  lastB   : Option Nat := none  -- time of the last step boundary, ns; 15 R416
  snapIx  : List (Vector Word32 16) := []  -- snapshot of every core's index registers, by rank; 15 R415
  switchDue : Bool := false  -- a full BAR 15 completed with the switch armed; 15 R418
  switched : Bool := false  -- the switch was made; 15 R416
  late    : Bool := false  -- a late read was reported; 15 R417
  dropped : Bool := false  -- it has executed a DROP; 17 R468
  boundaries : Nat := 0  -- STEP_INDEX of its group at dispatch; 17 R468
  lens    : List (Nat × Nat) := []  -- handles and layer-0 lengths of its group's batch at dispatch; 17 R468
  forked  : List Nat := []  -- handles that its FORKs created; 17 R468
  lostHit : Bool := false  -- it has accessed a lost page; 17 R468
  share   : Nat := 100  -- BE_SHARE of its partition taken at dispatch; 15 R421
  imagoFb : Option Nat := none  -- fall-back imago it holds a reference on; 15 R418
  detached : List Detached := []  -- receivers still to catch up by unicast; 06 R185
  deriving DecidableEq, Repr

/-! ### Address spaces and tiers -/

/-- A page-table entry (R337); VALID is its being listed. -/
structure Pte where
  tier     : Nat  -- TIER, 2-5; 13 R337
  die      : Nat := 0  -- DIE; 13 R337
  writable : Bool := true  -- WRITABLE; 13 R337
  pin      : Bool := false  -- PIN; 13 R337
  moving   : Bool := false  -- MOVING; 13 R337
  kind     : Nat := 0  -- KIND: 0 DATA, 1 IMAGO, 2 SPILL; 13 R337
  floor    : Nat := 5  -- FLOOR; 13 R337
  frame    : Nat  -- FRAME; 13 R337
  home     : Nat := 0  -- home die of the object; 13 R339
  used     : Nat := 0  -- last access, ns; 13 R341
  dest     : Option (Nat × Nat × Nat) := none  -- tier, die, frame of the move under way; 13 R344
  freeing  : Bool := false  -- freed when its move ends; 13 R339
  lost     : Bool := false  -- its contents were lost with a die; 17 R465
  slot     : Nat := 0  -- imago slot of an IMAGO page; 13 R340
  deriving DecidableEq, Repr

/-- An address space (R336). -/
structure ASpace where
  tableDie : Nat  -- die that holds its page tables; 13 R336
  pages    : Tab Pte := []  -- level-2 entries by VA[47:16]; 13 R337
  destroy  : Option Nat := none  -- command waiting to destroy it; 13 R336
  copyDie  : Option Nat := none  -- die with the second copy of its tables; 17 R463
  copyFresh : Bool := true  -- that copy is current; 17 R463
  lostPages : Nat := 0  -- pages lost, for LOSS_QUERY; 17 R467
  deriving DecidableEq, Repr

/-! ### Key-value pages and groups -/

/-- A page of the key-value pool with its sidecar entry (R215 to R217). -/
structure KvPage where
  layer  : Nat  -- LAYER; 08 R216
  block  : Nat  -- BLOCK_INDEX; 08 R216
  refcnt : Nat := 1  -- REFCNT; 08 R216
  mirror : Option Nat := none  -- MIRROR_PAGE with its die; 08 R216
  mirrorOf : Option Nat := none  -- the page this one mirrors; 09 R249
  ntok   : Nat := 0  -- NTOK; 08 R216
  hash   : Option Nat := none  -- BLOCK_HASH when HASHED; 08 R216
  inTree : Bool := false  -- IN_TREE; 08 R216
  busy   : Bool := false  -- BUSY; 08 R216
  fmt    : Nat  -- FMT; 08 R216
  lastUse : Nat := 0  -- LAST_USE_US; 08 R216
  slotBytes : Nat  -- size of its slot; 08 R215
  codes  : Tab Nat := []  -- payload by element offset; 08 R215
  scales : Tab Nat := []  -- FP16 scales: key group g at g, value group at G + g; 08 R217
  tier   : Nat := 2  -- tier where it lies; 13 R342
  place  : Nat  -- die where it lies; 09 R265
  frame  : Nat := 0  -- tier page that it is packed in, outside the pools; 13 R342
  deriving DecidableEq, Repr

/-- A table chunk (R248). -/
structure Chunk where
  count : Nat := 1  -- directories that point to it; 09 R248
  pages : Tab Nat := []  -- page by block modulo 64; 09 R248
  away  : Option (Nat × Nat × Nat) := none  -- tier, die and tier page where it lies outside the pools; 09 R265
  deriving DecidableEq, Repr

/-- A prefix-tree node (R236). -/
structure TreeNode where
  hash    : Nat  -- h_b; 08 R236
  parent  : Nat  -- h_(b-1); 08 R236
  codes   : List Nat  -- the 16 codes; 08 R236
  block   : Nat  -- b; 08 R236
  pages   : List Nat  -- page of the block in each layer; 08 R236
  adopted : Nat := 0  -- uptime of its last adoption, us; 08 R236
  children : Nat := 0  -- children, for R240; 08 R240
  deriving DecidableEq, Repr

/-- States of a future (R247). -/
inductive FState where
  | free | inBatch | joining | offBatch | evicted
  deriving DecidableEq, Repr

/-- A future (R247, R248). -/
structure Future where
  state   : FState := .free  -- STATE; 09 R247
  mirror  : Bool := false  -- PROT; 09 R247
  lag     : Bool := false  -- MIRROR_LAG; 09 R247
  gen     : Nat := 0  -- GEN, 9 bits; 09 R247
  reserve : Nat := 0  -- RESERVE_LEFT, blocks; 09 R247
  dirs    : List (Tab Nat) := []  -- block directory of each layer: chunk by block / 64; 09 R248
  lens    : List Nat := []  -- committed length of each layer; 08 R219
  codes   : Tab Nat := []  -- token codes by position; 08 R219
  priority : Nat := 0  -- priority of its join; 09 R263
  born    : Nat := 0  -- order of creation; 09 R263
  resSlots : Nat := 0  -- page slots left of the reserve; 09 R262
  mirrorReserve : Nat := 0  -- page slots reserved on the mirror die; 09 R262
  mirrorOn : Nat := 0  -- that mirror die; 09 R262
  store   : List Nat := []  -- slots of its directory storage; 09 R253
  offered : List Nat := []  -- blocks offered to the tree, or adopted from it; 08 R237
  deriving DecidableEq, Repr

/-- A pending JOIN (R263, R264). -/
structure JoinReq where
  cmd      : Nat  -- command number; 09 R264
  kind     : Nat  -- KIND; 14 R383
  prot     : Nat  -- PROT; 14 R383
  priority : Nat  -- PRIORITY; 14 R383
  reserve  : Nat  -- RESERVE_BLOCKS; 14 R383
  ncodes   : Nat  -- NCODES; 14 R383
  source   : Nat  -- SOURCE; 14 R383
  codes    : Nat  -- CODES address; 14 R383
  boundary : Nat  -- boundary at which it was first due; 09 R263
  seq      : Nat  -- arrival order; 09 R263
  deferred : Bool := false  -- interim completion posted; 09 R264
  rejoin   : Option Nat := none  -- index of an evicted future that rejoins; 09 R263
  deriving DecidableEq, Repr

/-- A pending LEAVE (R263). -/
structure LeaveReq where
  cmd    : Nat  -- command number; 09 R264
  handle : Nat  -- HANDLE; 14 R383
  drop   : Bool  -- MODE; 14 R383
  deriving DecidableEq, Repr

/-- A commit under way or waiting (R219, R267). -/
structure CommitReq where
  group  : Nat  -- group; 08 R219
  idx    : Nat  -- future index; 08 R219
  layer  : Nat  -- layer; 08 R219
  n      : Nat  -- tokens; 08 R219
  seq    : Nat := 0  -- order in which its add landed; 09 R267
  waiting : Bool := false  -- waits for a page slot; 09 R267
  applied : Bool := false  -- appended, DONE not yet added; 08 R219
  deriving DecidableEq, Repr

/-- The layout record of a group (R214). -/
structure Layout where
  fmt     : Nat := 6  -- FMT; 08 R214
  nlayers : Nat := 1  -- NLAYERS; 08 R214
  heads   : Nat := 1  -- NHEADS; 08 R214
  dim32   : Nat := 1  -- HEADDIM_32; 08 R214
  stageFmt : Nat := 0  -- STAGE_FMT; 08 R214
  stageBase : Nat := 0  -- STAGE_BASE; 08 R214
  stageStride : Nat := 0  -- STAGE_STRIDE; 08 R214
  domain  : Nat := 0  -- PREFIX_DOMAIN; 08 R214
  imagoTag : Nat := 0  -- IMAGO_TAG; 08 R214
  deriving DecidableEq, Repr

/-- A rollout group (R242, R243). -/
structure Group where
  home    : Nat  -- present home die; 09 R242
  lc      : Bool  -- CLASS; 09 R242
  prot    : Bool := false  -- DEFAULT_PROT is MIRROR; 09 R242
  share   : Nat := 1  -- SHARE; 09 R242
  maxF    : Nat := 1  -- MAX_FUTURES; 09 R242
  asid    : Nat := 0  -- address space of its records; 14 R383
  gcb     : Nat := 0  -- GCB_ADDR; 09 R242
  layout  : Layout := {}  -- KV layout record; 08 R214
  owner   : Option Nat := none  -- owning job; 09 R244
  futures : Tab Future := []  -- futures by index; 09 R246
  batch   : List Nat := []  -- handles of the running batch; 09 R245
  stepIndex : Nat := 0  -- STEP_INDEX; 09 R245
  steps   : List Nat := []  -- adds on STEP not yet served, by arrival; 09 R263
  admitted : List Nat := []  -- handles admitted by the boundary under way; 09 R263
  oks     : List (Nat × Nat) := []  -- commands that complete OK with the boundary under way, with RESULT; 09 R264
  joins   : List JoinReq := []  -- pending JOINs; 09 R263
  leaves  : List LeaveReq := []  -- pending LEAVEs; 09 R263
  evicting : List (Nat × Nat) := []  -- evictions under way: group and index of each victim; 09 R265
  boundary : Bool := false  -- a boundary waits for an eviction; 09 R265
  second  : Option Nat := none  -- die with the copy of its state; 17 R463
  copyFresh : Bool := false  -- that copy is current; 17 R463
  stopped : Bool := false  -- being re-homed; 17 R466
  truncated : Tab Nat := []  -- lengths lost, for LOSS_QUERY; 17 R467
  deriving DecidableEq, Repr

/-- The page pool of a die (R268): cut pool pages by number, each with its slot size and used slots. -/
structure KvPool where
  gib   : Nat := 32  -- KV_POOL_GIB in force; 09 R268
  cut   : Tab (Nat × List Nat) := []  -- cut pages: slot size and used slots; 09 R268
  reserved : Tab Nat := []  -- slots set aside by reserves, by slot size; 09 R262
  deriving DecidableEq, Repr

/-! ### Commands and completions -/

/-- A command fetched from a ring and not completed (R378). -/
structure Cmd where
  ring    : Nat  -- ring; 14 R369
  tag     : Nat  -- TAG; 14 R378
  irq     : Bool  -- IRQ; 14 R378
  fence   : Bool := false  -- FENCE; 14 R372
  op      : Nat  -- OPCODE; 14 R379
  entry   : BitVec 512  -- the submission entry; 14 R378
  order   : Nat := 0  -- order in its ring; 14 R372
  started : Bool := false  -- started, waiting to complete; 14 R372
  doorbell : Nat := 0  -- arrival of its doorbell, ns; 14 R381
  need    : List Nat := []  -- page numbers still to be placed or moved; 13 R339, R341
  held    : List Nat := []  -- pages placed so far; 13 R339
  interim : Bool := false  -- interim completion posted; 14 R375
  deriving DecidableEq, Repr

/-- A completion that waits to be written (R373, R375). -/
structure Post where
  ring    : Nat  -- ring; 14 R373
  tag     : Nat  -- TAG; 14 R373
  status  : Nat  -- STATUS; 14 R374
  detail  : Nat := 0  -- DETAIL; 14 R373
  result  : Nat := 0  -- RESULT; 14 R373
  event   : Bool := false  -- EVENT; 14 R373
  interim : Bool := false  -- INTERIM; 14 R373
  irq     : Bool := false  -- raises the vector; 14 R377
  deriving DecidableEq, Repr

/-! ### Rings, the hub, the mailbox -/

/-- The states of a ring (R366). -/
inductive RingState where
  | disabled | enabled | drydown | pendingEnable | error
  deriving DecidableEq, Repr

/-- A ring's context and doorbells (R366, R368). -/
structure Ring where
  sqBase  : Nat := 0  -- SQ_BASE [51:12], 40 bits; 14 R366
  cqBase  : Nat := 0  -- CQ_BASE [51:12], 40 bits; 14 R366
  sqLog2  : Nat := 4  -- SQ_LOG2, 5 bits; 14 R366
  cqLog2  : Nat := 4  -- CQ_LOG2, 5 bits; 14 R366
  vector  : Nat := 0  -- MSIX_VECTOR, 11 bits; 14 R366
  holdoff : Nat := 0  -- IRQ_HOLDOFF_US, 10 bits; 14 R366
  priv    : Bool := false  -- PRIV; 14 R366
  lcAllowed : Bool := false  -- LC_ALLOWED; 14 R366
  enable  : Bool := false  -- ENABLE; 14 R366
  state   : RingState := .disabled  -- STATE; 14 R366
  home    : Option Nat := none  -- HOME_DIE, none: r / 2048; 14 R366
  error   : Nat := 0  -- ERROR; 14 R366
  sqHead  : Nat := 0  -- SQ_HEAD, 16 bits; 14 R366
  cqTail  : Nat := 0  -- CQ_TAIL, 16 bits; 14 R366
  phase   : Bool := true  -- CQ_PHASE; 14 R366
  tail    : Nat := 0  -- submission tail, 16 bits; 14 R369
  cqHead  : Nat := 0  -- CQ_HEAD, 16 bits; 14 R368
  pushed  : Tab (BitVec 512) := []  -- entries delivered by PUSH, by slot; 14 R370
  bells   : Tab Nat := []  -- arrival of the doorbell of each entry, ns, by slot; 14 R381
  lastIrq : Option Nat := none  -- when the vector was last raised, ns; 14 R377
  irqDue  : Bool := false  -- a completion waits for the holdoff; 14 R377
  line    : List (Nat × BitVec 128) := []  -- completions in the device-held line; 14 R376
  count   : Nat := 0  -- commands fetched so far; 14 R372
  deriving DecidableEq, Repr

/-- An HDM decoder (R390). -/
structure Hdm where
  base   : Nat := 0  -- host physical base; 14 R390
  size   : Nat := 0  -- bytes; 14 R390
  skip   : Nat := 0  -- DPA skip; 14 R390
  committed : Bool := false  -- committed; 14 R390
  failed : Bool := false  -- the last commit failed; 14 R390
  locked : Bool := false  -- lock-on-commit; 14 R390
  deriving DecidableEq, Repr

/-- The mailbox (R389). -/
structure Mailbox where
  vector  : Nat := 0  -- MB_VECTOR, 11 bits; 14 R389
  busy    : Bool := false  -- BUSY; 14 R389
  result  : Nat := 0  -- RESULT: 0 DONE, 1 MALFORMED, 2 TOO_LONG; 14 R389
  respLen : Nat := 0  -- response length; 14 R389
  opcode  : Nat := 0  -- MB_OPCODE, 64 bits; 14 R389
  len     : Nat := 0  -- MB_LEN, 64 bits; 14 R389
  payload : List Byte := []  -- MB_PAYLOAD, 3,840 bytes, zeros after the list; 14 R389
  deriving DecidableEq, Repr

/-- What the hub has to send to the host, and the window of R361. -/
structure HostTx where
  io     : Nat := 0  -- CXL.io flits that wait; 14 R361
  rest   : Nat := 0  -- CXL.cache and CXL.mem flits that wait; 14 R361
  window : Nat := 0  -- flits sent in the window of 64; 14 R361
  ioSent : Nat := 0  -- CXL.io flits among them; 14 R361
  deriving DecidableEq, Repr

/-- The hub (R20). -/
structure Hub where
  instar  : Nat := 0  -- INSTAR_HUB, 0-3; 18 R502
  recovery : Bool := false  -- running the recovery image; 19 R524
  inReset : Bool := true  -- held in reset; 18 R482, 19 R524
  ready   : Bool := false  -- READY; 14 R385
  pause   : Bool := false  -- update pause; 17 R477
  linkUp  : Bool := false  -- CXL link trained; 14 R360
  linkRate : Nat := 0  -- 0 = 8 GT/s, 1 = 16, 2 = 32; 14 R385
  linkWidth : Nat := 0  -- width; 14 R385
  cxlMode : Bool := false  -- CXL mode, clear under R360; 14 R385
  quenchPin : Bool := false  -- PIN of QUENCH_STATUS; 14 R385
  stopped : Nat := 0  -- jobs stopped by the last quench; 14 R385
  events  : List (Nat × Nat) := []  -- events held, oldest first, at most 256; 14 R384
  lost    : Nat := 0  -- events dropped since the last one posted; 14 R384
  eventSeq : Nat := 0  -- event sequence number; 14 R373
  mb      : Mailbox := {}  -- mailbox; 14 R389
  msix    : Tab (BitVec 128) := []  -- MSI-X entries written, absent: masked; 14 R362, R377
  msixPending : List Nat := []  -- pending-bit array; 14 R362, R377
  irqs    : Tab Nat := []  -- messages sent, by vector; 14 R377
  hdm     : Tab Hdm := []  -- HDM decoders 0 and 1; 14 R390
  hostBias : List (Nat × Nat) := []  -- blocks in host bias, first and count, 256 KiB; 14 R391
  bootSel : Nat := 0  -- BOOT_SEL_SAMPLED; 18 R488
  clkMode : Nat := 0  -- CLK_MODE_SAMPLED; 18 R488
  cause   : Nat := 1  -- PKG_RESET_CAUSE; 18 R487
  update  : Bool := false  -- hub update under way; 17 R477
  service : Option (Nat × Nat) := none  -- SERVICE_STATE and its unit; 17 R478
  tx      : HostTx := {}  -- flits to the host; 14 R361
  sensors : List Int := []  -- readings of the sensors at the CXL PHY and the Cocoon, 0.5 °C; 01 R16
  readData : List Byte := []  -- data returned by the last host CXL.mem read; MODEL
  lossResult : Nat := 0  -- LOSS_QUERY_RESULT; 17 R467
  deriving DecidableEq, Repr

/-- Where a dictionary request came from (R432, R443). -/
inductive ReqSource where
  | mailbox
  | field (mac session seq : Nat)
  deriving DecidableEq, Repr

/-- A request that waits for the dictionary service or the Cocoon (R426, R505). -/
structure Request where
  src  : ReqSource  -- source; 16 R432
  op   : Nat  -- 1 DICT_READ, 2 DICT_WRITE, 3 CHANGE_ORDER, 4 ATTEST; 14 R389
  data : List Byte  -- the request; 16 R439, R440
  deriving DecidableEq, Repr

/-- One record of the clamp report (R432). -/
structure ClampRec where
  index  : Nat  -- index; 16 R432
  sub    : Nat  -- subindex; 16 R432
  code   : Nat  -- result code; 16 R428
  wrote  : Nat  -- value as written; 16 R432
  after  : Nat  -- value after the write; 16 R432
  deriving DecidableEq, Repr

/-- One stored copy of the settings (R433). -/
structure Stored where
  seq    : Nat := 0  -- sequence number; 16 R433
  ok     : Bool := false  -- its digest matches; 16 R433
  vals   : Tab Nat := []  -- settings by index × 256 + subindex; 16 R434
  deriving DecidableEq, Repr

/-- The dictionary service (R432 to R436). -/
structure DictSvc where
  source  : Nat := 0  -- CLAMP_SOURCE; 16 R432
  uptime  : Nat := 0  -- CLAMP_UPTIME_US; 16 R432
  report  : List ClampRec := []  -- records in applied order; 16 R432
  copyA   : Stored := {}  -- stored copy; 16 R433
  copyB   : Stored := {}  -- stored copy; 16 R433
  storing : Option Stored := none  -- the copy being written; 16 R435
  failed  : Bool := false  -- the last store could not be written; 16 R435
  storeUs : Option Nat := none  -- STORE_UPTIME_US; 16 R434
  reqs    : List Request := []  -- requests that wait, oldest first; 16 R426
  deriving DecidableEq, Repr

/-! ### The field network -/

/-- A session (R444, R445). -/
structure Session where
  peer   : Nat  -- peer's MAC address; 16 R444
  rights : Nat  -- RIGHTS; 16 R444
  expiry : Nat  -- EXPIRY_US; 16 R444
  key    : List Byte  -- session key; 16 R445
  lastSeq : Option Nat := none  -- last SEQ accepted; 16 R445
  deriving DecidableEq, Repr

/-- A reassembly buffer (R444). -/
structure Reasm where
  mac     : Nat  -- source address; 16 R444
  session : Nat  -- SESSION; 16 R444
  seq     : Nat  -- SEQ; 16 R444
  op      : Nat  -- OP; 16 R442
  first   : Nat  -- time of the first fragment, ns; 16 R444
  frags   : List (Nat × List Byte) := []  -- fragments by byte offset; 16 R442
  total   : Option Nat := none  -- length, once the last fragment has come; 16 R442
  deriving DecidableEq, Repr

/-- The field-network port. The port's settings are those that took effect when it was last enabled (R438). -/
structure FieldNet where
  on      : Bool := false  -- port enabled; 16 R438
  node    : Nat := 255  -- PLCA_NODE_ID in effect; 16 R438
  count   : Nat := 8  -- PLCA_NODE_COUNT in effect; 16 R438
  timer   : Nat := 32  -- PLCA_TO_TIMER in effect; 16 R438
  burst   : Nat := 0  -- PLCA_BURST_COUNT in effect; 16 R438
  burstTimer : Nat := 128  -- PLCA_BURST_TIMER in effect; 16 R438
  mac     : Nat := 0  -- MAC_ADDRESS in effect; 16 R438
  ethertype : Nat := 0x88B5  -- ETHERTYPE in effect; 16 R438
  sessions : Tab Session := []  -- open sessions by number; 16 R444
  buffers : Tab Reasm := []  -- reassembly buffers 0-3; 16 R444
  rejectAt : Tab Nat := []  -- second of the last FN_REJECT record, by source; 16 R446
  out     : List (List Byte) := []  -- response frames, oldest first; 16 R443
  grants  : List (Nat × Nat × List Byte) := []  -- grants that wait for the Cocoon: source, SEQ, record; 16 R444
  closes  : List Nat := []  -- sessions whose close was accepted; 16 R445
  deriving DecidableEq, Repr

/-! ### Dies, clusters, links -/

/-- States of a channel (R313). -/
inductive ChanState where
  | active | spare | copySource | copyTarget | retraining | retired
  deriving DecidableEq, Repr

/-- What a codeword read found, waiting to be written back (R310). -/
structure Writeback where
  channel : Nat  -- physical channel; 12 R310
  dpa     : Nat  -- codeword; 12 R310
  deriving DecidableEq, Repr

/-- A partition's bucket (R328). -/
structure Bucket where
  tokens : Int := 0  -- bytes; 12 R328
  deriving DecidableEq, Repr

/-- A DRAM request held by its regulator, with the partition it had on arrival (R327 to R329). -/
structure HeldReq where
  req  : DramReq  -- the request; 12 R328
  part : Nat  -- its partition; 12 R327
  at0  : Nat  -- arrival, ns; 12 R329
  deriving DecidableEq, Repr

/-- What a channel that is being swapped holds (R315 step 4): requests and adder operations. -/
inductive ChanReq where
  | req (r : DramReq)
  | add (a : AddReq)
  deriving DecidableEq, Repr

/-- A queued migration (R314). -/
structure MigReq where
  channel : Nat  -- physical channel; 12 R314
  prio    : Nat  -- priority 1-3; 12 R314
  seq     : Nat  -- arrival; 12 R314
  deriving DecidableEq, Repr

/-- A migration under way (R315). -/
structure Migration where
  source : Nat  -- source channel; 12 R315
  target : Nat  -- target channel; 12 R315
  phase  : Nat := 1  -- MIGRATION_STATE 1-3; 12 R331
  prio   : Nat := 2  -- its priority, for requeuing; 12 R318
  copied : Nat := 0  -- copy pointer, bytes; 12 R315
  deriving DecidableEq, Repr

/-- The release sequence of a die (R484). -/
inductive ReleasePhase where
  | held | running | done
  deriving DecidableEq, Repr

/-- A compute die outside its cores. -/
structure DieHw where
  dieRst  : Bool := true  -- DIE_RST asserted; 18 R482
  phase   : ReleasePhase := .held  -- release sequence; 18 R484
  releaseNs : Nat := 0  -- its first step, ns; 18 R484
  dramKept : Bool := false  -- DRAM contents were kept; 18 R484
  instar  : Nat := 0xFF  -- INSTAR_DIE; 18 R502
  cause   : Nat := 1  -- DIE_RESET_CAUSE; 18 R487
  chans   : Tab ChanState := []  -- channel states, absent: as from manufacture; 12 R306, R313
  map     : Tab Nat := []  -- physical channel of each logical, absent: as from manufacture; 12 R307
  ceTimes : Tab (List Nat) := []  -- CE times of the last 60 minutes, ns, by channel; 12 R314
  trained : Tab Nat := []  -- when a channel was retrained since the die's DRAM was trained, ns; 12 R314
  trainNs : Nat := 0  -- when the die's DRAM was last trained, ns; 12 R314, 18 R484
  wbacks  : List Writeback := []  -- corrected codewords to write back; 12 R310
  scrubAt : Tab Nat := []  -- patrol scrub's next line by channel; 12 R312
  scrubNs : Tab Nat := []  -- start of the scrub's pass by channel, ns; 12 R312
  queue   : List MigReq := []  -- migration queue, at most 8; 12 R314
  mig     : Option Migration := none  -- migration under way; 12 R315
  again  : Option MigReq := none  -- request whose copy a reset abandoned, until the release; 12 R318
  swapHeld : List ChanReq := []  -- held by a channel's swap, oldest first; 12 R315
  adderRet : Option Nat := none  -- value held before the last fetch-add or compare-swap of ADDER_OP; 02 R54
  noSpare : List Nat := []  -- channels whose missing spare was recorded; 12 R314
  buckets : Tab Bucket := []  -- buckets by partition; 12 R328
  enable  : Bool := false  -- a release of DIE_RST held as PENDING_ENABLE during the die's drydown; 18 R492
  parts   : Tab (Nat × Nat × Nat) := []  -- regulator values in force by partition: mode, GB/s, KiB; 12 R331
  held    : List HeldReq := []  -- held requests, oldest first; 12 R329
  turn    : Nat := 0  -- partition served next; 12 R329
  refresh : Vector Bool 8 := Vector.replicate 8 false  -- LAYER_REFRESH is DOUBLE; 12 R320
  cool    : Vector Nat 8 := Vector.replicate 8 0  -- consecutive cool periods of a layer; 12 R320
  dramT   : List Int := []  -- DRAM_TEMP, 128 readings in 0.5 °C; 12 R332
  compT   : List Int := []  -- COMPUTE_TEMP, 17 readings in 0.5 °C; 18 R503
  vinA    : Nat := 0  -- DIE_VIN_CURRENT_A; 18 R503
  half    : Bool := false  -- half-rate issue; 18 R498
  wdAt    : Option Nat := none  -- watchdog expiry, ns; 17 R455
  updNs   : Option Nat := none  -- start of the update's restart, ns; 17 R476
  updBank : Bool := false  -- the image under way is the new bank's; 17 R476
  lossNs  : Nat := 0  -- time of its loss, ns; 17 R471
  autoTried : Bool := false  -- an automatic rejoin was attempted or must not be; 17 R471
  moved  : Nat := 0  -- rings re-homed since it left SERVING; 17 R469
  upd    : Bool := false  -- an update of it is under way; 17 R476
  lowered : Bool := false  -- a DRAM limit of the die was lowered in this period; 12 R333
  demoting : Bool := false  -- its free pages fell below the low water and are not yet above the high; 13 R341
  rstAsk : Option Nat := none  -- idle request for DIE_RST, ns; 18 R485
  rejoin : Bool := false  -- its release sequence is a rejoin; 17 R471
  silent : Bool := false  -- its always-on link does not answer; 17 R457
  retire  : List Nat := []  -- cores whose CORE_RETIRE waits: package core numbers; 17 R475
  deriving DecidableEq, Repr

/-- Power states of a cluster (R404 to R406, R491). -/
inductive ClusterPower where
  | cold | waking | warm | drying
  deriving DecidableEq, Repr

/-- A cluster (R404, R495, R19). -/
structure Cluster where
  power  : ClusterPower := .cold  -- state; 15 R404
  pendingWake : Bool := false  -- PENDING_ENABLE; 18 R492
  since  : Nat := 0  -- last time it held a task, ns; 15 R404
  wakeNs : Nat := 0  -- wake request or drydown start, ns; 15 R405
  spare  : Nat := 0  -- CLUSTER_SPARE_STATE; 01 R34
  phys   : Tab Nat := []  -- position of each logical core, absent: its own number; 01 R18
  swap   : Option Nat := none  -- core whose spare is being woken and tested; 17 R475
  cause  : Nat := 1  -- CLUSTER_RESET_CAUSE; 18 R487
  rstAsk : Option Nat := none  -- idle request for CLUSTER_RST, ns; 18 R485
  trimNo : Nat := 0  -- times its per-part voltage trim was measured again; 18 R493
  point  : Nat := 9  -- operating point in force; 18 R493
  target : Option Nat := none  -- higher point whose rail ramp is under way; 18 R494
  power9 : Nat := 9  -- POWER limit; 18 R497
  current9 : Nat := 9  -- CURRENT limit; 18 R498
  junction9 : Nat := 9  -- JUNCTION limit; 18 R496
  dram9  : Nat := 9  -- DRAM limit; 12 R321
  cap9   : Nat := 9  -- HOST_CAP taken in the last period; 18 R495
  hotBy  : List Nat := []  -- clusters whose heat lowered its DRAM limit; 12 R322
  limiter : Nat := 0  -- CLUSTER_LIMITER; 18 R495
  coolJ  : Nat := 0  -- consecutive cool periods, junction; 18 R496
  coolD  : Nat := 0  -- consecutive cool periods, DRAM; 12 R321
  hotD   : Nat := 0  -- consecutive periods at or above threshold + 1.5 °C; 12 R322
  deriving DecidableEq, Repr

/-- The traffic classes of a link (R24). -/
inductive TrafficClass where
  | ctrl | req | data
  deriving DecidableEq, Repr

/-- One direction of a link: its waiting flits, the credits in use, and the window of R25. -/
structure LinkDir where
  ctrlWait : Nat := 0  -- CTRL flits that wait; 01 R24
  reqWait  : Nat := 0  -- REQ flits that wait; 01 R24
  dataWait : Nat := 0  -- DATA flits that wait; 01 R24
  ctrlUsed : Nat := 0  -- CTRL credits in use, of 16; 01 R24, R26
  reqUsed  : Nat := 0  -- REQ credits in use; 01 R24
  dataUsed : Nat := 0  -- DATA credits in use; 01 R24
  window   : Nat := 0  -- flits sent in the window of 64; 01 R25
  windowCtrl : Bool := false  -- CTRL has sent one in it while DATA waited; 01 R25
  deriving DecidableEq, Repr

/-- A bridge or hub link (R28 to R34). -/
structure Link where
  state  : Nat := 0  -- 0 UP, 1 LANE_REPAIRED, 2 DOWN; 01 R34
  up     : Bool := false  -- has trained since the last reset; 01 R28
  used   : Nat := 0  -- spare lanes consumed; 01 R34
  tries  : Nat := 0  -- failed attempts; 01 R28
  retrain : Bool := false  -- a lane is being retrained; 01 R29
  toHigh : LinkDir := {}  -- toward the higher-numbered die, or the hub; 01 R24
  toLow  : LinkDir := {}  -- the other direction; 01 R24
  deriving DecidableEq, Repr

/-! ### Power, PMBus -/

/-- The package power loops (R497, R498) and what they measured. -/
structure Power where
  watts   : Nat := 0  -- PACKAGE_POWER_W; 18 R503
  vinMv   : Nat := 1800  -- measured VIN_CORE, mV; 18 R498
  coolP   : Nat := 0  -- consecutive periods below 98 % of POWER_LIMIT_W; 18 R497
  coolC   : Vector Nat 5 := Vector.replicate 5 0  -- the same for each die's and the package's current; 18 R498
  hotJ    : Tab Nat := []  -- consecutive readings at or above JUNCTION_TRIP_C, by sensor; 19 R507
  hotM    : Tab Nat := []  -- consecutive readings at or above DRAM_TRIP_C, by sensor; 19 R507
  sillUs  : Option Nat := none  -- last POWER_LIMIT record, us; 18 R497
  overP   : Nat := 0  -- consecutive periods above 1.05 × the ceiling; 19 R507
  overC   : Vector Nat 5 := Vector.replicate 5 0  -- consecutive periods above a current ceiling; 19 R507
  vinUp   : Bool := false  -- VIN_CORE within limits; 18 R490
  deriving DecidableEq, Repr

/-- The PMBus master and the regulator as it last saw it (R499 to R501). -/
structure Pmbus where
  state  : Nat := 0  -- PMBUS_STATE; 18 R503
  setMv  : Option Nat := none  -- VOUT_COMMAND last sent, mV; 18 R501
  vinMv  : Nat := 0  -- VIN_CORE_MV; 18 R503
  amps   : Nat := 0  -- VIN_CORE_A; 18 R503
  status : Nat := 0  -- REG_STATUS_WORD; 18 R503
  clears : Nat := 0  -- CLEAR_FAULTS commands sent; 18 R499
  deriving DecidableEq, Repr

/-! ### The accord and the Cocoon -/

/-- The accord (R451, R452, R454). -/
structure Accord where
  epoch  : Nat := 0  -- ACCORD_EPOCH; 17 R478
  roles  : Vector Nat 4 := Vector.replicate 4 0  -- DIE_ROLE; 17 R478
  causes : Vector Nat 4 := Vector.replicate 4 0  -- DIE_LOSS_CAUSE; 17 R478
  begun  : Bool := false  -- the first accord of instar 2 has been formed; 17 R452
  hb     : Tab Nat := []  -- last heartbeat, ns, by die × 8 + path; 17 R454
  declared : Tab Nat := []  -- losses declared and not yet carried out: cause by die; 17 R455
  deriving DecidableEq, Repr

/-- A firmware image in a bank (R523). -/
structure FwImage where
  version : Nat := 0  -- VERSION; 19 R523
  secVer  : Nat := 0  -- SECURITY_VERSION; 19 R523
  ok      : Bool := true  -- passes verification; 19 R523
  digestA : List Byte := []  -- DIGEST_A; 19 R523
  digestB : List Byte := []  -- DIGEST_B; 19 R523
  deriving DecidableEq, Repr

/-- The Cocoon (ch. 19): what its store, its RAM and its comparators hold. -/
structure Cocoon where
  up       : Bool := false  -- its firmware runs, not instar 0 alone; 19 R524
  restart  : Bool := false  -- a restart is under way; 19 R506
  swapping : Bool := false  -- the restart is a bank swap; 19 R525
  mismatch : Option Nat := none  -- time of the last mismatch, ns; 19 R506
  owned    : Bool := false  -- OWNER_STATE; 19 R514
  orderSeq : Nat := 0  -- ORDER_SEQ; 19 R514
  keys     : Tab (List Byte) := []  -- OWNER_KEY slots 1-4; 19 R514
  keyLeft  : Nat := 15  -- owner-key changes left; 19 R514
  powerCeil : Nat := 2400  -- PKG_POWER_CEILING_W; 19 R514
  powerLeft : Nat := 8  -- power raises left; 19 R514
  dieCeil  : Vector Nat 4 := Vector.replicate 4 320  -- DIE_CURRENT_CEILING_A; 19 R514
  pkgCeil  : Nat := 1250  -- PKG_CURRENT_CEILING_A; 19 R514
  juncTrip : Nat := 105  -- JUNCTION_TRIP_C; 19 R514
  dramTrip : Nat := 95  -- DRAM_TRIP_C; 19 R514
  unlockLeft : Nat := 4  -- debug unlocks left; 19 R514
  unlock   : Nat := 0  -- DEBUG_UNLOCK; 19 R514
  debug    : Nat := 0  -- DEBUG_STATE; 19 R514
  fuses    : Vector Bool 4 := Vector.replicate 4 false  -- DIE_RETIRE; 19 R514
  rootKey  : Option (List Byte) := none  -- FN_ROOT_KEY; 19 R514
  trip     : Bool := false  -- COCOON_TRIP asserted; 19 R507
  latched  : Bool := false  -- held until POR; 19 R508
  tripCause : Nat := 0  -- TRIP_CAUSE; 19 R514
  tripSensor : Nat := 0  -- TRIP_SENSOR; 19 R514
  tripUs   : Nat := 0  -- TRIP_UPTIME_US; 19 R514
  tripTimes : List Nat := []  -- times of the last trips, ns, newest first; 19 R508
  mr       : Vector (List Byte) 8 := Vector.replicate 8 (List.replicate 32 0)  -- MR0-MR7, 32 bytes; 19 R522
  leaves   : Nat := 1048576  -- IDENTITY_LEAVES_LEFT; 19 R519
  aliasNo  : Nat := 0  -- number of the alias key; 19 R519
  aliasOk  : Bool := false  -- the alias is certified; 19 R519
  aliasGen : Bool := false  -- generation under way; 19 R519
  aliasLeaf : Nat := 0  -- leaves used; 19 R521
  certLeaf : Nat := 0  -- IDENTITY_LEAF of the certificate; 19 R520
  certMr0  : List Byte := List.replicate 32 0  -- MR0 when the alias was generated; 19 R520
  bootCount : Nat := 0  -- BOOT_COUNT; 16 R438
  banks    : Tab FwImage := []  -- images by KIND × 2 + bank; 19 R524
  prefer   : Vector Nat 6 := Vector.replicate 6 0  -- FW_PREFERRED_BANK; 19 R527
  minSec   : Tab Nat := []  -- MIN_SECURITY_VERSION raised above the part's own, by KIND; 19 R527
  running  : Vector Nat 6 := Vector.replicate 6 0  -- bank that each unit runs from; 19 R524
  stage    : Mem := {}  -- staged bytes; 19 R527
  stageState : Nat := 0  -- FW_STAGE_STATE; 19 R527
  retired  : List Nat := []  -- core positions retired: cluster × 64 + position; 17 R475
  chanMaps : Tab (Tab Nat) := []  -- each die's channel map in the non-volatile store; 12 R307
  deriving DecidableEq, Repr

/-! ### Flash and imagos -/

/-- A segment of a model image (R351). -/
structure ImageSeg where
  offset : Nat  -- OFFSET; 13 R351
  len    : Nat  -- LENGTH; 13 R351
  va     : Nat  -- VA_OFFSET; 13 R351
  kind   : Nat  -- KIND; 13 R351
  die    : Nat  -- DIE; 13 R351
  layer  : Nat  -- LAYER; 13 R351
  expert : Nat  -- EXPERT; 13 R351
  deriving DecidableEq, Repr

/-- A library entry (R348, R351, R354). -/
structure Image where
  digest : List Byte  -- DIGEST, 32 bytes; 13 R351
  fallback : List Byte  -- FALLBACK_DIGEST, 32 bytes; 13 R351
  parity : Bool  -- PARITY; 13 R351
  total  : Nat  -- TOTAL_BYTES; 13 R351
  segs   : List ImageSeg  -- segment table; 13 R351
  data   : List Byte  -- the image; 13 R351
  dataB  : List Byte  -- the copy in half B; 13 R348
  deriving DecidableEq, Repr

/-- States of an imago slot (R353). -/
inductive ImagoState where
  | empty | loading | resident | retiring
  deriving DecidableEq, Repr

/-- One page of an imago (R352, R459). -/
structure ImagoPage where
  va    : Nat  -- VA_OFFSET / 65536; 13 R351
  die   : Nat  -- die; 13 R352
  frame : Nat  -- frame; 13 R352
  parity : Bool := false  -- a parity page; its va is the stripe; 17 R459
  lost  : Bool := false  -- lost with its die; 17 R464
  deriving DecidableEq, Repr

/-- An imago slot (R353). -/
structure Imago where
  state  : ImagoState := .empty  -- IMAGO_STATE; 13 R357
  image  : Option Image := none  -- the image; 13 R352
  dies   : List Nat := [0, 1, 2, 3]  -- dies of its parity layout; 17 R459, R473
  pages  : List ImagoPage := []  -- data and parity pages; 13 R352, 17 R459
  cmds   : List Nat := []  -- commands that wait for its load; 13 R352
  bad    : Option Nat := none  -- status that the load will fail with; 13 R349
  used   : Nat := 0  -- last reference, ns; 13 R353
  startNs : Nat := 0  -- start of the load, ns; 13 R355
  mode   : Nat := 0  -- IMAGO_PARITY; 17 R478
  newMode : Nat := 0  -- mode of the new layout; 17 R473
  deriving DecidableEq, Repr

/-- A NAND block, by channel × 2^24 + block (R350). -/
structure NandBlock where
  bad    : Bool := false  -- retired; 13 R350
  erases : Nat := 0  -- erase count; 13 R350
  reads  : Nat := 0  -- reads since the last erase; 13 R350
  movedTo : Option Nat := none  -- block that its pages moved to; 13 R350
  deriving DecidableEq, Repr

/-- The flash translation layer (R348 to R350). -/
structure Flash where
  library : List Image := []  -- model library; 13 R348
  blocks  : Tab NandBlock := []  -- blocks; 13 R350
  states  : Vector Nat 8 := Vector.replicate 8 0  -- NAND_CHANNEL_STATE; 13 R357
  up      : Bool := false  -- tables loaded; 18 R489
  spillBad : List Nat := []  -- spill handles whose read fails; 13 R349
  area   : Nat := 6000000000000  -- bytes of the library area in each half; 13 R348
  spill  : Nat := 56762695  -- tier pages of the spill area; 13 R348
  deriving DecidableEq, Repr

/-! ### Pins -/

/-- The level of an output (R533). -/
inductive Pin where
  | released | idle | low | high | active
  deriving DecidableEq, Repr

/-- The pins (R529, R532 to R535). -/
structure Pins where
  perst   : Bool := true  -- PERST_N asserted; 20 R529
  quench  : Bool := false  -- QUENCH_N recognised as asserted; 20 R535
  tx      : Pin := .released  -- TXP/TXN; 20 R533
  fn      : Pin := .released  -- FN_P/FN_N; 20 R533
  pmb     : Pin := .released  -- PMB_SCL/PMB_SDA; 20 R533
  nandCe  : Pin := .released  -- NCn_CE_N; 20 R533
  nandWp  : Pin := .released  -- NCn_WP_N; 20 R533
  nandOut : Pin := .released  -- other NAND outputs; 20 R533
  clkreq  : Pin := .released  -- CLKREQ_N; 20 R533
  wake    : Pin := .released  -- WAKE_N; 20 R533
  alertMask : Nat := 0x1F  -- ALERT_MASK taken in the last period; 20 R534
  thermtrip : Bool := false  -- THERMTRIP_N asserted; 20 R532
  tdo     : Pin := .released  -- TDO; 20 R533
  xtal    : Pin := .active  -- XTAL25_OUT; 20 R533
  deriving DecidableEq, Repr

/-- The scheduler (R398 to R402, R413). -/
structure Sched where
  vtime   : Tab (Nat × Nat) := []  -- virtual time of each partition, a fraction; 15 R402
  affinity : List ((Nat × Nat × Nat) × List Nat) := []  -- cores of the last run of an LC program; 15 R400
  pick    : Option Nat := none  -- BE job that keeps the cores freeing up; 15 R402
  jobSeq  : Nat := 0  -- arrivals; 15 R401
  deriving DecidableEq, Repr

/-! ### The machine -/

/-- Why the machine stops. No meaning of the model stops with a fault: the type has one constructor. -/
inductive Fault where
  /-- Raised by no meaning (safe): it only makes the type of outcomes complete. -/
  | none
  deriving DecidableEq, Repr

/-- Why a command has no meaning. -/
inductive Refusal where
  /-- Raised by an arm of `exec` whose command has no meaning yet (safe: nothing is claimed of it). -/
  | notModelled (mnemonic : String)
  deriving DecidableEq, Repr

/-- The state of the package. -/
structure State where
  pending : List Instr := []  -- commands that wait, first in first out; MODEL
  nowNs   : Nat := 0  -- uptime since POR release, ns; 18 R481
  free    : Nat := 0  -- counter of free values; MODEL
  seq     : Nat := 0  -- counter of arrivals; MODEL
  dram    : Mem := {}  -- package DRAM by package DPA; 12 R305-R308
  dramUE  : List Nat := []  -- uncorrectable codewords: package DPA / 128; 12 R311
  hostMem : Mem := {}  -- host memory by host physical address; 13 R346
  nand    : Mem := {}  -- NAND spill area by handle × 64 KiB; 13 R348
  scratch : Mem := {}  -- scratchpads: core × 2^18 + address; 03 R74
  scratchUE : List Nat := []  -- uncorrectable scratchpad words: (core × 2^18 + address) / 8; 03 R74
  cores   : Tab Core := []  -- cores by package core number, absent: a fresh core; 03 R58
  jobs    : Tab Job := []  -- jobs by the model's number; 14 R381
  aspaces : Tab ASpace := []  -- address spaces by ASID; 13 R336
  groups  : Tab Group := []  -- rollout groups by group number; 09 R243
  kvPages : Tab KvPage := []  -- key-value pages by die × 2^32 + page id; 08 R216
  chunks  : Tab Chunk := []  -- table chunks by die × 2^32 + slot id; 09 R248
  trees   : Tab (List TreeNode) := []  -- prefix tree of each die; 08 R236
  pools   : Tab KvPool := []  -- page pool of each die; 09 R268
  commits : List CommitReq := []  -- commits landed, waiting or under way; 08 R219
  stats   : Tab Nat := []  -- counters by index × 256 + subindex; 02 R55 and the counters of every chapter
  dict    : Tab Nat := []  -- settings written, by index × 256 + subindex; 16 R424
  sill    : List (BitVec 256) := []  -- sillage records, newest first, at most 131,072; 14 R394
  sillWritten : Nat := 0  -- SILL_WRITTEN; 14 R394
  cmds    : Tab Cmd := []  -- commands fetched and not completed; 14 R372
  posts   : List Post := []  -- completions that wait in the hub; 14 R375
  rings   : Tab Ring := []  -- rings by number, absent: at reset; 14 R366
  hub     : Hub := {}  -- the hub; 01 R20
  svc     : DictSvc := {}  -- the dictionary service; 16 R426
  fnet    : FieldNet := {}  -- the field network; 16 R441
  dies    : Tab DieHw := []  -- dies D0-D3, absent: at reset; 01 R13
  clusters : Tab Cluster := []  -- clusters by 16 × die + number, absent: at reset; 15 R404
  links   : Tab Link := []  -- links 0-5 B01-B23, 6-9 H0-H3; 01 R21
  pow     : Power := {}  -- power loops; 18 R497
  pmb     : Pmbus := {}  -- PMBus master; 18 R499
  accord  : Accord := {}  -- the accord; 17 R451
  coc     : Cocoon := {}  -- the Cocoon; 19 R505
  imagos  : Tab Imago := []  -- imago slots 0-63, absent: EMPTY; 13 R353
  flash   : Flash := {}  -- flash; 13 R348
  pins    : Pins := {}  -- pins; 20 R529
  sched   : Sched := {}  -- scheduler; 15 R398
  refOk   : Bool := false  -- XTAL25 is qualified and drives the always-on domain; 18 R481
  por     : Bool := true  -- POR asserted; 18 R482
  deriving DecidableEq, Repr

/-- The machine under power-on reset: every field at its value above. -/
def State.reset : State := {}

end Sys2Proof.Machine
end

