-- ==== Sys2Proof/Machine/Ops.lean ====
section
/-! DEFINITION. The named operations over tables, memories, counters, the sillage, cores and jobs. -/

namespace Sys2Proof.Machine

/-! ### Tables -/

/-- The value under a key. -/
def tget {α : Type} : Tab α → Nat → Option α
  | [], _ => none
  | (k, v) :: t, n => if k = n then some v else tget t n

/-- Put a value under a key, keeping the keys in rising order. -/
def tset {α : Type} : Tab α → Nat → α → Tab α
  | [], n, x => [(n, x)]
  | (k, v) :: t, n, x =>
    if n < k then (n, x) :: (k, v) :: t
    else if n = k then (n, x) :: t
    else (k, v) :: tset t n x

/-- Remove a key. -/
def tdel {α : Type} : Tab α → Nat → Tab α
  | [], _ => []
  | (k, v) :: t, n => if k = n then t else (k, v) :: tdel t n

/-- The value under a key, or a default. -/
def tgetD {α : Type} (t : Tab α) (n : Nat) (d : α) : α := (tget t n).getD d

/-- Change every value of a table. -/
def tmap {α : Type} (f : Nat → α → α) (t : Tab α) : Tab α := t.map fun p => (p.1, f p.1 p.2)

/-- The least number not used as a key, below a bound of the table's length. -/
def tfresh {α : Type} (t : Tab α) : Nat :=
  ((List.range (t.length + 1)).find? fun i => (tget t i).isNone).getD t.length

/-- Bits `[lo + w - 1 : lo]` of a word as a number. -/
def field {n : Nat} (b : BitVec n) (lo w : Nat) : Nat := b.toNat / 2 ^ lo % 2 ^ w

/-- One bit of a word. -/
def bit {n : Nat} (b : BitVec n) (i : Nat) : Bool := field b i 1 = 1

/-- `n / d` rounded up. -/
def ceilDiv (n d : Nat) : Nat := (n + d - 1) / d

/-! ### Memories -/

/-- The listed byte at an address. -/
def cellGet : List Host.Cell → Nat → Option Byte
  | [], _ => none
  | (k, v) :: t, n => if k = n then some v else cellGet t n

/-- List a byte at an address. -/
def cellSet : List Host.Cell → Nat → Byte → List Host.Cell
  | [], n, x => [(n, x)]
  | (k, v) :: t, n, x =>
    if n < k then (n, x) :: (k, v) :: t
    else if n = k then (n, x) :: t
    else (k, v) :: cellSet t n x

/-- List no byte at an address. -/
def cellDel : List Host.Cell → Nat → List Host.Cell
  | [], _ => []
  | (k, v) :: t, n => if k = n then t else (k, v) :: cellDel t n

/-- The address lies in a range. -/
def inRange (a : Nat) (u : URange) : Bool := u.base ≤ a && a < u.base + u.len

/-- The newest range of undefined data that holds the address. -/
def undefAt (m : Mem) (a : Nat) : Option URange := m.undefs.find? (inRange a)

/-- One byte: as listed; else a free byte in a range of undefined data; else 0 (DESIGN CHOICE, log 1). -/
def memRead (m : Mem) (a : Nat) : Byte :=
  match cellGet m.cells a with
  | some b => b
  | none =>
    match undefAt m a with
    | some u => Config.freeByte u.token a
    | none => 0

/-- Write one byte, keeping the canonical form. -/
def memWrite (m : Mem) (a : Nat) (b : Byte) : Mem :=
  if b = 0 ∧ (undefAt m a).isNone then { m with cells := cellDel m.cells a }
  else { m with cells := cellSet m.cells a b }

/-- Write consecutive bytes. -/
def memWrites (m : Mem) : Nat → List Byte → Mem
  | _, [] => m
  | a, b :: bs => memWrites (memWrite m a b) (a + 1) bs

/-- Read consecutive bytes. -/
def memReads (m : Mem) (a n : Nat) : List Byte := (List.range n).map fun i => memRead m (a + i)

/-- The bytes of a range hold undefined data from now on: they are no longer listed, and ranges wholly
inside are forgotten. -/
def memUndef (m : Mem) (base len token : Nat) : Mem :=
  { cells := m.cells.filter fun c => !(inRange c.1 { base := base, len := len, token := token })
    undefs := { base := base, len := len, token := token } ::
      m.undefs.filter fun u => !(base ≤ u.base && u.base + u.len ≤ base + len) }

/-- The canonical form: addresses strictly rising, and no byte listed that an unlisted address reads as,
outside the ranges of undefined data. -/
def cellsSorted : List Host.Cell → Bool
  | [] => true
  | [_] => true
  | a :: b :: t => decide (a.1 < b.1) && cellsSorted (b :: t)

def memWf (m : Mem) : Bool :=
  cellsSorted m.cells && m.cells.all fun c => !(c.2 == 0) || (undefAt m c.1).isSome

/-! ### Free values, counters, settings, the sillage -/

/-- A fresh number for a free value. -/
def takeFree (s : State) : Nat × State := (s.free, { s with free := s.free + 1 })

/-- Uptime in microseconds (R481). -/
def uptimeUs (s : State) : Nat := s.nowNs / 1000

/-- The key of an object's counter or setting. -/
def objKey (index sub : Nat) : Nat := index * 256 + sub

/-- Add to a counter; it saturates at 2⁶⁴ − 1 (R55 and like rules). -/
def bump (s : State) (index sub n : Nat) : State :=
  { s with stats := tset s.stats (objKey index sub) (min (2 ^ 64 - 1) (tgetD s.stats (objKey index sub) 0 + n)) }

/-- A counter of `n` events, if there are any. -/
def bumpIf (s : State) (index sub n : Nat) : State := if n = 0 then s else bump s index sub n

/-- Defaults of the settings that the meanings read (each from its object table). -/
def settingDefault (index sub : Nat) : Nat :=
  if 0x4000 ≤ index ∧ index < 0x5000 then
    (let o := (index - 0x4000) % 0x400
     if o = 0x20 then 24
     else if o = 0x30 then (if sub = 1 then 10 else 4)
     else if o = 0x40 then 32 else 0)
  else if 0x5000 ≤ index ∧ index < 0x5400 then
    (let o := (index - 0x5000) % 0x100
     if o = 0x21 then (if sub = 1 then 64 else if sub = 2 then 168 else 24)
     else if 0x40 ≤ o ∧ o < 0x80 ∧ sub = 3 then 64 else 0)
  else if 0x3040 ≤ index ∧ index < 0x3080 then 100
  else match index with
    | 0x3080 => 1000000
    | 0x6010 => 92
    | 0x5800 => 4
    | 0x5801 => 8
    | 0x5802 => 8
    | 0x5820 => 2000
    | 0x5840 => if sub = 1 then 50000 else 256
    | 0x3010 => 2
    | 0x3011 => 500
    | 0x3020 => 100
    | 0x1100 => if sub = 1 then 1 else if sub = 2 then 255 else if sub = 3 then 8 else if sub = 4 then 32
        else if sub = 6 then 128 else 0
    | 0x1101 => (let x := Config.perPart (0x1101 * 256 + 1)
        x % 2 ^ 40 + x / 2 ^ 41 % 2 ^ 7 * 2 ^ 41)
    | 0x1102 => 0x88B5
    | 0x2203 => if sub = 1 then 5 else 1
    | 0x2300 => 100
    | 0x2400 => 0x1F
    | 0x6000 => 2400
    | 0x6001 => if sub = 5 then 1200 else 300
    | 0x6003 => 100
    | 0x6004 => 1050
    | 0x6040 => if sub = 1 then 1800 else if sub = 2 then 0x40 else 1
    | _ => 0

/-- The working value of a setting (R432). -/
def setting (s : State) (index sub : Nat) : Nat :=
  tgetD s.dict (objKey index sub) (settingDefault index sub)

/-- A sillage record (R394). -/
def sillRecord (uptime event source job detail : Nat) : BitVec 256 :=
  BitVec.ofNat 256 (uptime * 2 ^ 192 + event % 2 ^ 16 * 2 ^ 176 + source % 256 * 2 ^ 168
    + job % 2 ^ 32 * 2 ^ 128 + detail % 2 ^ 128)

/-- No job applies. -/
def noJob : Nat := 0xFFFFFFFF

/-- Write a sillage record; the trail holds 131,072 (R394). -/
def sillage (s : State) (event source job detail : Nat) : State :=
  { s with sill := ((sillRecord (uptimeUs s % 2 ^ 64) event source job detail) :: s.sill).take 131072
           sillWritten := min (2 ^ 64 - 1) (s.sillWritten + 1) }

/-- Items packed from bit 0 upward: (width, value) (R449). -/
def packItems : List (Nat × Nat) → Nat
  | [] => 0
  | (w, v) :: t => v % 2 ^ w + 2 ^ w * packItems t

/-! ### Cores and jobs -/

/-- The die of a package core number (R449). -/
def coreDie (c : Nat) : Nat := c / 512
/-- The package cluster number of a core. -/
def coreCluster (c : Nat) : Nat := c / 32

def getCore (s : State) (c : Nat) : Core := tgetD s.cores c {}
def setCore (s : State) (c : Nat) (k : Core) : State := { s with cores := tset s.cores c k }
def updCore (s : State) (c : Nat) (f : Core → Core) : State := setCore s c (f (getCore s c))

def getTask (s : State) (c : Nat) (lc : Bool) : Option Task :=
  if lc then (getCore s c).lc else (getCore s c).be

def setTask (s : State) (c : Nat) (lc : Bool) (t : Option Task) : State :=
  updCore s c fun k => if lc then { k with lc := t } else { k with be := t }

/-- Change a task that exists. -/
def updTask (s : State) (c : Nat) (lc : Bool) (f : Task → Task) : State :=
  match getTask s c lc with
  | some t => setTask s c lc (some (f t))
  | none => s

def updJob (s : State) (j : Nat) (f : Job → Job) : State :=
  match tget s.jobs j with
  | some x => { s with jobs := tset s.jobs j (f x) }
  | none => s

/-- The JOB field of a sillage record (R394). -/
def jobField (j : Job) : Nat := j.ring * 2 ^ 16 + j.tag

/-- The bytes of 128 GiB that a package DPA gives each die (R390). -/
def dieSpan : Nat := 128 * 2 ^ 30
/-- Backed bytes of a die, 120 GiB (R306). -/
def dieBacked : Nat := 120 * 2 ^ 30
/-- The die of a package DPA. -/
def dpaDie (p : Nat) : Nat := p / dieSpan

/-! ### Dies and their roles (R451) -/

def getDie (s : State) (d : Nat) : DieHw := tgetD s.dies d {}
def setDie (s : State) (d : Nat) (x : DieHw) : State := { s with dies := tset s.dies d x }
def updDie (s : State) (d : Nat) (f : DieHw → DieHw) : State := setDie s d (f (getDie s d))

def role (s : State) (d : Nat) : Nat := if h : d < 4 then s.accord.roles[d] else 5
/-- SERVING, DRAINING and UPDATING dies are in the accord. -/
def inAccord (s : State) (d : Nat) : Bool := role s d ≤ 2
def serving (s : State) (d : Nat) : Bool := role s d = 0
/-- The mask of dies in the accord. -/
def accordMask (s : State) : Nat := ((List.range 4).map fun d => if inAccord s d then 2 ^ d else 0).sum
/-- The first SERVING die after a die in the cyclic order (R463). -/
def successor (s : State) (d : Nat) : Option Nat := ([1, 2, 3].map fun i => (d + i) % 4).find? (serving s)

/-- The die's clusters may be woken: its release sequence is done (R484). -/
def dieUp (s : State) (d : Nat) : Bool := (getDie s d).phase = .done && !(getDie s d).dieRst

/-- A die answers for its memory (R12, R451): it is in the accord, and its logic is out of reset and through its release
sequence. -/
def dieAnswers (s : State) (d : Nat) : Bool := inAccord s d && dieUp s d

def getCluster (s : State) (k : Nat) : Cluster := tgetD s.clusters k {}
def setCluster (s : State) (k : Nat) (x : Cluster) : State := { s with clusters := tset s.clusters k x }
def updCluster (s : State) (k : Nat) (f : Cluster → Cluster) : State := setCluster s k (f (getCluster s k))

/-! ### Weight parity (R459 to R462) -/

/-- The imago page that lies in a frame of a die. -/
def imagoAt (s : State) (d frame : Nat) : Option (Nat × Imago × ImagoPage) :=
  s.imagos.findSome? fun i => (i.2.pages.find? fun p => p.die = d && p.frame = frame).map fun p => (i.1, i.2, p)

/-- The data pages of an imago on a die, in ascending VA_OFFSET (R459). -/
def dataPages (m : Imago) (d : Nat) : List ImagoPage := m.pages.filter fun p => p.die = d && !p.parity

/-- The data page that position `i` of `n` dies contributes to stripe `st` (R459). -/
def dataNo (i n st : Nat) : Nat := st - (st + n - i) / n

/-- The stripe of data page `k` at position `i` of `n` dies (R459). -/
def stripeOf (i n k : Nat) : Nat :=
  ((List.range (2 * k + 4)).find? fun st => st % n ≠ i && dataNo i n st = k).getD 0

/-- The stripe of a page: a parity page's is its own number. -/
def pageStripe (m : Imago) (p : ImagoPage) : Nat :=
  if p.parity then p.va
  else stripeOf (m.dies.idxOf p.die) m.dies.length ((dataPages m p.die).idxOf p)

/-- The page that a die contributes to a stripe: none for a zero unit, which is not stored (R459). -/
def stripeUnit (m : Imago) (st d : Nat) : Option ImagoPage :=
  let i := m.dies.idxOf d
  if st % m.dies.length = i then m.pages.find? fun p => p.parity && p.va = st
  else (dataPages m d)[dataNo i m.dies.length st]?

/-- The bytes of a package DPA can be rebuilt from the stripe's other units (R460 to R462): each lies on a die in the
accord and holds no uncorrectable codeword at the same offset. -/
def repairable (s : State) (a : Nat) : Bool :=
  let d := dpaDie a
  match imagoAt s d (a % dieSpan / 65536) with
  | none => false
  | some (_, m, p) =>
    let st := pageStripe m p
    ((m.image.map (·.parity)).getD false) && m.dies.all fun e => e = d ||
      (dieAnswers s e && (match stripeUnit m st e with
        | none => true
        | some u => !(s.dramUE.contains ((e * dieSpan + u.frame * 65536 + a % 65536) / 128))))

/-! ### DRAM channels (R306 to R308, R311) -/

/-- The state of a physical channel: from manufacture CH015, CH031, … are spares (R306). -/
def chanState (d : DieHw) (n : Nat) : ChanState := tgetD d.chans n (if n % 16 = 15 then .spare else .active)

/-- The physical channel of a logical one; from manufacture the active channels in ascending order (R307: the map's
first contents are not given, DESIGN CHOICE, log 113). -/
def physOf (d : DieHw) (l : Nat) : Nat := tgetD d.map l (l + l / 15)

/-- The logical channel of a physical one, when it is mapped. -/
def logicalOf (d : DieHw) (n : Nat) : Option Nat := (List.range 120).find? fun l => physOf d l = n

/-- The logical channel of a die address (R308). -/
def lineChannel (dpa : Nat) : Nat := dpa / 256 % 120

/-- The physical channel that serves a die address. -/
def dpaChannel (s : State) (d dpa : Nat) : Nat := physOf (getDie s d) (lineChannel dpa)

/-- The base index of a die's DRAM objects (R331). -/
def dramIx (d : Nat) : Nat := 0x5000 + 0x100 * d

def clearUe (s : State) (cw : Nat) : State := { s with dramUE := s.dramUE.filter (· ≠ cw) }

/-- An uncorrectable codeword, by package DPA / 128, is met (R311): it counts and is recorded. -/
def countUe (s : State) (cw : Nat) : State :=
  let d := dpaDie (cw * 128)
  let dpa := cw * 128 % dieSpan
  let n := dpaChannel s d dpa
  sillage (bump s (dramIx d + 0x13) (n + 1) 1) 0x0022 d noJob (packItems [(8, d), (40, dpa), (8, n)])

/-- An uncorrectable codeword in a protected page is met: it counts, its line is rebuilt from the stripe's other units and
written back, which is recorded (R311, R461). -/
def repairUe (s : State) (cw : Nat) : State :=
  let d := dpaDie (cw * 128)
  sillage (bump (clearUe (countUe s cw) cw) 0xE092 (d + 1) 1) 0x0102 d noJob
    (packItems [(8, d), (40, cw * 128 % dieSpan)])

/-- A unit of the stripe of a protected page, on another die than the page's, that does not answer (R462). -/
def lostUnit (s : State) (a : Nat) : Option Nat :=
  match imagoAt s (dpaDie a) (a % dieSpan / 65536) with
  | none => none
  | some (_, m, p) =>
    if !((m.image.map (·.parity)).getD false) then none
    else m.dies.find? fun e => e ≠ dpaDie a && !dieAnswers s e && (stripeUnit m (pageStripe m p) e).isSome

/-- Writes reach some codewords, by package DPA / 128: no corrected data is written back over them (R310). -/
def dropWbacks (s : State) (hit : Nat → Bool) : State :=
  { s with dies := tmap (fun d x => { x with wbacks := x.wbacks.filter fun w => !hit ((d * dieSpan + w.dpa) / 128) }) s.dies }

/-- A FAIL status with its DETAIL (R145, R148). -/
abbrev Fail := Nat × Nat

def failMemUe : Fail := (0x20, 0)
/-- FAIL_MEM_UE for a codeword of DRAM: until it is raised, its number plus one stands in the place of the DETAIL, so that
the codeword is counted (R311). -/
def failDramUe (cw : Nat) : Fail := (0x20, cw + 1)
/-- The status as a completion reports it: DETAIL is 0 for FAIL_MEM_UE (R373). -/
def reportFail (f : Fail) : Fail := if f.1 = 0x20 then failMemUe else f
/-- The codeword that a failure met counts (R311). -/
def countFail (s : State) (f : Fail) : State := if f.1 = 0x20 ∧ f.2 ≠ 0 then countUe s (f.2 - 1) else s
def failIllegal (reason : Nat) : Fail := (0x21, reason)
def failBounds : Fail := (0x22, 0)
def failTimeout : Fail := (0x23, 0)
def failQuenched : Fail := (0x25, 0)
/-- FAIL_DIE_LOST with the lost die (R373). -/
def failDieLost (d : Nat) : Fail := (0x24, d)

/-- Raise an OK status of a job: 1 OK_EMPTY, 2 OK_CLAMPED, 3 OK_FALLBACK (R146). -/
def raiseOk (s : State) (j rank : Nat) : State := updJob s j fun x => { x with okRank := max x.okRank rank }

/-- The first event of a kind in a job writes a sillage record (R180, R185, R241, R276, R267). For the counters of R55 it
is the first of each counter, so of each die: `k` is that die, 0 for the others. -/
def firstEvent (s : State) (j : Nat) (e : FirstEvent) (k event source detail : Nat) : State :=
  match tget s.jobs j with
  | some x => if x.firsts.contains (e, k) then s
      else sillage (updJob s j fun x => { x with firsts := (e, k) :: x.firsts }) event source (jobField x) detail
  | none => s

/-- The scratchpad of one core within `State.scratch`. -/
def scratchBase (c : Nat) : Nat := c * 2 ^ 18

/-- The scratchpad address an operand's address maps to, for the class (R76, R77): `lc`, LC_RESERVE_KIB
and the declared footprint a bank in KiB. -/
def scratchMap (lc : Bool) (reserve foot : Nat) (a : Nat) : Option Nat :=
  let lo0 := 0x18000 - 512 * reserve
  let lo1 := 0x30000 - 512 * reserve
  if lc then
    if 2 * foot ≤ reserve then
      (if a < foot * 1024 then some (lo0 + a)
       else if 0x18000 ≤ a ∧ a < 0x18000 + foot * 1024 then some (lo1 + (a - 0x18000))
       else none)
    else if a < 0x30000 then some a else none
  else if a < lo0 ∨ (0x18000 ≤ a ∧ a < lo1) then some a else none

/-- The ranges of a core's scratchpad that a task may write (R77). -/
def scratchRanges (lc : Bool) (reserve foot : Nat) : List (Nat × Nat) :=
  let lo0 := 0x18000 - 512 * reserve
  let lo1 := 0x30000 - 512 * reserve
  if lc then
    if 2 * foot ≤ reserve then [(lo0, foot * 1024), (lo1, foot * 1024)] else [(0, 0x30000)]
  else [(0, lo0), (0x18000, lo1 - 0x18000)]

/-- The physical address of byte `off` of a page (R337). -/
def pteAddr (p : Pte) (off : Nat) : PAddr :=
  if p.tier = 4 then ⟨.host, p.frame * 2 ^ 16 + off⟩
  else if p.tier = 5 then ⟨.nand, p.frame * 2 ^ 16 + off⟩
  else ⟨.dram, p.die * dieSpan + p.frame * 2 ^ 16 + off⟩

def spaceMem (s : State) (sp : MemSpace) : Mem :=
  match sp with
  | .dram => s.dram
  | .host => s.hostMem
  | .nand => s.nand

def setSpace (s : State) (sp : MemSpace) (m : Mem) : State :=
  match sp with
  | .dram => { s with dram := m }
  | .host => { s with hostMem := m }
  | .nand => { s with nand := m }

/-- Mark undefined every byte of a range of a memory, under a fresh token. -/
def undefSpace (s : State) (sp : MemSpace) (base len : Nat) : State :=
  let m := memUndef (spaceMem s sp) base len s.free
  { setSpace s sp m with free := s.free + 1 }

def undefScratch (s : State) (c base len : Nat) : State :=
  { s with scratch := memUndef s.scratch (scratchBase c + base) len s.free, free := s.free + 1 }

/-- The parts of a range that lie outside another. -/
def cutRange (r q : Nat × Nat) : List (Nat × Nat) :=
  if q.1 + q.2 ≤ r.1 ∨ r.1 + r.2 ≤ q.1 then [r] else
    [(r.1, q.1 - r.1), (q.1 + q.2, r.1 + r.2 - (q.1 + q.2))].filter fun p => 0 < p.2

/-- The records of a job's carried-state slots, by job virtual address (R295). -/
def slotRecords (s : State) (j : Job) : List (Nat × Nat) :=
  j.cores.flatMap fun c => ((getTask s c j.lc).map (·.states)).getD [] |>.map fun sl =>
    (sl.record, 0x80 + sl.channels * 8 * sl.ns)

/-- The regions that a job's instructions could write hold undefined data (R147): its class's part of each
core's scratchpad and every writable page it has mapped, but for the records of its carried-state slots, which keep what
the last swap-out wrote (R301). -/
def undefJobData (s : State) (j : Job) : State :=
  let s := j.cores.foldl (fun s c =>
    let reserve := ((getTask s c j.lc).map (·.reserve)).getD 24
    (scratchRanges j.lc reserve j.footKib).foldl (fun s r => undefScratch s c r.1 r.2) s) s
  match tget s.aspaces j.asid with
  | some a => a.pages.foldl (fun s p =>
      if p.2.writable then
        let q := pteAddr p.2 0
        ((slotRecords s j).foldl (fun l k => l.flatMap fun r => cutRange r k) [(p.1 * 65536, 65536)]).foldl
          (fun s r => undefSpace s q.sp (q.a + (r.1 - p.1 * 65536)) r.2) s
      else s) s
  | none => s

/-- A task that issues nothing more and holds no instruction. -/
def stopTask (now : Nat) (t : Task) : Task :=
  { t with ended := true, endNs := some (t.endNs.getD now), blocked := none, fq := [], eq := [], sigAdds := [], ctxs := Vector.replicate 8 {},
           waiting := false }

/-- Stop every core of a job (R147). -/
def stopJob (s : State) (n : Nat) (j : Job) : State :=
  j.cores.foldl (fun s c => updTask s c j.lc fun t => if t.job = n then stopTask s.nowNs t else t) s

/-- A FAIL status ends the job (R146, R147): the first is kept, every core stops, the sillage records core,
instruction address, status and reason, and what the job could write is undefined. -/
def failJob (s : State) (n : Nat) (core pc : Nat) (f : Fail) : State :=
  match tget s.jobs n with
  | none => s
  | some j =>
    if j.failed.isSome ∨ j.state = .done then s else
      let s := countFail s f
      let f := reportFail f
      let s := updJob s n fun j => { j with failed := some f, state := .ending }
      let s := stopJob s n j
      let s := if j.state = .running ∨ j.state = .placed then undefJobData s j else s
      sillage s 0x0001 (coreDie core) (jobField j)
        (packItems [(16, core), (24, pc), (8, f.1), (8, if f.1 = 0x21 then f.2 else 0)])

/-- As `failJob`, where no instruction raised the status: the record names the job's first core and where it
stands (DEDUCED, log 6). -/
def failJobService (s : State) (n : Nat) (f : Fail) : State :=
  match tget s.jobs n with
  | none => s
  | some j =>
    let c := j.cores.headD 0
    failJob s n c (((getTask s c j.lc).map (·.pc)).getD 0) f

/-! ### Access to memory -/

/-- What an access finds wrong. -/
abbrev Res := Except Fail

/-- The page-table entry of a job virtual address. -/
def findPte (s : State) (asid va : Nat) : Option Pte :=
  (tget s.aspaces asid).bind fun a => tget a.pages (va / 65536)

/-- Translation of a job virtual address (R106, R337): FAIL_BOUNDS in an unmapped page, and for a write to a
page that is not writable; FAIL_DIE_LOST for a page whose contents a die loss took (R465). -/
def translate (s : State) (asid : Nat) (va : Int) (write : Bool) : Res PAddr :=
  if va < 0 ∨ 2 ^ 48 ≤ va then .error failBounds else
    match findPte s asid va.toNat with
    | none => .error failBounds
    | some p =>
      if p.freeing then .error failBounds
      else if write ∧ ¬ p.writable then .error failBounds
      else if p.lost then .error (failDieLost p.die)
      else .ok (pteAddr p (va.toNat % 65536))

/-- The codeword of a DRAM byte holds an uncorrectable error that no parity repairs (R311, R461). -/
def isUe (s : State) (p : PAddr) : Bool :=
  p.sp = .dram && s.dramUE.contains (p.a / 128) && !repairable s p.a

/-- A DRAM byte of a die that does not answer and that cannot be served degraded (R12, R462). -/
def degradedOut (s : State) (p : PAddr) : Bool :=
  p.sp = .dram && !dieAnswers s (dpaDie p.a) && !repairable s p.a

def physRead (s : State) (p : PAddr) : Byte := memRead (spaceMem s p.sp) p.a
def physWrite (s : State) (p : PAddr) (b : Byte) : State := setSpace s p.sp (memWrite (spaceMem s p.sp) p.a b)

/-- What a read of an uncorrectable codeword that no parity repairs ends with (R311, R462): FAIL_DIE_LOST where a unit that
would repair it is on a die that does not answer, else FAIL_MEM_UE. -/
def ueFail (s : State) (a : Nat) : Fail :=
  match lostUnit s a with
  | some d => failDieLost d
  | none => failDramUe (a / 128)

/-- Read a byte of job memory; FAIL_MEM_UE for an uncorrectable codeword (R145). -/
def jobRead (s : State) (asid : Nat) (va : Int) : Res Byte :=
  match translate s asid va false with
  | .error e => .error e
  | .ok p =>
    if degradedOut s p then .error (failDieLost (dpaDie p.a))
    else if isUe s p then .error (ueFail s p.a) else .ok (physRead s p)

/-- `n` bytes of job memory. -/
def jobReads (s : State) (asid : Nat) (va : Int) (n : Nat) : Res (List Byte) :=
  (List.range n).mapM fun i => jobRead s asid (va + i)

/-- A little-endian number of `n` bytes of job memory. -/
def jobNat (s : State) (asid : Nat) (va : Int) (n : Nat) : Res Nat := do
  return leNat (← jobReads s asid va n)

/-- Write bytes at physical places, none of which lies in a codeword that stays uncorrectable: a write that
covers a whole codeword clears its error, a partial write to an uncorrectable one fails (R311). A corrected codeword that
they reach is not written back (R310). -/
def physWrites (s : State) (ws : List (PAddr × Byte)) : Res State :=
  let ueHit := s.dramUE.filter fun cw => ws.any fun w => w.1.sp = .dram ∧ w.1.a / 128 = cw
  let covered := ueHit.filter fun cw => (List.range 128).all fun i =>
    ws.any fun w => w.1.sp = .dram ∧ w.1.a = cw * 128 + i
  match ueHit.find? fun cw => !covered.contains cw with
  | some cw => .error (failDramUe cw)
  | none =>
    let s := ws.foldl (fun s w => physWrite s w.1 w.2) s
    let s := dropWbacks s fun cw => ws.any fun w => w.1.sp = .dram && w.1.a / 128 = cw
    .ok { s with dramUE := s.dramUE.filter fun cw => !(covered.contains cw) }

/-- Write consecutive bytes of job memory. -/
def jobWrites (s : State) (asid : Nat) (va : Int) (bs : List Byte) : Res State := do
  let ws ← bs.zipIdx.mapM fun (b, i) => do
    let p ← translate s asid (va + i) true
    return (p, b)
  physWrites s ws

/-- As `jobWrites`, with no effect where the write fails: used by services that have checked before. -/
def jobWritesD (s : State) (asid : Nat) (va : Int) (bs : List Byte) : State :=
  match jobWrites s asid va bs with
  | .ok s => s
  | .error _ => s

/-- The condition of each watch on a counter word is checked when an add has landed on it (R207). -/
def markWatches (s : State) (asid : Nat) (va : Int) : State :=
  match jobNat s asid va 4 with
  | .error _ => s
  | .ok v =>
    let mark (t : Task) : Task :=
      match t.blocked with
      | some (.watch a least true false) =>
        if (a : Int) = va ∧ ((tget s.jobs t.job).map (·.asid)) = some asid ∧ least ≤ toSigned 32 v then
          { t with blocked := some (.watch a least true true) } else t
      | _ => t
    { s with cores := tmap (fun _ k => { k with be := k.be.map mark, lc := k.lc.map mark }) s.cores }

/-- One add of the memory-side adder on 4 bytes (R54, INT32), naturally aligned (R324), with the watches on the word. -/
def add32 (s : State) (asid : Nat) (va : Int) (n : Int) : Res (Nat × State) := do
  if va % 4 ≠ 0 then throw (failIllegal 0x04)
  let old ← jobNat s asid va 4
  let s ← jobWrites s asid va (leBytes 4 (ofSigned 32 (old + n)))
  return (old, markWatches s asid va)

end Sys2Proof.Machine
end

