-- ==== Sys2Proof/Machine/Fabric.lean ====
section
/-! DEFINITION. Bridges and hub links as the other blocks use them: which dies a link joins, which path a message takes
(R31, R32), and the traffic classes with their credits and their arbitration (R24 to R26). Links 0 to 5 are B01, B02, B03,
B12, B13, B23; 6 to 9 are H0 to H3. The hub die is node 4. -/

namespace Sys2Proof.Machine

def getLink (s : State) (l : Nat) : Link := tgetD s.links l {}
def setLink (s : State) (l : Nat) (x : Link) : State := { s with links := tset s.links l x }

/-- The compute dies of a link. -/
def linkEnds (l : Nat) : List Nat :=
  match l with
  | 0 => [0, 1] | 1 => [0, 2] | 2 => [0, 3] | 3 => [1, 2] | 4 => [1, 3] | 5 => [2, 3]
  | n => [n - 6]

def dieLinks (d : Nat) : List Nat := (List.range 10).filter fun l => (linkEnds l).contains d

/-- A link carries traffic. -/
def linkUp (s : State) (l : Nat) : Bool := (getLink s l).up && (getLink s l).state ≠ 2

/-- The bridge between two dies. -/
def bridgeOf (a b : Nat) : Nat := ((List.range 6).find? fun l => linkEnds l = [min a b, max a b]).getD 0

/-- HUBLINK_RELAY_DIE (R32): the lowest-numbered die in the accord whose own hub link and whose bridge to the die are up,
while the die's hub link is DOWN. -/
def relayDie (s : State) (d : Nat) : Option Nat :=
  if (getLink s (6 + d)).state ≠ 2 then none
  else [0, 1, 2, 3].find? fun e => e ≠ d && inAccord s e && linkUp s (6 + e) && linkUp s (bridgeOf d e)

/-! ### Paths (R31, R32) -/

/-- A hop: a link and whether it is taken upward, from the lower-numbered node to the higher. -/
abbrev Hop := Nat × Bool

def bridgeHop (a b : Nat) : Hop := (bridgeOf a b, a < b)

/-- The dies that may relay between two dies whose bridge is DOWN (R31): the other two that are in the accord, with both
their bridges up (DEDUCED, log 131). -/
def relays (s : State) (a b : Nat) : List Nat :=
  [0, 1, 2, 3].filter fun e => e ≠ a && e ≠ b && inAccord s e && linkUp s (bridgeOf a e) && linkUp s (bridgeOf e b)

/-- The hops from die `a` to die `b` of what belongs to a page (R31): the bridge, or by an even page the lower-numbered
relay and by an odd page the higher. None where nothing carries it. -/
def diePath (s : State) (a b page : Nat) : Option (List Hop) :=
  if a = b then some []
  else if linkUp s (bridgeOf a b) then some [bridgeHop a b]
  else match relays s a b with
    | [] => none
    | [e] => some [bridgeHop a e, bridgeHop e b]
    | e :: f :: _ => let m := if page % 2 = 0 then e else f
                     some [bridgeHop a m, bridgeHop m b]

/-- The hops from the hub die to a die (R32). -/
def hubPath (s : State) (d : Nat) : Option (List Hop) :=
  if linkUp s (6 + d) then some [(6 + d, false)]
  else (relayDie s d).map fun e => [(6 + e, false), bridgeHop e d]

/-- The hops between two nodes, 4 being the hub. -/
def path (s : State) (a b page : Nat) : Option (List Hop) :=
  if a = 4 ∧ b = 4 then some []
  else if a = 4 then hubPath s b
  else if b = 4 then (hubPath s a).map fun hs => (hs.map fun h => (h.1, !h.2)).reverse
  else diePath s a b page

/-- Die `d` answers for its memory to node `n` (R12): by itself, and over its bridges or its hub link. -/
def reaches (s : State) (n d page : Nat) : Bool := dieAnswers s d && (path s n d page).isSome

/-! ### Classes and credits (R24, R25) -/

/-- The credits of a class in one direction: 16 for CTRL (R26); the sizes of the REQ and DATA pools are not given. -/
def classCredits (c : TrafficClass) : Nat :=
  match c with
  | .ctrl => 16
  | .req => Config.linkPool 0 + 1
  | .data => Config.linkPool 1 + 1

/-- Flits of a payload: 240 bytes each (R22). -/
def flitsOf (bytes : Nat) : Nat := ceilDiv bytes 240

/-- Flits come to wait in a direction of a link. -/
def LinkDir.put (x : LinkDir) (c : TrafficClass) (n : Nat) : LinkDir :=
  match c with
  | .ctrl => { x with ctrlWait := x.ctrlWait + n }
  | .req => { x with reqWait := x.reqWait + n }
  | .data => { x with dataWait := x.dataWait + n }

/-- The window moves on by one flit (R25); `held` says that a CTRL flit was sent while DATA waited. -/
def LinkDir.sent (x : LinkDir) (held : Bool) : LinkDir :=
  if x.window = 63 then { x with window := 0, windowCtrl := false }
  else { x with window := x.window + 1, windowCtrl := x.windowCtrl || held }

/-- One flit boundary (R25): a waiting CTRL flit with a credit goes first, unless CTRL has sent one in this window of 64
while DATA waited; then REQ, then DATA, each with a credit of its own pool (the order of these two: DESIGN CHOICE, log
132). -/
def LinkDir.boundary (x : LinkDir) : LinkDir :=
  if 0 < x.ctrlWait ∧ x.ctrlUsed < classCredits .ctrl ∧ ¬ (x.windowCtrl ∧ 0 < x.dataWait) then
    { x.sent (decide (0 < x.dataWait)) with ctrlWait := x.ctrlWait - 1, ctrlUsed := x.ctrlUsed + 1 }
  else if 0 < x.reqWait ∧ x.reqUsed < classCredits .req then
    { x.sent false with reqWait := x.reqWait - 1, reqUsed := x.reqUsed + 1 }
  else if 0 < x.dataWait ∧ x.dataUsed < classCredits .data then
    { x.sent false with dataWait := x.dataWait - 1, dataUsed := x.dataUsed + 1 }
  else x

/-- A number of flit boundaries. -/
def LinkDir.boundaries : Nat → LinkDir → LinkDir
  | 0, x => x
  | n + 1, x => LinkDir.boundaries n x.boundary

/-- Some flit waits in a direction, or a credit is out. -/
def LinkDir.idle (x : LinkDir) : Bool :=
  x.ctrlWait = 0 && x.reqWait = 0 && x.dataWait = 0 && x.ctrlUsed = 0 && x.reqUsed = 0 && x.dataUsed = 0

/-- Flit boundaries of a direction in 100 ns (R21): 390 of a bridge, 100 of a hub link; one lane fewer while a lane is
retrained (R29). -/
def tickFlits (l : Nat) (retrain : Bool) : Nat := (if l < 6 then 390 else 100) - (if retrain then 1 else 0)

/-- 100 ns of a direction: the far end has returned the credits, and flits go at the boundaries (R25). -/
def LinkDir.tick (n : Nat) (x : LinkDir) : LinkDir :=
  let x := { x with ctrlUsed := 0, reqUsed := 0, dataUsed := 0 }
  LinkDir.boundaries (min n (x.ctrlWait + x.reqWait + x.dataWait)) x

/-- 100 ns of a link that carries traffic. -/
def Link.tick (l : Nat) (x : Link) : Link :=
  if !x.up ∨ x.state = 2 ∨ (x.toHigh.idle ∧ x.toLow.idle) then x
  else { x with toHigh := x.toHigh.tick (tickFlits l x.retrain), toLow := x.toLow.tick (tickFlits l x.retrain) }

/-- Every direction of every link is idle. -/
def linksIdle (s : State) : Bool := s.links.all fun l => l.2.toHigh.idle && l.2.toLow.idle

/-- 100 ns of the links. -/
def linksTick (s : State) : State :=
  if linksIdle s then s else { s with links := tmap Link.tick s.links }

/-- Flits of a class take one hop. -/
def sendHop (c : TrafficClass) (n : Nat) (s : State) (h : Hop) : State :=
  let x := getLink s h.1
  setLink s h.1 (if h.2 then { x with toHigh := x.toHigh.put c n } else { x with toLow := x.toLow.put c n })

/-- Flits of a class go from node to node, on every hop of the path, class by class (R31); nothing goes where there is no
path. -/
def send (s : State) (c : TrafficClass) (a b page n : Nat) : State :=
  match path s a b page with
  | some hs => hs.foldl (sendHop c n) s
  | none => s

/-- One CTRL flit from the hub die to each die (R24: stop commands, accord messages). -/
def sendCtrlAll (s : State) : State := [0, 1, 2, 3].foldl (fun s d => send s .ctrl 4 d 0 1) s

/-! ### Partitions at a die's ingress (R327 to R329) -/

/-- The values of a partition on a die in force: mode, rate, burst in bytes. New ones apply from the next tick (R331). -/
def partVals (s : State) (d p : Nat) : Nat × Nat × Nat := tgetD (getDie s d).parts p (0, 0, 64)
def partMode (s : State) (d p : Nat) : Nat := (partVals s d p).1
def partRate (s : State) (d p : Nat) : Nat := (partVals s d p).2.1
def partBurst (s : State) (d p : Nat) : Nat := (partVals s d p).2.2 * 1024

def tokensOf (s : State) (d p : Nat) : Int := ((tget (getDie s d).buckets p).map (·.tokens)).getD (partBurst s d p)

/-- Admit `len` bytes of a partition: they take their tokens, rounded up to 64, and are counted (R328, R331). A best-effort
bucket may go negative; an LC request drives it as low as −BURST (R329). -/
def admitReq (s : State) (d p : Nat) (lc : Bool) (len : Nat) : State :=
  let b := ceilDiv len 64 * 64
  let s := bumpIf s (dramIx d + 0x40 + p) 4 len
  if partMode s d p = 0 then s else
    let t := tokensOf s d p - b
    let t := if lc then max t (min (tokensOf s d p) (-(partBurst s d p : Int))) else t
    updDie s d fun x => { x with buckets := tset x.buckets p { tokens := t } }

/-! ### The host link (R361) -/

def sendHostIo (s : State) (n : Nat) : State := { s with hub := { s.hub with tx := { s.hub.tx with io := s.hub.tx.io + n } } }
def sendHostMem (s : State) (n : Nat) : State := { s with hub := { s.hub with tx := { s.hub.tx with rest := s.hub.tx.rest + n } } }

/-- One flit to the host (R361): waiting CXL.io has at least 8 of every 64; what else waits shares the remainder. CXL.io goes
first until it has its 8 (DESIGN CHOICE, log 157). -/
def HostTx.flit (x : HostTx) : HostTx :=
  let roll (x : HostTx) : HostTx := if x.window = 63 then { x with window := 0, ioSent := 0 } else { x with window := x.window + 1 }
  if 0 < x.io ∧ (x.ioSent < 8 ∨ x.rest = 0) then roll { x with io := x.io - 1, ioSent := x.ioSent + 1 }
  else if 0 < x.rest then roll { x with rest := x.rest - 1 }
  else x

def HostTx.flits : Nat → HostTx → HostTx
  | 0, x => x
  | n + 1, x => HostTx.flits n x.flit

/-- 100 ns of the host link: 64 flits last 68 ns at x16 (R361), and longer in proportion on fewer lanes. -/
def hostTick (s : State) : State :=
  if !s.hub.linkUp ∨ (s.hub.tx.io = 0 ∧ s.hub.tx.rest = 0) then s
  else { s with hub := { s.hub with
    tx := HostTx.flits (min (94 * s.hub.linkWidth / 16) (s.hub.tx.io + s.hub.tx.rest)) s.hub.tx } }

end Sys2Proof.Machine
end

