-- ==== Sys2Proof/Machine/Operands.lean ====
section
/-! DEFINITION. Operand forms of the tile instructions: descriptors (R103 to R106), operand specifiers (R109),
tile arithmetic (R104), padding (R151), reading and writing tiles in the scratchpad and in job memory. -/

namespace Sys2Proof.Machine

/-- What an instruction works with: the core, its task and job, the index values captured at issue. -/
structure Ctx where
  core : Nat
  task : Task
  jobn : Nat
  job  : Job
  ix   : Vector Word32 16
  kext : Option Nat := none

/-- The operand spaces of R103. -/
inductive Space where
  | scratch | jobmem | kvseq | window
  deriving DecidableEq, Repr

/-! ### Descriptors -/

def tdSpace (d : BitVec 256) : Nat := field d 252 4
def tdFmt (d : BitVec 256) : Nat := field d 248 4
def tdValid (d : BitVec 256) : Bool := bit d 247
def tdPad (d : BitVec 256) : Bool := bit d 246
def tdExtrIx (d : BitVec 256) : Bool := bit d 245
def tdExtcIx (d : BitVec 256) : Bool := bit d 244
def tdIxc (d : BitVec 256) : Nat := field d 240 4
def tdBase (d : BitVec 256) : Nat := field d 192 48
def tdRows (d : BitVec 256) : Nat := field d 172 20
def tdCols (d : BitVec 256) : Nat := field d 156 16
def tdPitch (d : BitVec 256) : Nat := field d 124 32
def tdExtRows (d : BitVec 256) : Nat := field d 92 32
def tdExtCols (d : BitVec 256) : Nat := field d 60 32
def tdPlanePitch (d : BitVec 256) : Nat := field d 12 48

/-- The job-start check of one descriptor with VALID set (R102, R105, R223; the window rules of R194 are
checked by `windowOk`, given as `win`). -/
def tdCheck (win : BitVec 256 → Bool) (d : BitVec 256) : Bool :=
  let sp := tdSpace d
  if sp = 3 then win d
  else
    match fmtOfCode (tdFmt d) with
    | none => false
    | some f =>
      sp < 4
      && (fmtBits f != 4 || tdCols d % 2 == 0)
      && (tdCols d != 0)
      && (sp == 2 || tdPitch d * 8 ≥ tdCols d * fmtBits f)
      && (sp != 0 || tdBase d ≤ 0x2FFFF)
      && (!tdExtrIx d || sp == 2 || tdExtRows d < 16)
      && (!tdExtcIx d || sp == 2 || tdExtCols d < 16)
      && (sp != 2 || (field d (192 + 8) 8 == 0 && field d (192 + 17) 31 == 0 && tdPad d))

/-- A signed index value. -/
def ixVal (ix : Vector Word32 16) (n : Nat) : Int := if n = 0 then 0 else (ix.getD n 0).toInt

/-! ### Tiles -/

/-- A tile as an operand names it (R104). Addresses are in bits, so that 4-bit elements have their own. -/
structure Tile where
  space : Space
  fmt   : Fmt
  rows  : Nat
  cols  : Nat
  base  : Int
  pitch : Nat
  r0    : Int
  c0    : Int
  extR  : Int
  extC  : Int
  pad   : Bool
  desc  : BitVec 256
  deriving DecidableEq, Repr

/-- The operand specifier whose lowest bit is `lo`: descriptor, IXA, IXB (R109). -/
structure Spec where
  td  : Nat
  ixa : Nat
  ixb : Nat
  deriving DecidableEq, Repr

def specAt (b : Body) (lo : Nat) : Spec := ⟨field b (lo + 8) 6, field b (lo + 4) 4, field b lo 4⟩

/-- The space of a code of R103. -/
def spaceOfCode : Nat → Option Space
  | 0 => some .scratch
  | 1 => some .jobmem
  | 2 => some .kvseq
  | 3 => some .window
  | _ => none

/-- The tile of a descriptor and two index registers (R104). -/
def mkTile (ix : Vector Word32 16) (d : BitVec 256) (ixa ixb : Nat) (sp : Space) (f : Fmt) : Tile :=
  { space := sp, fmt := f, rows := tdRows d, cols := tdCols d
    base := (tdBase d : Int) + ixVal ix (tdIxc d) * tdPlanePitch d
    pitch := tdPitch d
    r0 := ixVal ix ixa * tdRows d
    c0 := ixVal ix ixb * tdCols d
    extR := if tdExtrIx d then ixVal ix (tdExtRows d % 16) else tdExtRows d
    extC := if tdExtcIx d then ixVal ix (tdExtCols d % 16) else tdExtCols d
    pad := tdPad d, desc := d }

/-- An operand: VALID (reason DESCRIPTOR), an accepted space (SPACE), ROWS not 0 (SHAPE), a whole number of blocks
along an MX tensor's innermost axis (MX_EXTENT) (R102, R103, R106, R38, R153). The spec gives no order between these
reasons, nor between MX_EXTENT and the FORMAT of an instruction that takes no MX operand (R195); they are taken in the
order written here (DESIGN CHOICE, log 133). -/
def operandAt (x : Ctx) (td ixa ixb : Nat) (spaces : List Space) (zeroRows : Bool) : Res Tile :=
  let d := x.task.td.getD td 0
  if !tdValid d then .error (failIllegal 0x06) else
    match spaceOfCode (tdSpace d), fmtOfCode (tdFmt d) with
    | some sp, some f =>
      if !spaces.contains sp then .error (failIllegal 0x05)
      else if tdRows d = 0 ∧ ¬ zeroRows then .error (failIllegal 0x04)
      else
        let t := mkTile x.ix d ixa ixb sp f
        -- a KVSEQ tile ignores EXT_COLS (R223)
        if isMx f ∧ sp ≠ .kvseq ∧ t.extC % 32 ≠ 0 then .error (failIllegal 0x09) else .ok t
    | some .window, none =>
      if !spaces.contains .window then .error (failIllegal 0x05) else .ok (mkTile x.ix d ixa ixb .window .fp32)
    | _, _ => .error (failIllegal 0x06)

def operand (x : Ctx) (b : Body) (lo : Nat) (spaces : List Space) : Res Tile :=
  let o := specAt b lo
  operandAt x o.td o.ixa o.ixb spaces false

/-- Element (r, c) is real (R104). -/
def isReal (t : Tile) (r c : Nat) : Bool := t.r0 + r < t.extR && t.c0 + c < t.extC

/-- The bit address of element (r, c) (R104). -/
def elemBit (t : Tile) (r c : Nat) : Int :=
  (t.base + (t.r0 + r) * t.pitch) * 8 + (t.c0 + c) * fmtBits t.fmt

/-- A tile with a pad element under PAD = 0 is out of bounds (R104). -/
def padOk (t : Tile) : Bool :=
  t.pad || t.rows == 0 || t.cols == 0 || (t.r0 + t.rows ≤ t.extR && t.c0 + t.cols ≤ t.extC)

def requirePad (t : Tile) : Res Unit := if padOk t then .ok () else .error failBounds

/-- LC_RESERVE_KIB as the job took it on a core (R78): another core of the job may lie on another die, with its own slice
(R77). -/
def reserveOn (x : Ctx) (s : State) (core : Nat) : Nat :=
  if core = x.core then x.task.reserve else ((getTask s core x.task.lc).map (·.reserve)).getD x.task.reserve

/-- A byte of the scratchpad of a core of the job as the class sees it (R77). -/
def scratchAddr (x : Ctx) (s : State) (core : Nat) (a : Int) : Res Nat :=
  if a < 0 then .error failBounds else
    match scratchMap x.task.lc (reserveOn x s core) x.job.footKib a.toNat with
    | some p => .ok (scratchBase core + p)
    | none => .error failBounds

/-- Read a scratchpad byte; FAIL_MEM_UE for an uncorrectable word (R74). -/
def scratchRead (x : Ctx) (s : State) (core : Nat) (a : Int) : Res Byte := do
  let p ← scratchAddr x s core a
  if s.scratchUE.contains (p / 8) then throw failMemUe
  return memRead s.scratch p

/-- The bytes of an element lie within its space's bounds (R106). -/
def boundsAt (x : Ctx) (s : State) (core : Nat) (sp : Space) (write : Bool) (a : Int × Nat) : Res Unit :=
  let one (b : Int) : Res Unit :=
    match sp with
    | .scratch => (scratchAddr x s core b).map fun _ => ()
    | _ => (translate s x.job.asid b write).map fun _ => ()
  do one (a.1 / 8); one ((a.1 + a.2 - 1) / 8)

/-- Read a byte of an operand in SCRATCH or JOBMEM. -/
def spaceRead (x : Ctx) (s : State) (core : Nat) (sp : Space) (a : Int) : Res Byte :=
  match sp with
  | .scratch => scratchRead x s core a
  | _ => jobRead s x.job.asid a

/-- The stored code of a bit-addressed element of `w` bits. -/
def codeAt (x : Ctx) (s : State) (core : Nat) (sp : Space) (w : Nat) (a : Int) : Res Nat := do
  if w = 4 then
    let b ← spaceRead x s core sp (a / 8)
    return b.toNat / 2 ^ (a % 8).toNat % 16
  else
    let bs ← (List.range (w / 8)).mapM fun i => spaceRead x s core sp (a / 8 + i)
    return leNat bs

/-- The stored code of element (r, c) of a tile in the scratchpad of `core`: a pad element reads as zero under
PAD = 1 (R104). -/
def elemCodeOn (x : Ctx) (s : State) (core : Nat) (t : Tile) (r c : Nat) : Res Nat :=
  if isReal t r c then codeAt x s core t.space (fmtBits t.fmt) (elemBit t r c)
  else if t.pad then .ok 0 else .error failBounds

def elemCode (x : Ctx) (s : State) (t : Tile) (r c : Nat) : Res Nat := elemCodeOn x s x.core t r c

/-- The exact value of element (r, c); a pad element is +0. -/
def elemNum (x : Ctx) (s : State) (t : Tile) (r c : Nat) : Res Num := do
  if isReal t r c then return decodeNum t.fmt (← elemCode x s t r c)
  else
    let _ ← elemCode x s t r c
    return numZero

/-- All codes of a tile, row by row. -/
def tileCodes (x : Ctx) (s : State) (t : Tile) : Res (List (List Nat)) :=
  (List.range t.rows).mapM fun r => (List.range t.cols).mapM fun c => elemCode x s t r c

/-- All values of a tile, row by row. -/
def tileNums (x : Ctx) (s : State) (t : Tile) : Res (List (List Num)) :=
  (List.range t.rows).mapM fun r => (List.range t.cols).mapM fun c => elemNum x s t r c

def at2 {α : Type} (d : α) (m : List (List α)) (r c : Nat) : α := (m.getD r []).getD c d

/-! ### Writing -/

/-- One element to be written: space, bit address, bits, code. -/
structure Store where
  sp   : Space
  a    : Int
  w    : Nat
  code : Nat
  deriving DecidableEq, Repr

/-- The store of element (r, c). The last element of an odd row of 4-bit elements fills its byte: the pad nibble is
written as zero (R36). -/
def elemStore (t : Tile) (r c code : Nat) : Store :=
  let last := fmtBits t.fmt = 4 && t.extC % 2 = 1 && t.c0 + c + 1 = t.extC
  { sp := t.space, a := elemBit t r c, w := if last then 8 else fmtBits t.fmt
    code := if last then code % 16 else code }

/-- The bit addresses of a tile's real elements. -/
def tileAddrs (t : Tile) : List (Int × Nat) :=
  (List.range t.rows).flatMap fun r => (List.range t.cols).filterMap fun c =>
    if isReal t r c then some (elemBit t r c, fmtBits t.fmt) else none

/-- A tile is within its bounds, whichever of its elements the instruction goes on to use (R104, R106). -/
def requireTile (x : Ctx) (s : State) (write : Bool) (t : Tile) : Res Unit := do
  requirePad t
  (tileAddrs t).forM (boundsAt x s x.core t.space write)

/-- The stores of a tile's real elements (R104, R151: pad elements are not written). -/
def tileStores (t : Tile) (v : Nat → Nat → Nat) : Res (List Store) := do
  requirePad t
  return (List.range t.rows).flatMap fun r => (List.range t.cols).filterMap fun c =>
    if isReal t r c then some (elemStore t r c (v r c)) else none

/-- The bytes a store changes, with the mask of the bits it writes. -/
def storeBytes (st : Store) : List (Int × Nat × Nat) :=
  if st.w = 4 then
    let sh := (st.a % 8).toNat
    [(st.a / 8, 15 * 2 ^ sh, st.code % 16 * 2 ^ sh)]
  else (leBytes (st.w / 8) st.code).zipIdx.map fun (b, i) => (st.a / 8 + i, 255, b.toNat)

/-- Write masked bytes into the scratchpad of `core` (R74): a word that stays partly uncorrectable fails. Whether a write
covers a word is judged over all the stores of one instruction together (DESIGN CHOICE, log 134: R74 does not say whether
it is judged for each port write). -/
def scratchStores (x : Ctx) (s : State) (core : Nat) (sts : List Store) : Res State := do
  let bs := sts.flatMap storeBytes
  let ps ← bs.mapM fun (a, m, v) => do return (← scratchAddr x s core a, m, v)
  let hit := s.scratchUE.filter fun w => ps.any fun p => p.1 / 8 = w
  let covered := hit.filter fun w => (List.range 8).all fun i =>
    (ps.foldl (fun m p => if p.1 = w * 8 + i then m ||| p.2.1 else m) 0) = 255
  if hit.length ≠ covered.length then throw failMemUe
  let m := ps.foldl (fun m p =>
    if p.2.1 = 255 then memWrite m p.1 (BitVec.ofNat 8 p.2.2)
    else memWrite m p.1 (BitVec.ofNat 8 ((memRead m p.1).toNat &&& (255 - p.2.1) ||| p.2.2))) s.scratch
  return { s with scratch := m, scratchUE := s.scratchUE.filter fun w => !(covered.contains w) }

/-- Write masked bytes into job memory. -/
def jobStores (s : State) (asid : Nat) (sts : List Store) : Res State := do
  let bs := sts.flatMap storeBytes
  -- a nibble is merged with what the byte holds and what an earlier nibble of the same list put there
  let ps ← bs.mapM fun (a, m, v) => do return (← translate s asid a true, m, v)
  let full ← ps.foldlM (init := ([] : List (PAddr × Byte))) fun acc (p, m, v) => do
    if m = 255 then return (p, BitVec.ofNat 8 v) :: acc
    else
      let old := match acc.find? (fun q => q.1 = p) with
        | some q => q.2.toNat
        | none => (physRead s p).toNat
      return (p, BitVec.ofNat 8 (old &&& (255 - m) ||| v)) :: acc
  physWrites s full.reverse

/-- Write a list of stores, all in one space. -/
def doStores (x : Ctx) (s : State) (sts : List Store) : Res State :=
  match sts with
  | [] => .ok s
  | st :: _ => if st.sp = .scratch then scratchStores x s x.core sts else jobStores s x.job.asid sts

/-! ### What is touched, and segments -/

/-- Insert without repeats. -/
def addNew {α : Type} [BEq α] (l : List α) (a : α) : List α := if l.contains a then l else a :: l

/-- Put a range of bytes to a list, joining it to the last where they meet. -/
def addTouch (l : List Touch) (q : Touch) : List Touch :=
  match l with
  | p :: rest => if p.scratch = q.scratch ∧ p.lo ≤ q.lo ∧ q.lo ≤ p.hi then { p with hi := max p.hi q.hi } :: rest else q :: l
  | [] => [q]

/-- The bytes of a list of bit addresses (R167, R298): scratchpad bytes where they lie in the core's scratchpad. -/
def touchesOf (sp : Space) (lc : Bool) (reserve foot : Nat) (as : List (Int × Nat)) : List Touch :=
  as.foldl (fun l (a, w) =>
    let lo := (a / 8).toNat
    let n := ((a + w + 7) / 8).toNat - lo
    match sp with
    | .scratch =>
      (match scratchMap lc reserve foot lo with
       | some p => addTouch l ⟨true, p, p + n⟩
       | none => l)
    | _ => addTouch l ⟨false, lo, lo + n⟩) []

def tileTouches (x : Ctx) (t : Tile) : List Touch :=
  match t.space with
  | .scratch | .jobmem => touchesOf t.space x.task.lc x.task.reserve x.job.footKib (tileAddrs t)
  | _ => []

/-- The slot class of a segment by the place of its page (R170); none in the NAND tier. -/
def classOf (s : State) (x : Ctx) (write : Bool) (vpn : Nat) : SlotClass × Bool :=
  match findPte s x.job.asid (vpn * 65536) with
  | some p =>
    if p.tier = 5 then (if write then .write else .read, true)
    else if p.tier = 4 ∨ p.die ≠ coreDie x.core then (.remote, false)
    else (if write then .write else .read, false)
  | none => (if write then .write else .read, false)

/-- A page is under a move: new accesses to it are held (R344). -/
def pageMoving (s : State) (asid vpn : Nat) : Bool := ((findPte s asid (vpn * 65536)).map (·.moving)).getD false

/-- Segments of a set of bytes of job memory, counted page by page, 2 KiB at most each (R169). -/
def segsOf (s : State) (x : Ctx) (write : Bool) (as : List (Int × Nat)) : List Seg :=
  let per : Tab Nat := as.foldl (fun t (a, w) =>
    let v := (a / 8).toNat / 65536
    tset t v (tgetD t v 0 + w)) []
  per.map fun (v, bits) =>
    let (cls, wait) := classOf s x write v
    { asid := x.job.asid, vpn := some v, cls := cls, waiting := wait, held := !wait && pageMoving s x.job.asid v, born := if wait then s.nowNs else 0,
      left := ceilDiv (ceilDiv bits 8) 2048 }

/-- Segments of a scratchpad-to-scratchpad move (R170). -/
def segsScratch (bits : Nat) : List Seg :=
  if bits = 0 then [] else [{ cls := .read, left := ceilDiv (ceilDiv bits 8) 2048 }]

/-! ### Fields common to every tile instruction -/

def doneSem (b : Body) : Nat := field b 116 4
def wiBit (b : Body) : Bool := bit b 115

/-- Bits that must be zero: the common reserved bits and the given low range (R107, R108). -/
def reservedZero (b : Body) (lowBits : Nat) : Bool := field b 112 3 = 0 && field b 0 lowBits = 0

/-- A check with a reason of R148. -/
def need (ok : Bool) (reason : Nat) : Res Unit := if ok then .ok () else .error (failIllegal reason)

/-- What one instruction's effect leaves: the state, what it read and wrote, its segments. -/
structure Eff where
  st     : State
  reads  : List Touch := []
  writes : List Touch := []
  segs   : List Seg := []
  sid    : Option Nat := none
  mcast  : Option McastPart := none
  group  : Option Nat := none
  hold   : Hold := .none
  outs   : List OutStore := []
  lateIx : Option (Nat × Int) := none
  drop   : Option Nat := none

end Sys2Proof.Machine
end

