-- ==== Sys2Proof/Machine/Flags.lean ====
section
/-! DEFINITION. The special-value flags of conversion: the two counters of R53 and R55 and their first-event
records; stochastic rounding's free bits; the function unit with its checker and fence (R84 to R88). -/

namespace Sys2Proof.Machine

/-! ### Conversion with counting -/

/-- The generator of a core after `n` draws (R52). -/
def rngAfter : Nat → Word32 → Word32
  | 0, g => g
  | n + 1, g => rngAfter n (Config.rngNext g)

/-- The 16 random bits of a core for element `i` of a conversion under SR (R52). -/
def rndBits (s : State) (core : Nat) (md : Rnd) (i : Nat) : Nat :=
  match md with
  | .sr => (Config.rngBits (rngAfter i (getCore s core).rng)).toNat
  | _ => 0

/-- A conversion of `n` elements under SR takes `n` draws of its core's generator. -/
def drawn (s : State) (core : Nat) (md : Rnd) (n : Nat) : State :=
  if md = .sr then updCore s core fun k => { k with rng := rngAfter n k.rng } else s

/-- Convert a list of values on a core; under SR each element takes fresh random bits. -/
def convAll (s : State) (core : Nat) (f : Fmt) (md : Rnd) (sat : Bool) (xs : List Num) : List Conv × State :=
  (xs.zipIdx.map fun (v, i) => convertNum f md sat (rndBits s core md i) v, drawn s core md xs.length)

/-- Count special-value events of an instruction on a core, with the first-event records of R55. -/
def countSpecial (x : Ctx) (pc : Nat) (s : State) (nsat nnon : Nat) : State :=
  let d := coreDie x.core
  let det := packItems [(16, x.core), (24, pc)]
  let s := if nsat = 0 then s else
    firstEvent (bump s 0xE040 (d + 1) nsat) x.jobn .saturated d 0x0005 d det
  if nnon = 0 then s else firstEvent (bump s 0xE041 (d + 1) nnon) x.jobn .nonfinite d 0x0006 d det

/-- Count what a list of conversions raised. -/
def countConv (x : Ctx) (pc : Nat) (s : State) (cs : List Conv) : State :=
  countSpecial x pc s (cs.countP (·.sat)) (cs.countP (·.nonfinite))

/-! ### The function unit -/

/-- `a × k > n` for a decimal bound n / k. -/
def gtDec (a : Num) (n : Int) (k : Nat) : Bool := numLt (numOfInt n) (numMul a (numOfInt k))
def ltDec (a : Num) (n : Int) (k : Nat) : Bool := numLt (numMul a (numOfInt k)) (numOfInt n)

/-- −0. -/
def numNegZero : Num := .fin true 0 0

/-- The exact special cases of R84 (and of R227 for exp of a zero), by FUNC; none where only a bound holds. -/
def fnSpecial (f : Nat) (x : Num) : Option Num :=
  match x with
  | .nan => some .nan
  | .inf n =>
    match f with
    | 1 => some (if n then numZero else .inf false)
    | 2 => some (if n then .nan else .inf false)
    | 3 => some (if n then numZero else numOne)
    | 4 => some (if n then numNeg numOne else numOne)
    | 5 | 6 => some (if n then numNegZero else .inf false)
    | 7 => some (.fin n 0 0)
    | _ => some (if n then .nan else numZero)
  | .fin n m _ =>
    match f with
    | 1 => if m = 0 then some numOne else if gtDec x 887228 10000 then some (.inf false)
        -- +0 below the smallest subnormal, 2⁻¹⁴⁹; exp(−104) is below it
        else if ltDec x (-104) 1 then some numZero
        else if n && numLt (exactExp x) (.fin false 1 (-149)) then some numZero else none
    | 2 => if m = 0 then some (.inf true) else if n then some .nan else none
    | 7 => if m = 0 then some (.inf n) else none
    | 8 => if m = 0 then some (.inf n) else if n then some .nan else none
    | _ => none

/-- The function unit's result: the special cases of R84, free within its bound elsewhere. log(1) is exactly 0, which R234
asks of a row of one key (DEDUCED, log 135). -/
def functionUnit (f : Nat) (x : Num) : Num :=
  match fnSpecial f x with
  | some y => y
  | none =>
    if f = 2 ∧ numEq x numOne then numZero else
      let y := exactFn f x
      let c := decodeNum .fp32 (Config.functionUnit f (BitVec.ofNat 32 (fp32Bits x))).toNat
      boundedFree y c (!numLt (fnBound f x y) (numAbs (numAdd c (numNeg y))))

/-- The line of a segment at `t` (R85). -/
def lineAtSeg (f seg : Nat) (t : Num) : Num :=
  let l := Config.pwlLine f (seg % 16)
  numAdd (decodeNum .fp32 (l.1 % 2 ^ 32)) (numMul (decodeNum .fp32 (l.2 % 2 ^ 32)) t)

/-- A value times 2^k. -/
def scaleBy (v : Num) (k : Int) : Num :=
  match v with
  | .fin n m e => .fin n m (e + k)
  | v => v

/-- The segment of `x` in 16 segments from `lo`, `per` of them to a unit. -/
def pwlSeg (x : Num) (lo : Int) (per : Int) : Nat := min 15 ((fixOf x - lo * fixOne) * per / fixOne).toNat

/-- The value of the line fitted to the segment of `x` (R85): exp by the fraction of x log₂e, log, reciprocal and rsqrt by
the mantissa, rsqrt with eight segments for each parity of the exponent (DESIGN CHOICE, log 136), the others by the range
they cover. -/
def pwlLineValue (f : Nat) (x : Num) : Num :=
  match f, x with
  | 1, _ =>
    let k := fixOf x / fixLn2
    let fr := (fixOf x - k * fixLn2) * fixOne / fixLn2
    scaleBy (lineAtSeg 1 (16 * fr / fixOne).toNat (ofFix fr)) k
  | 2, .fin _ m e =>
    let q := floorLog2 m e
    numMul (numAdd (numOfInt q) (lineAtSeg 2 (16 * m / 2 ^ Nat.log2 m - 16) (.fin false m (e - q)))) (ofFix fixLn2)
  | 7, .fin n m e =>
    let q := floorLog2 m e
    let v := scaleBy (lineAtSeg 7 (16 * m / 2 ^ Nat.log2 m - 16) (.fin false m (e - q))) (-q)
    if n then numNeg v else v
  | 8, .fin _ m e =>
    let q := floorLog2 m e
    let odd := (q % 2).toNat
    scaleBy (lineAtSeg 8 (8 * odd + (8 * m / 2 ^ Nat.log2 m - 8)) (.fin false m (e - q + odd))) (-((q - odd) / 2))
  | 3, _ | 6, _ => lineAtSeg f (pwlSeg x (-8) 1) x
  | _, _ => lineAtSeg f (pwlSeg x (-4) 2) x

/-- The piecewise-linear unit's result (R85): the special cases of R84, the values outside the covered range, elsewhere
the line of the segment, rounded to nearest, within the function's bound. The lines' coefficients are free. -/
def pwlUnit (f : Nat) (x : Num) : Num :=
  match fnSpecial f x with
  | some y => y
  | none =>
    let y := exactFn f x
    let c := toFp32 .rne (pwlLineValue f x)
    let line := boundedFree y c (pwlClose f y c)
    match f with
    | 3 => if ltDec x (-8) 1 then numZero else if gtDec x 8 1 then numOne else line
    | 4 => if ltDec x (-4) 1 then numNeg numOne else if gtDec x 4 1 then numOne else line
    | 5 => if ltDec x (-4) 1 then numNegZero else if gtDec x 4 1 then x else line
    | 6 => if ltDec x (-8) 1 then numNegZero else if gtDec x 8 1 then x else line
    | _ => line

/-- The checker of R87: the two results differ by more than the threshold. -/
def checkerTrips (f : Nat) (fu pl : Num) : Bool :=
  match fu, pl with
  | .nan, .nan => false
  | .inf a, .inf b => a != b
  | .fin .., .fin .. =>
    let diff := numAbs (numAdd fu (numNeg pl))
    let (n, d, rel) := pwlBound f
    let lim := if rel then numMul (numOfInt (4 * n)) (numAbs pl) else numOfInt (4 * n)
    numLt lim (numMul diff (numOfInt d)) && numLt (numMul (numOfInt 4) (ulp32 fu)) diff
  | _, _ => true

/-- A function over a list of values in element order (R86, R87). `fault` is the index of the element whose
function-unit table word fails its parity. The answer says whether a fault was detected. -/
def applyFn (f : Nat) (pwl fenced : Bool) (fault : Option Nat) (xs : List Num) : List Num × Bool :=
  if f = 0 then (xs, false)
  else if pwl || fenced then (xs.map (pwlUnit f), false)
  else
    let r := xs.zipIdx.foldl (fun (acc : List Num × Bool) (v, i) =>
      let pl := pwlUnit f v
      if acc.2 then (pl :: acc.1, true)
      else
        let fu := functionUnit f v
        if fault = some i || checkerTrips f fu pl then (pl :: acc.1, true) else (fu :: acc.1, false))
      ([], false)
    (r.1.reverse, r.2)

/-- A detected fault fences the core's function unit and writes one record (R87). -/
def fenceCore (x : Ctx) (pc : Nat) (s : State) : State :=
  sillage (updCore s x.core fun k => { k with fenced := true }) 0x0007 (coreDie x.core) (jobField x.job)
    (packItems [(16, x.core), (24, pc)])

/-- The result of `applyFn` on a core, with its fence. -/
def coreFn (x : Ctx) (pc : Nat) (s : State) (f : Nat) (pwl : Bool) (fault : Option Nat) (xs : List Num) :
    List Num × State :=
  let r := applyFn f pwl (getCore s x.core).fenced fault xs
  (r.1, if r.2 then fenceCore x pc s else s)

end Sys2Proof.Machine
end

