-- ==== Sys2Proof/Machine/KvBase.lean ====
section
/-! DEFINITION. Key-value pages: handles (R246), the page pool (R268), page tables (R248), a page's payload and
scales (R215 to R217), and the KVSEQ operand (R223). -/

namespace Sys2Proof.Machine

/-! ### Handles and futures -/

/-- The group number in a handle: die and slot (R246, R243). -/
def handleGroup (h : Nat) : Nat := h / 2 ^ 21 % 1024
def handleIndex (h : Nat) : Nat := h / 2 ^ 9 % 4096
def handleGen (h : Nat) : Nat := h % 512

/-- The handle of a future (R246). -/
def mkHandle (g idx gen : Nat) : Nat := g * 2 ^ 21 + idx * 2 ^ 9 + gen

def fLive (f : Future) : Bool := f.state ≠ .free

/-- The live future that a handle names in its group (R246, R247). -/
def liveFuture (s : State) (h : Int) : Option (Nat × Group × Nat × Future) :=
  if h < 0 ∨ 2 ^ 31 ≤ h then none else
    let n := h.toNat
    match tget s.groups (handleGroup n) with
    | none => none
    | some g =>
      match tget g.futures (handleIndex n) with
      | none => none
      | some f => if fLive f ∧ f.gen = handleGen n then some (handleGroup n, g, handleIndex n, f) else none

/-- As `liveFuture`, for a future of the job's own group (R106, R144). -/
def jobFuture (s : State) (j : Job) (h : Int) : Res (Nat × Group × Nat × Future) :=
  match liveFuture s h with
  | some r => if j.group = some r.1 then .ok r else .error failBounds
  | none => .error failBounds

def setGroup (s : State) (n : Nat) (g : Group) : State := { s with groups := tset s.groups n g }
def updGroup (s : State) (n : Nat) (f : Group → Group) : State :=
  match tget s.groups n with
  | some g => setGroup s n (f g)
  | none => s
def setFuture (s : State) (n i : Nat) (f : Future) : State :=
  updGroup s n fun g => { g with futures := tset g.futures i f }
def updFuture (s : State) (n i : Nat) (u : Future → Future) : State :=
  updGroup s n fun g =>
    match tget g.futures i with
    | some f => { g with futures := tset g.futures i (u f) }
    | none => g

/-! ### The page pool -/

/-- The key of a pool slot: die and slot id in units of 256 bytes. -/
def kvKey (die id : Nat) : Nat := die * 2 ^ 32 + id
def kvDie (key : Nat) : Nat := key / 2 ^ 32
def kvId (key : Nat) : Nat := key % 2 ^ 32

def getPool (s : State) (d : Nat) : KvPool := tgetD s.pools d {}
def setPool (s : State) (d : Nat) (p : KvPool) : State := { s with pools := tset s.pools d p }

/-- Slots of a size in one pool page of 64 KiB. -/
def perPage (size : Nat) : Nat := 65536 / size

/-- Free slots in the pages already cut to a size. -/
def cutFree (p : KvPool) (size : Nat) : Nat :=
  (p.cut.map fun c => if c.2.1 = size then perPage size - c.2.2.length else 0).sum

/-- Untyped pages that the reserves of a size still need. -/
def reserveNeeds (p : KvPool) (size : Nat) : Nat :=
  ceilDiv (tgetD p.reserved size 0 - cutFree p size) (perPage size)

/-- Untyped pool pages not spoken for by a reserve (R268, R262). -/
def untypedFree (p : KvPool) : Nat :=
  p.gib * 16384 - p.cut.length - (p.reserved.map fun r => reserveNeeds p r.1).sum

/-- Free slots available to a size, outside the reserves (R268). -/
def poolAvail (p : KvPool) (size : Nat) : Nat :=
  cutFree p size + reserveNeeds p size * perPage size - tgetD p.reserved size 0 + untypedFree p * perPage size

/-- Every free byte of the pool in KiB (KV_POOL_FREE_KIB, R268); the slots of reserves have left it (R262). -/
def poolFreeKib (p : KvPool) : Nat :=
  (p.gib * 16384 - p.cut.length) * 64
    + ((p.cut.map fun c => (perPage c.2.1 - c.2.2.length) * c.2.1).sum) / 1024
    - ((p.reserved.map fun r => r.2 * r.1).sum) / 1024

/-- Take one slot: in a page cut to the size, else in the lowest untyped page, which is cut (R268). The lowest free
place is taken (DESIGN CHOICE, log 100: no rule orders them). -/
def takeSlot (p : KvPool) (size : Nat) : Option (Nat × KvPool) :=
  match p.cut.find? (fun c => c.2.1 = size && c.2.2.length < perPage size) with
  | some (pg, _, used) =>
    let i := ((List.range (perPage size)).find? fun i => !used.contains i).getD 0
    some (pg * 256 + i * (size / 256), { p with cut := tset p.cut pg (size, i :: used) })
  | none =>
    let pg := tfresh p.cut
    if pg < p.gib * 16384 then some (pg * 256, { p with cut := tset p.cut pg (size, [0]) }) else none

/-- Give a slot back; a page with no used slot becomes untyped (R268). -/
def giveSlot (p : KvPool) (id : Nat) : KvPool :=
  let pg := id / 256
  match tget p.cut pg with
  | none => p
  | some (size, used) =>
    let used := used.erase (id % 256 / (size / 256))
    { p with cut := if used.isEmpty then tdel p.cut pg else tset p.cut pg (size, used) }

/-- Allocate a slot of a size on a die; from a reserve when `res`. -/
def allocSlot (s : State) (d size : Nat) (res : Bool) : Option (Nat × State) :=
  let p := getPool s d
  if !res ∧ poolAvail p size = 0 then none else
    match takeSlot p size with
    | none => none
    | some (id, p) =>
      let p := if res then { p with reserved := tset p.reserved size (tgetD p.reserved size 0 - 1) } else p
      some (kvKey d id, setPool s d p)

/-- A slot returns to its pool; what has left the dies (keys from 4 × 2³² upward) holds none. -/
def freeSlotAt (s : State) (key : Nat) : State :=
  if 4 ≤ kvDie key then s else setPool s (kvDie key) (giveSlot (getPool s (kvDie key)) (kvId key))

/-! ### Layout -/

/-- Element size of a page format in bits: INT8 or INT4 (R214). -/
def pageBits (L : Layout) : Nat := if L.fmt = 7 then 4 else 8
/-- Head dimension D. -/
def headDim (L : Layout) : Nat := L.dim32 * 32
/-- Payload bytes of a page (R215). -/
def payloadBytes (L : Layout) : Nat := 32 * L.heads * headDim L * pageBits L / 8
/-- Slot size of a page: the next power of two, at least 1 KiB (R215). -/
def pageSlot (L : Layout) : Nat :=
  ((List.range 7).map (fun i => 1024 * 2 ^ i)).find? (fun z => payloadBytes L ≤ z) |>.getD 65536
/-- Groups of 32 channels in one plane (R217). -/
def scaleGroups (L : Layout) : Nat := L.heads * headDim L / 32
/-- Offset of an element in a page's payload (R215). -/
def elemOffset (L : Layout) (kv h t c : Nat) : Nat := ((kv * L.heads + h) * 16 + t) * headDim L + c

/-! ### Page tables -/

def getPage (s : State) (key : Nat) : Option KvPage := tget s.kvPages key
def updPage (s : State) (key : Nat) (f : KvPage → KvPage) : State :=
  match tget s.kvPages key with
  | some p => { s with kvPages := tset s.kvPages key (f p) }
  | none => s
def updChunk (s : State) (key : Nat) (f : Chunk → Chunk) : State :=
  match tget s.chunks key with
  | some p => { s with chunks := tset s.chunks key (f p) }
  | none => s

/-- A key outside the dies' pools, for what has left them. -/
def awayKey (s : State) : Nat := kvKey 4 0 + s.seq

/-- A page takes another key: the table chunks, the prefix trees and its mirror or primary follow. -/
def rekeyPage (s : State) (old new : Nat) (p : KvPage) : State :=
  let s := { s with kvPages := tset (tdel s.kvPages old) new p }
  let s := { s with chunks := tmap (fun _ c => { c with pages := c.pages.map fun e => if e.2 = old then (e.1, new) else e }) s.chunks
                    trees := tmap (fun _ t => t.map fun n => { n with pages := n.pages.map fun k => if k = old then new else k }) s.trees }
  let s := match p.mirror with
    | some m => updPage s m fun q => { q with mirrorOf := some new }
    | none => s
  match p.mirrorOf with
  | some q => updPage s q fun q => { q with mirror := some new }
  | none => s

/-- A table chunk takes another key: every directory that points to it follows. -/
def rekeyChunk (s : State) (old new : Nat) (c : Chunk) : State :=
  { s with
    chunks := tset (tdel s.chunks old) new c
    groups := tmap (fun _ g => { g with futures := tmap (fun _ f =>
      { f with dirs := f.dirs.map fun d => d.map fun e => if e.2 = old then (e.1, new) else e }) g.futures }) s.groups }

/-- The chunk of a block in a layer's directory (R248). -/
def chunkOf (f : Future) (layer block : Nat) : Option Nat := tget (f.dirs.getD layer []) (block / 64)

/-- The page of a block of a future (R248). -/
def pageOf (s : State) (f : Future) (layer block : Nat) : Option Nat :=
  (chunkOf f layer block).bind fun k => (tget s.chunks k).bind fun c => tget c.pages (block % 64)

/-! ### Reading a KVSEQ operand -/

/-- A KVSEQ operand resolved (R223): the future and what of it the tile names. -/
structure KvSeq where
  group  : Group
  future : Future
  layer  : Nat
  kv     : Nat
  head   : Nat
  r0     : Nat
  rows   : Nat
  extent : Nat

/-- The checks at issue of a KVSEQ operand (R223). -/
def kvSeq (x : Ctx) (s : State) (td ixa ixb : Nat) : Res KvSeq := do
  let d := x.task.td.getD td 0
  let (_, g, _, f) ← jobFuture s x.job (ixVal x.ix (tdIxc d))
  need (tdFmt d = g.layout.fmt) 0x03
  need (tdCols d = headDim g.layout) 0x04
  let layer := field d 192 8
  let head := ixVal x.ix ixb
  let r0 := ixVal x.ix ixa * tdRows d
  if g.layout.nlayers ≤ layer ∨ head < 0 ∨ (g.layout.heads : Int) ≤ head ∨ r0 < 0 then throw failBounds
  return { group := g, future := f, layer := layer, kv := field d (192 + 16) 1, head := head.toNat
           r0 := r0.toNat, rows := tdRows d, extent := x.kext.getD (f.lens.getD layer 0) }

/-- Element (r, c) of a KVSEQ tile decoded into format `q` (R42, R46); none for a pad row (R223). A product that saturates in
the query's format counts in no counter: R46 is no conversion under RND and SAT of R53 (DESIGN CHOICE, log 146). -/
def kvElem (s : State) (k : KvSeq) (q : Fmt) (r c : Nat) : Option Num :=
  let pos := k.r0 + r
  if k.extent ≤ pos then none else
    match (pageOf s k.future k.layer (pos / 16)).bind (getPage s) with
    | none => none
    | some p =>
      if p.ntok ≤ pos % 16 then none else
        let L := k.group.layout
        let code := tgetD p.codes (elemOffset L k.kv k.head (pos % 16) c) 0
        let sc := tgetD p.scales (k.kv * scaleGroups L + (k.head * headDim L + c) / 32) 0
        let v := numMul (numOfInt (toSigned (pageBits L) code)) (decodeNum .fp16 sc)
        some (decodeNum q (convertNum q .rne true 0 v).code)

/-- The committed length that the KVSEQ operand of ATTS or ATTV takes at issue (R223). -/
def issueExtent (x : Ctx) (s : State) (op : BitVec 8) (b : Body) : Option Nat :=
  let d := x.task.td.getD (specAt b 84).td 0
  if (op = 0x40 || op = 0x41) && tdSpace d = 2 then
    match jobFuture s x.job (ixVal x.ix (tdIxc d)) with
    | .ok (_, _, _, f) => some (f.lens.getD (field d 192 8) 0)
    | .error _ => none
  else none

/-- The pages that a KVSEQ tile's rows lie in, each with how many of its rows are read (R223). -/
def kvReach (s : State) (k : KvSeq) : List (Nat × KvPage × Nat) :=
  (List.range (ceilDiv (k.r0 % 16 + k.rows) 16)).filterMap fun i =>
    let b := k.r0 / 16 + i
    match pageOf s k.future k.layer b with
    | none => none
    | some key =>
      match getPage s key with
      | none => none
      | some p =>
        let lo := max (16 * b) k.r0
        let hi := min (16 * b + p.ntok) (min k.extent (k.r0 + k.rows))
        if hi ≤ lo then none else some (key, p, hi - lo)

/-- The segments of a KVSEQ read, page by page, codes and scales (R224, R170). -/
def kvSegs (s : State) (x : Ctx) (k : KvSeq) : List Seg :=
  (kvReach s k).map fun (key, p, n) =>
    let bytes := n * headDim k.group.layout * pageBits k.group.layout / 8 + headDim k.group.layout / 16
    { kv := some key, waiting := p.tier = 5, born := if p.tier = 5 then s.nowNs else 0, left := ceilDiv bytes 2048
      cls := if p.tier = 5 ∨ (p.tier ≠ 4 ∧ p.place = coreDie x.core) then .read else .remote }

/-- Pages read get their LAST_USE (R216). -/
def kvTouch (s : State) (k : KvSeq) : State :=
  (kvReach s k).foldl (fun s p => updPage s p.1 fun q => { q with lastUse := uptimeUs s }) s

end Sys2Proof.Machine
end

