-- ==== Sys2Proof/Machine/Engine.lean ====
section
/-! DEFINITION. The sequencer and the two engines of a core: issue (R91 to R93), queues (R165), the start of an
instruction with its hazards (R94, R167, R179, R189, R298), retirement (R95), waits and barriers (R136, R137). -/

namespace Sys2Proof.Machine

/-! ### Which task issues -/

/-- The core takes instructions: it is not ramping (R73), not held in reset and not asked to go idle (R485). -/
def coreOpen (k : Core) : Bool := !k.ramp && !k.idleReq

/-- The class of the task that the sequencer runs: the LC task once it has taken the core (R79, R81). -/
def issuingLc (k : Core) : Bool := k.lcHas

/-- A task may issue: started, not ended, not waiting. -/
def taskIssues (t : Task) : Bool := t.started && !t.ended && t.blocked.isNone && !t.waiting

/-- The context in which a core issues its next instruction, if it can. -/
def issueCtx (s : State) (c : Nat) : Option Ctx :=
  let k := getCore s c
  if !coreOpen k then none else
    match (if issuingLc k then k.lc else k.be) with
    | none => none
    | some t =>
      if !taskIssues t then none else
        match tget s.jobs t.job with
        | some j => if j.failed.isSome then none else some { core := c, task := t, jobn := t.job, job := j, ix := t.ix }
        | none => none

/-- The bodies being skipped that hold the next instruction; leaving a body ends its skipping (R157, R159). -/
def liveSkips (t : Task) : List Skip := t.skips.filter fun k => k.lo ≤ t.pc && t.pc < k.hi

/-- Move the program counter of a task; past the last instruction the core ends its part (R96). -/
def goto (s : State) (x : Ctx) (target : Nat) : State :=
  updTask s x.core x.task.lc fun t =>
    { t with pc := target, ended := t.ended || x.job.progLen ≤ target
             endNs := if x.job.progLen ≤ target then some (t.endNs.getD s.nowNs) else t.endNs
             skips := liveSkips { t with pc := target } }

def nextPc (s : State) (x : Ctx) : State := goto s x (x.task.pc + 1)

/-- A branch by a signed 20-bit offset; a target outside the program is FAIL_BOUNDS (R139). -/
def branch (s : State) (x : Ctx) (off : Nat) : State :=
  let tgt : Int := x.task.pc + toSigned 20 off
  if tgt < 0 ∨ (x.job.progLen : Int) ≤ tgt then failJob s x.jobn x.core x.task.pc failBounds
  else goto s x tgt.toNat

/-- Write an index register; ix0 keeps reading 0 (R98). -/
def setIx (s : State) (x : Ctx) (n : Nat) (v : Int) : State :=
  if n = 0 ∨ 16 ≤ n then s else
    updTask s x.core x.task.lc fun t => { t with ix := t.ix.setIfInBounds n (BitVec.ofInt 32 v) }

/-- End the job of a context with a FAIL status. -/
def failHere (s : State) (x : Ctx) (f : Fail) : State := failJob s x.jobn x.core x.task.pc f

/-! ### Index registers and the instructions that name them -/

/-- The engine that an opcode belongs to (R91): some true for the execute engine. -/
def engineOf (op : BitVec 8) : Option Bool :=
  let o := op.toNat
  if o = 0x01 ∨ o = 0x02 ∨ o = 0x03 ∨ o = 0x04 ∨ o = 0x30 ∨ o = 0x80 ∨ o = 0xC0 ∨ o = 0xC1 then some false
  else if o = 0x10 ∨ o = 0x11 ∨ o = 0x20 ∨ o = 0x21 ∨ o = 0x22 ∨ o = 0x31 ∨ o = 0x40 ∨ o = 0x41 ∨ o = 0x50
    ∨ o = 0x51 ∨ o = 0x60 ∨ o = 0x61 ∨ o = 0x70 ∨ o = 0x71 ∨ o = 0x90 then some true
  else none

/-- An operand field that an instruction uses: the lowest bit of its specifier, how many descriptors it names in
succession, and whether the operand is written. -/
structure SpecUse where
  lo : Nat
  n  : Nat := 1
  wr : Bool := false
  deriving DecidableEq, Repr

/-- The descriptor that a specifier names holds an MX format. -/
def mxAt (t : Task) (b : Body) (lo : Nat) : Bool :=
  ((fmtOfCode (tdFmt (t.td.getD (specAt b lo).td 0))).map isMx).getD false

/-- The operand fields that an instruction uses (each from its own rule). -/
def usedSpecs (t : Task) (op : BitVec 8) (b : Body) : List SpecUse :=
  let w (lo : Nat) : SpecUse := { lo := lo, wr := true }
  let r (lo : Nat) : SpecUse := { lo := lo }
  let opt (c : Bool) (u : SpecUse) : List SpecUse := if c then [u] else []
  let four := if bit b 26 then 4 else 1
  let weights := if bit b 25 then 1 else four
  match op.toNat with
  | 0x01 | 0x02 => [w 98, r 84]
  | 0x03 | 0x04 => [w 98, r 84, r 70]
  | 0x30 | 0x31 | 0x20 | 0x22 => [r 98, w 84]
  | 0x21 | 0x70 | 0x71 => [r 98, r 84, w 70]
  | 0x80 => [w 98, r 84] ++ opt (field b 68 2 ≠ 0) (w 70)
  | 0x10 => [{ lo := 98, n := four }, { lo := 84, n := weights }] ++ opt (bit b 27) { lo := 70, n := four }
      ++ [{ lo := 56, n := four, wr := true }] ++ opt (bit b 24) { lo := 42, n := four }
      ++ opt (field b 16 3 ≠ 0) { lo := 28, n := four }
  | 0x11 => [{ lo := 98, n := four }, { lo := 70, n := weights }] ++ opt (mxAt t b 98) { lo := 84, n := four }
      ++ opt (mxAt t b 70) { lo := 56, n := weights } ++ opt (bit b 27) { lo := 42, n := four }
      ++ [{ lo := 28, n := four, wr := true }]
  | 0x40 => [r 98, r 84, w 70, w 56] ++ opt (field b 40 2 = 3) (r 42)
  | 0x41 => [r 98, r 84, w 70, w 56] ++ opt (bit b 41) (w 42)
  | 0x50 => [r 98, r 84, w 70, w 56]
  | 0x51 => [r 98, r 84, { lo := 70, wr := bit b 50 }, w 56]
  | 0x60 => [r 98, w 84, w 70, w 56]
  | 0x61 => [r 98, r 84, r 70, w 56]
  | 0x90 => [r 98, w 84] ++ opt (mxAt t b 98) (r 70) ++ opt (mxAt t b 84) (w 56)
  | 0x81 => [w 98]
  | 0xA0 | 0xA1 => opt (bit b 111) (r 77)
  | _ => []

/-- Lowest bits of the 4-bit index-register fields of an opcode. -/
def ixFields (op : BitVec 8) : List Nat :=
  match op.toNat with
  | 0x40 => [36, 32]
  | 0x50 | 0x51 => [52]
  | 0x60 => [46]
  | 0x70 => [63]
  | 0x71 => [2]
  | 0x81 => [94, 90]
  | 0xA0 => [73]
  | 0xB0 => [108, 104]
  | 0xB1 => [84, 80]
  | 0xB2 => [108, 104]
  | 0xC0 => [108, 104]
  | 0xC1 => [108, 103]
  | _ => []

/-- The index registers that a descriptor in an operand names: a KVSEQ descriptor's extents are ignored (R223), and of
a window's image the columns alone are used (R195). -/
def descIx (op : BitVec 8) (lo : Nat) (d : BitVec 256) : List Nat :=
  let image := (op = 0x30 || op = 0x31) && lo = 98
  (if image then [] else [tdIxc d])
    ++ (if tdExtrIx d && !image && tdSpace d ≠ 2 then [tdExtRows d % 16] else [])
    ++ (if tdExtcIx d && tdSpace d ≠ 2 then [tdExtCols d % 16] else [])

/-- The index registers that an instruction names, in its fields and through its descriptors (R93). -/
def namedIx (t : Task) (op : BitVec 8) (b : Body) : List Nat :=
  ((usedSpecs t op b).flatMap fun u =>
    let o := specAt b u.lo
    (if (op = 0x30 || op = 0x31) && u.lo = 98 then [o.ixb] else [o.ixa, o.ixb])
      ++ (List.range u.n).flatMap fun i => descIx op u.lo (t.td.getD (o.td + i) 0))
  ++ ((ixFields op).map fun lo => field b lo 4)
  -- a window's OIX and EXTIX (R193)
  ++ (if op = 0x30 ∨ op = 0x31 then
        let d := t.td.getD (field b 78 6) 0
        [field d 243 4, field d 239 4] else [])

/-- The index register that NMS or FORK writes some time after issue (R93): NMS's until it retires (R213), FORK's until
the future is created. -/
def pendingIx (e : QEntry) : Option Nat :=
  match e.op.toNat with
  | 0x71 => some (field e.body 2 4)
  | 0xC0 => if e.started then none else some (field e.body 104 4)
  | _ => none

/-- An instruction waits at issue for an index register that an unfinished instruction is still to write. -/
def ixStalls (t : Task) (op : BitVec 8) (b : Body) : Bool :=
  let late := (t.fq ++ t.eq).filterMap pendingIx
  (namedIx t op b).any fun n => n ≠ 0 && late.contains n

/-! ### Queues -/

def queueOf (t : Task) (exe : Bool) : List QEntry := if exe then t.eq else t.fq
def setQueue (t : Task) (exe : Bool) (q : List QEntry) : Task := if exe then { t with eq := q } else { t with fq := q }

/-- Entries of a queue (R165). -/
def queueCap (lc exe : Bool) : Nat := if lc then 8 else if exe then 16 else 32

/-- A context for an entry of a task's queue, with the index values captured at its issue. -/
def entryCtx (s : State) (c : Nat) (lc : Bool) (e : QEntry) : Option Ctx :=
  match getTask s c lc with
  | none => none
  | some t =>
    match tget s.jobs t.job with
    | some j => some { core := c, task := t, jobn := t.job, job := j, ix := e.ix, kext := e.kext }
    | none => none

/-- Two ranges meet at the grain of R167: 256-byte lines of the scratchpad, 64 KiB pages of job memory. -/
def sameUnit (a b : Touch) : Bool :=
  let g := if a.scratch then 256 else 65536
  a.scratch = b.scratch && a.lo / g ≤ (b.hi - 1) / g && b.lo / g ≤ (a.hi - 1) / g

def meets (l r : List Touch) : Bool := l.any fun a => r.any fun b => sameUnit a b

/-- Some byte lies in both (R187, R298). -/
def sharesByte (l r : List Touch) : Bool :=
  l.any fun a => r.any fun b => a.scratch = b.scratch && a.lo < b.hi && b.lo < a.hi

/-- The later instruction must wait for the earlier (R167). -/
def hazard (e : QEntry) (reads writes : List Touch) : Bool :=
  meets e.writes reads || meets e.writes writes || meets e.reads writes

/-- The region of a slot in the core's scratchpad (R296). -/
def slotRange (x : Ctx) (sl : Slot) : Option Touch :=
  (scratchMap x.task.lc x.task.reserve x.job.footKib sl.sbase).map fun p => ⟨true, p, p + sl.channels * 8 * sl.ns⟩

/-- The carried-state slots of a task that a set of touched bytes overlaps (R298). -/
def slotsTouched (x : Ctx) (ts : List Touch) : List Nat :=
  (x.task.states.zipIdx.filter fun (sl, _) =>
    match slotRange x sl with
    | some q => sharesByte ts [q]
    | none => false).map (·.2)

/-! ### Groups (R181) -/

/-- The member number of a rank in a group (R181). -/
def memberOf (g : GroupEntry) (rank : Nat) : Option Nat :=
  if rank < g.first ∨ g.stride = 0 then none else
    let d := rank - g.first
    if d % g.stride = 0 ∧ d / g.stride < g.count then some (d / g.stride) else none

/-- The core of a member (R181). -/
def memberCore (j : Job) (g : GroupEntry) (i : Nat) : Nat := j.cores.getD (g.first + i * g.stride) 0

def ldtBlist (b : Body) : Bool := bit b 83
def ldtMcg (b : Body) : Nat := field b 77 6

/-- The group and the member number of an LDT on a group of a kind. -/
def ldtMember (x : Ctx) (kind : Nat) (b : Body) : Option (GroupEntry × Nat) :=
  match tget x.job.groups (ldtMcg b) with
  | some ge => if ge.kind = kind then (memberOf ge x.task.rank).map fun i => (ge, i) else none
  | none => none

/-! ### What an instruction touches, as its operands name it -/

/-- The bytes of an operand that the core's own accesses touch: the tile as its descriptor gives it; of a block list the
stream descriptor; none of a multicast receiver's source and of another core's scratchpad. -/
def specTouches (x : Ctx) (op : BitVec 8) (b : Body) (u : SpecUse) : List Touch :=
  let o := specAt b u.lo
  (List.range u.n).flatMap fun i =>
    let d := x.task.td.getD (o.td + i) 0
    match spaceOfCode (tdSpace d), fmtOfCode (tdFmt d) with
    | some sp, some f =>
      let t := mkTile x.ix d o.ixa o.ixb sp f
      let img := (op = 0x30 || op = 0x31 || op = 0x03) && u.lo = (if op = 0x03 then 84 else 98)
      let ldtSrc := op = 0x01 && u.lo = 84
      let away := ldtSrc && (match ldtMember x 1 b, ldtMember x 2 b with
        | some (_, i), _ => i ≠ 0
        | _, some (ge, i) => sp = .scratch && memberCore x.job ge ((i + ge.count - 1) % ge.count) ≠ x.core
        | _, _ => false)
      if !tdValid d || img || away || (op = 0x04 && u.lo = 98) then []
      else if ldtSrc && ldtBlist b then
        touchesOf sp x.task.lc x.task.reserve x.job.footKib [(elemBit t 0 0, 256)]
      else tileTouches x t
    | _, _ => []

/-- What an instruction reads and what it writes, as far as its operands alone tell. -/
def opTouches (x : Ctx) (op : BitVec 8) (b : Body) : List Touch × List Touch :=
  let us := (usedSpecs x.task op b).filter fun u => !(op = 0x51 && u.lo = 70 && !bit b 51 && !bit b 50)
  (us.flatMap (specTouches x op b), (us.filter (·.wr)).flatMap (specTouches x op b))

/-- The bytes that a queued multicast sender writes (R187). -/
def senderDst (x : Ctx) (q : QEntry) : List Touch :=
  if q.op = 0x01 ∧ ((ldtMember x 1 q.body).map (·.2)) = some 0 then
    specTouches { x with ix := q.ix } 0x01 q.body { lo := 98, wr := true }
  else []

/-- A slot that keeps an instruction from starting: it is not RESIDENT, or a swap-out is asked for (R298, R299). -/
def shutSlot (x : Ctx) (slots : List Nat) : Option Nat :=
  slots.find? fun n =>
    match x.task.states[n]? with
    | some sl => sl.state ≠ .resident || sl.wanted
    | none => false

/-- Why an entry may not start, by the bytes that it reads and writes: a slot (R298, R299); a fetch hazard (R167); a
byte of the destination of an earlier multicast LDT of this sender (R187). -/
def holdOf (x : Ctx) (exe : Bool) (before : List QEntry) (uid : Nat) (reads writes : List Touch) : Hold :=
  match shutSlot x (slotsTouched x (reads ++ writes)) with
  | some n => .slot n
  | none =>
    if !exe && before.any (fun e => hazard e reads writes) then .hazard
    else if x.task.fq.any (fun q => q.uid < uid && sharesByte (senderDst x q) writes) then .mcast
    else .none

/-- The meaning of an engine instruction at its start: from the context with captured index values, the entry
and the state. -/
abbrev Effect := Ctx → QEntry → State → Res Eff

def setEntry (s : State) (c : Nat) (lc exe : Bool) (k : Nat) (e : QEntry) : State :=
  updTask s c lc fun t => setQueue t exe ((queueOf t exe).set k e)

/-! ### Adds that services watch -/

/-- An add on a word of job memory also reaches the service that watches the word: COMMIT (R219), STEP (R263),
SWAP_OUT (R299). `n` is the addend. -/
def landAdd (s : State) (asid va : Nat) (n : Int) : State :=
  let s := s.groups.foldl (fun s (g, gr) =>
    if gr.asid ≠ asid then s
    else if va = gr.gcb then { s with groups := tset s.groups g { gr with steps := gr.steps ++ [s.seq] }, seq := s.seq + 1 }
    else
      let L := gr.layout
      if L.stageBase ≤ va ∧ 0 < L.stageStride then
        let i := (va - L.stageBase) / L.stageStride
        let off := (va - L.stageBase) % L.stageStride
        if i < gr.maxF ∧ 0x40 ≤ off ∧ off < 0x40 + 4 * L.nlayers ∧ off % 4 = 0 then
          { s with commits := s.commits ++ [{ group := g, idx := i, layer := (off - 0x40) / 4
                                              n := (ofSigned 32 n), seq := s.seq }]
                   seq := s.seq + 1 }
        else s
      else s) s
  s.cores.foldl (fun s (c, k) =>
    let one (s : State) (lc : Bool) (t : Option Task) : State :=
      match t with
      | none => s
      | some t =>
        if ((tget s.jobs t.job).map (·.asid)) ≠ some asid then s else
          updTask s c lc fun t => { t with states := t.states.map fun sl =>
            if sl.record + 0x40 ≠ va then sl
            else if sl.state = .inn then { sl with landedIn := sl.landedIn + 1 }
            else { sl with landed := sl.landed + 1 } }
    one (one s false k.be) true k.lc) s

/-- The job virtual addresses at which a byte of DRAM, by package DPA, lies. -/
def placesOf (s : State) (a : Nat) : List (Nat × Nat) :=
  s.aspaces.flatMap fun (asid, sp) => sp.pages.filterMap fun (vpn, p) =>
    let q := pteAddr p 0
    if q.sp = .dram ∧ q.a ≤ a ∧ a < q.a + 65536 then some (asid, vpn * 65536 + (a - q.a)) else none

/-- An add of `n` has landed on a word of a channel, by package DPA: its watches are checked (R207) and the services that
watch the word hear of it (R326). -/
def landAt (s : State) (a : Nat) (n : Int) : State :=
  (placesOf s a).foldl (fun s p => landAdd (markWatches s p.1 p.2) p.1 p.2 n) s

/-- An atomic add of `n` to an INT32 word of job memory through the memory-side adder, with what watches it. -/
def memAdd32 (s : State) (asid va : Nat) (n : Int) : Res (Nat × State) := do
  let (old, s) ← add32 s asid va n
  return (old, landAdd s asid va n)

/-! ### Semaphores, waits, barriers -/

/-- Add to a semaphore; past 65,535 the job ends (R99). -/
def semAdd (s : State) (c : Nat) (lc : Bool) (pc n cnt : Nat) : State :=
  if n = 0 then s else
    match getTask s c lc with
    | none => s
    | some t =>
      let v := (t.sem.getD n 0).toNat + cnt
      if 65535 < v then failJob s t.job c pc (failIllegal 0x0C)
      else updTask s c lc fun t => { t with sem := t.sem.setIfInBounds n (BitVec.ofNat 16 v) }

/-- Every earlier instruction of the task has retired (R136). -/
def quiet (t : Task) : Bool := t.fq.isEmpty && t.eq.isEmpty && t.sigAdds.isEmpty

/-- The waiting instruction of a task is done: issue goes on, DONE_SEM adds (R107). -/
def finishWait (s : State) (c : Nat) (lc : Bool) (sem : Bool) : State :=
  match getTask s c lc with
  | none => s
  | some t =>
    let s := updTask s c lc fun t => { t with blocked := none, waitDone := 0 }
    match entryCtx s c lc { pc := t.pc, op := 0, body := 0, ix := t.ix } with
    | none => s
    | some x => let s := nextPc s x; if sem then semAdd s c lc t.pc t.waitDone 1 else s

/-- Every participant that waits at barrier `bid` resumes (R137). -/
def releaseBarrier (s : State) (jobn : Nat) (j : Job) (bid : Nat) : State :=
  j.cores.foldl (fun s c =>
    match getTask s c j.lc with
    | some t => if t.job = jobn ∧ t.blocked = some (.bar bid) then finishWait s c j.lc true else s
    | none => s) s

/-- The index registers of every core of a job, by rank. -/
def jobIx (s : State) (j : Job) : List (Vector Word32 16) :=
  j.cores.map fun c => ((getTask s c j.lc).map (·.ix)).getD (Vector.replicate 16 0)

/-- ix11 of rank 0 in a snapshot: the steps still to run (R415). -/
def stepsToRun (snap : List (Vector Word32 16)) : Int := ((snap[0]?).map fun v => v[11].toInt).getD 0

/-- The absolute deadline of a job, ns (R381). -/
def deadlineNs (j : Job) : Nat := j.doorbell + j.deadlineUs * 1000

/-- The projection P, ns (R416): the last boundary plus the steps still to run at the longest step seen. -/
def projection (b : Nat) (steps : Int) (longest : Nat) : Nat := b + steps.toNat * longest

/-- The monitor watches a job for its fall-back (R416). -/
def monitored (j : Job) : Bool := j.lc && j.deadlineUs ≠ 0 && j.fbEntry ≠ 0 && !j.switched

/-- A step boundary of an LC job (R415, R416): the snapshot, the projection, and the switch that takes effect at this
boundary when it is armed. -/
def stepBoundary (s : State) (j : Job) : Job :=
  let b := (j.lastB).getD j.startNs
  let longest := max j.stepNs (s.nowNs - b)
  let snap := jobIx s j
  let p := projection s.nowNs (stepsToRun snap) longest
  let armed := j.armed || (monitored j && deadlineNs j < p)
  { j with snapshot := some s.nowNs, stepsDone := j.stepsDone + 1, lastB := some s.nowNs, stepNs := longest
           snapIx := snap, projUs := p / 1000, armed := armed, switchDue := armed && monitored j }

/-- The arrival of a core at a barrier; the NPART-th releases every participant (R137). A full-job BAR 15 of an LC job
is a step boundary, after which no core resumes when its switch is armed (R415, R418). -/
def arrive (s : State) (c : Nat) (lc : Bool) (t : Task) (bid npart : Nat) : State :=
  match tget s.jobs t.job with
  | none => s
  | some j =>
    let needed := if npart = 0 then j.ncores else npart
    let n := tgetD j.barriers bid 0 + 1
    let s := updTask s c lc fun t => { t with blocked := some (.bar bid) }
    if needed ≤ n then
      let j := { j with barriers := tdel j.barriers bid, barNeed := tdel j.barNeed bid }
      let j := if j.lc ∧ bid = 15 ∧ needed = j.ncores then stepBoundary s j else j
      let s := { s with jobs := tset s.jobs t.job j }
      if j.switchDue then s else releaseBarrier s t.job j bid
    else updJob s t.job fun j => { j with barriers := tset j.barriers bid n, barNeed := tset j.barNeed bid needed }

/-- Let a wait of a task go on where its condition holds now. -/
def poke (s : State) (c : Nat) (lc : Bool) : State :=
  match getTask s c lc with
  | none => s
  | some t =>
    match t.blocked with
    | some (.sem n cnt) =>
      let v := (t.sem.getD n 0).toNat
      if cnt ≤ v then
        finishWait (updTask s c lc fun t => { t with sem := t.sem.setIfInBounds n (BitVec.ofNat 16 (v - cnt)) }) c lc true
      else s
    | some (.sigSem n cnt) => if quiet t then semAdd (finishWait s c lc true) c lc t.pc n cnt else s
    | some (.sigMem va cnt) =>
      if quiet t then
        finishWait (updTask s c lc fun t => { t with sigAdds := t.sigAdds ++ [(va, cnt, t.waitDone, t.pc)] }) c lc false
      else s
    | some (.barPre bid np) => if quiet t then arrive s c lc t bid np else s
    | _ => s

/-- Begin a wait of the sequencer and see at once whether it holds. -/
def beginWait (s : State) (x : Ctx) (b : Body) (w : Blocked) : State :=
  poke (updTask s x.core x.task.lc fun t => { t with blocked := some w, since := s.nowNs, waitDone := doneSem b })
    x.core x.task.lc

/-! ### Retirement -/

/-- An entry has nothing outstanding (R166, R187). -/
def entryDone (e : QEntry) : Bool :=
  e.started && e.hold = .none && e.segs.all (·.left = 0)
    && (match e.mcast with
        | some m => m.got = m.blocks
        | none => true)

/-- What an instruction writes when it retires (R213). -/
def writeOuts (s : State) (c : Nat) (lc : Bool) (e : QEntry) : State :=
  if e.outs.isEmpty then s else
    match entryCtx s c lc e with
    | none => s
    | some x =>
      match doStores x s (e.outs.map fun o =>
          { sp := if o.scratch then .scratch else .jobmem, a := o.a, w := o.w, code := o.code }) with
      | .ok s => s
      | .error f => failJob s x.jobn c e.pc f

/-- A context whose running list's LDT retires: the shadow becomes the running list (R179). -/
def nextList (uid : Nat) (n : StreamCtx) : StreamCtx :=
  if n.running = some uid then { running := n.shadow, shadow := none } else n

/-- Retire entry `k` of a queue: what it writes at retirement is written (R213), it leaves the queue, its list ends
(R179), a carousel LDT counts (R189), DONE_SEM adds (R107), and waits look again. -/
def retireEntry (s : State) (c : Nat) (lc exe : Bool) (k : Nat) (e : QEntry) : State :=
  let s := writeOuts s c lc e
  let s := updTask s c lc fun t =>
    let t := setQueue t exe ((queueOf t exe).eraseIdx k)
    let t := match e.lateIx with
      | some (n, v) => if n = 0 ∨ 16 ≤ n then t else { t with ix := t.ix.setIfInBounds n (BitVec.ofInt 32 v) }
      | none => t
    let t := { t with ctxs := t.ctxs.map (nextList e.uid) }
    match e.group with
    | some g => { t with carousel := tset t.carousel g (tgetD t.carousel g 0 + 1) }
    | none => t
  poke (semAdd s c lc e.pc (doneSem e.body) 1) c lc

/-! ### Start and issue -/

/-- A shadow LDT that a re-arm displaced retires at once, having moved nothing (R180): its context keeps the new shadow,
and the record names the re-arm. -/
def displace (s : State) (x : Ctx) (pc sid uid : Nat) : State :=
  match getTask s x.core x.task.lc with
  | none => s
  | some t =>
    match t.fq.findIdx? (fun e => e.uid = uid) with
    | none => s
    | some k =>
      match t.fq[k]? with
      | none => s
      | some e =>
        let s := retireEntry s x.core x.task.lc false k e
        let d := coreDie x.core
        firstEvent (bump s 0xE048 (d + 1) 1) x.jobn .rearm 0 0x0009 d (packItems [(16, x.core), (24, pc), (8, sid)])

/-- The opcodes whose instructions run passes on the quad (R91, R61, R226). -/
def onQuad (op : BitVec 8) : Bool := op = 0x10 || op = 0x11 || op = 0x40 || op = 0x41

/-- An entry is held: it stays in its queue with the reason, and a hold on a slot counts once (R298). A page-service command
that waits for others keeps the place of its arrival (R254). -/
def holdEntry (s : State) (c : Nat) (lc exe : Bool) (k : Nat) (e : QEntry) (h : Hold) : State :=
  let onSlot := match h with
    | .slot _ => true
    | _ => false
  let first := h = .commits ∧ e.arrived.isNone
  let s := setEntry (if first then { s with seq := s.seq + 1 } else s) c lc exe k
    { e with hold := h, counted := e.counted || onSlot, arrived := if first then some s.seq else e.arrived }
  if onSlot && !e.counted then bump s 0xE062 (coreDie c + 1) 1 else s

/-- The entry in its queue once its instruction has started. -/
def startedEntry (x : Ctx) (e : QEntry) (r : Eff) (reads writes : List Touch) : QEntry :=
  { e with started := true, hold := r.hold, segs := r.segs, reads := r.reads ++ reads, writes := r.writes ++ writes
           sid := r.sid, mcast := r.mcast, group := r.group, outs := r.outs, lateIx := r.lateIx
           slots := slotsTouched x (r.reads ++ r.writes ++ reads ++ writes) }

/-- A task's queued instructions may start: the core takes instructions, and a best-effort task's core has not been
taken by an LC job (R79, R168). -/
def mayStart (s : State) (c : Nat) (lc : Bool) : Bool :=
  let k := getCore s c
  coreOpen k && (lc || !k.lcHas)

/-- The bytes of job memory that a range shares with a page. -/
def touchShare (t : Touch) (vpn : Nat) : Nat := if t.scratch then 0 else min t.hi (vpn * 65536 + 65536) - max t.lo (vpn * 65536)

/-- An instruction has read some ranges of job memory: uncorrectable codewords of protected pages that it met are repaired
(R461), and what degraded reads served is counted (R462, R479). -/
def noteReads (s : State) (core asid : Nat) (reads : List Touch) : State :=
  let rs := reads.eraseDups
  let met (cw : Nat) : Bool := (placesOf s (cw * 128)).any fun p =>
    p.1 = asid && rs.any fun t => !t.scratch && t.lo < p.2 + 128 && p.2 < t.hi
  let s := s.dramUE.foldl (fun s cw => if met cw && repairable s (cw * 128) then repairUe s cw else s) s
  let pages := ((tget s.aspaces asid).map (·.pages)).getD []
  bumpIf s 0xE091 (coreDie core + 1) ((pages.map fun p =>
    if p.2.tier ≤ 3 && !dieAnswers s p.2.die then (rs.map fun t => touchShare t p.1).sum else 0).sum)

/-- Try to start entry `k` of a queue. The answer says whether it started. What holds it by its operands holds it before
it reads anything (R167, R298); a chunk behind an unretired one on its slot is only queued (R299); a pass that follows a
ramp cut short starts with a new ramp (R73). -/
def tryStart (f : Effect) (s : State) (c : Nat) (lc exe : Bool) (k : Nat) : State × Bool :=
  match getTask s c lc with
  | none => (s, false)
  | some t =>
    match (queueOf t exe)[k]? with
    | none => (s, false)
    | some e =>
      let before := (queueOf t exe).take k
      if e.started || before.any (fun b => !b.started) then (s, false) else
        match entryCtx s c lc e with
        | none => (s, false)
        | some x =>
          let (reads, writes) := opTouches x e.op e.body
          let slots := slotsTouched x reads
          if exe && before.any (fun b => b.slots.any fun n => slots.contains n) then (s, false)
          else if exe && onQuad e.op && (getCore s c).rampDue then
            (updCore s c fun k => { k with ramp := true, rampDue := false }, false)
          else
            let h0 := holdOf x exe before e.uid reads writes
            if h0 ≠ .none then (holdEntry s c lc exe k e h0, false) else
              match f x e s with
              | .error g => (failJob s x.jobn c e.pc g, false)
              | .ok r =>
                let h := if r.hold = .carousel ∨ r.hold = .commits then r.hold
                  else holdOf x exe before e.uid (r.reads ++ reads) (r.writes ++ writes)
                if h = .none then
                  let s := setEntry (noteReads r.st c x.job.asid r.reads) c lc exe k (startedEntry x e r reads writes)
                  (match r.drop with
                   | some u => displace s x e.pc (r.sid.getD 0) u
                   | none => s, true)
                else (holdEntry s c lc exe k e h, false)

/-- The checks of every tile instruction's word (R107, R108, R111): reserved bits and WI. -/
def wordCheck (b : Body) (reservedOk wiOk : Bool) : Res Unit := do
  need (reservedOk && field b 112 3 = 0) 0x02
  need (wiOk || !wiBit b) 0x0A

/-- Operand rules that end a job at issue although the instruction would start later (R103, R104, R223): reason codes,
and for ATTS and ATTV the bounds of R223. What an LDT finds in a stream descriptor it finds when it reads it (R178). -/
def failsAtIssue (op : BitVec 8) (g : Fail) : Bool :=
  (g.1 = 0x21 && op ≠ 0x01) || (g.1 = 0x22 && (op = 0x40 || op = 0x41))

/-- What issue learns of an instruction from its operands as they stand: a failure, or the committed length of its
KVSEQ operand (R223). -/
def issueLook (f : Effect) (x : Ctx) (e : QEntry) (s : State) : Res QEntry :=
  let e := { e with kext := issueExtent x s e.op e.body }
  match f x e s with
  | .error g => if failsAtIssue e.op g then .error g else .ok e
  | .ok _ => .ok e

/-- Issue an engine instruction (R91, R92, R165): into its queue, and started at once where nothing holds it.
`word` is the check of the instruction's own bits. Inside a skipped body the sequencer does not run it. -/
def issueEngine (exe : Bool) (op : BitVec 8) (b : Body) (fault : Option Nat) (order : List Nat) (wiOk : Bool)
    (word : Ctx → Res Unit) (f : Effect) (ident : Bool) (s : State) (c : Nat) : State :=
  match issueCtx s c with
  | none => s
  | some x =>
    let t := x.task
    let skips := liveSkips t
    let skipped := !skips.isEmpty
    if skipped != ident || queueCap t.lc exe ≤ (queueOf t exe).length || ixStalls t op b then s else
      let e : QEntry := { uid := s.seq, pc := t.pc, op := op, body := b, ix := t.ix
                          ident := ident, fault := fault, order := order }
      match (do wordCheck b true wiOk; word x; issueLook f x e s) with
      | .error g => failHere s x g
      | .ok e =>
        let k := (queueOf t exe).length
        let s := { s with seq := s.seq + 1 }
        let s := updTask s c t.lc fun t => setQueue t exe (queueOf t exe ++ [e])
        let s := nextPc s x
        (tryStart f s c t.lc exe k).1

end Sys2Proof.Machine
end

