-- ==== Sys2Proof/Machine/Transfer.lean ====
section
/-! DEFINITION. Data movement: LDT, STT, GATH, SCAT, MADD (R113 to R115, R132), block-list streams (R174 to R180),
multicast (R181 to R187) and the weight carousel (R188 to R190). -/

namespace Sys2Proof.Machine

/-- Bits of a tile's elements laid end to end. -/
def tileBits (t : Tile) : Nat := t.rows * t.cols * fmtBits t.fmt

/-- Two tiles agree in FMT, ROWS and COLS (R113, R183). -/
def sameTile (a b : Tile) : Bool := a.fmt = b.fmt && a.rows = b.rows && a.cols = b.cols

/-! ### Paths of a carousel hop (R17, R190) -/

/-- The position of a logical core on its cluster's ring (R17, R18). -/
def ringPos (s : State) (c : Nat) : Nat := tgetD (getCluster s (c / 32)).phys (c % 32) (c % 32)

/-- A position of a cluster's ring holds an in-service core; the ring bypasses any other (R17). -/
def ringHolds (s : State) (k p : Nat) : Bool :=
  (List.range 32).any fun l => !(getCore s (k * 32 + l)).retired && ringPos s (k * 32 + l) = p

/-- The positions that a transfer passes downstream from core `a` to core `b` of a cluster, `b`'s included: in position
order, from P32 to P0, those bypassed left out (R17). -/
def ringWalk (s : State) (a b : Nat) : List Nat :=
  let from0 := ringPos s a
  let n := (ringPos s b + 33 - from0) % 33
  ((List.range n).map fun i => (from0 + 1 + i) % 33).filter (ringHolds s (a / 32))

/-- The path of a hop from its predecessor to the puller (R190). -/
inductive HopPath where
  | ring (ps : List Nat) | network | bridge
  deriving DecidableEq, Repr

def hopPath (s : State) (pred core : Nat) : HopPath :=
  if coreDie pred ≠ coreDie core then .bridge
  else if coreCluster pred ≠ coreCluster core then .network
  else .ring (ringWalk s pred core)

/-! ### Block lists -/

/-- A stream descriptor as read (R175). -/
structure StreamDesc where
  sid    : Nat
  lsp    : Space
  list   : Nat
  blocks : List (Nat × Nat)
  deriving DecidableEq, Repr

/-- Read a stream descriptor, at the address of SRC's element (0, 0) (R174), and its entries (R175, R176) with the checks of
R178. R178 gives no status for a descriptor that is not 32-byte aligned: the 32 bytes at the address are read as they
lie (DESIGN CHOICE, log 138). -/
def readStream (x : Ctx) (s : State) (t : Tile) : Res StreamDesc := do
  let rd (sp : Space) (a : Int) (n : Nat) : Res Nat := do
    return leNat (← (List.range n).mapM fun i => spaceRead x s x.core sp (a + i))
  let d := BitVec.ofNat 256 (← rd t.space (elemBit t 0 0 / 8) 32)
  need (field d 250 3 = 0 && field d 248 2 < 2 && field d 160 24 = 0 && field d 0 128 = 0) 0x02
  let lsp := if field d 248 2 = 0 then Space.jobmem else .scratch
  let list := field d 200 48
  let n := field d 184 16
  need (n ≠ 0 && list % 16 = 0) 0x06
  need (field d 128 32 = ceilDiv (tileBits t) 8) 0x04
  let bs ← (List.range n).mapM fun i => do
    let e := BitVec.ofNat 128 (← rd lsp (list + 16 * i) 16)
    need (field e 64 16 = 0 && field e 0 32 = 0) 0x02
    let a := field e 80 48
    let l := field e 32 32
    need (a % 16 = 0 && l % 16 = 0 && 16 ≤ l && l ≤ 65536) 0x06
    return (a, l)
  need ((bs.map (·.2)).sum = field d 128 32) 0x04
  return { sid := field d 253 3, lsp := lsp, list := list, blocks := bs }

/-- The job virtual address of byte `off` of the blocks joined end to end (R177). -/
def blockByte : List (Nat × Nat) → Nat → Nat
  | [], off => off
  | (a, l) :: t, off => if off < l then a + off else blockByte t (off - l)

/-! ### Sources of an LDT -/

/-- Where the codes of an LDT's source come from: a tile, in the scratchpad of a core where it lies in SCRATCH, or the
blocks of a stream. -/
inductive Source where
  | tile (core : Nat)
  | blocks (d : StreamDesc)

/-- The bit address of element (r, c) of the source. -/
def sourceBit (src : Source) (t : Tile) (r c : Nat) : Int :=
  match src with
  | .tile _ => elemBit t r c
  | .blocks d =>
    let off := (r * t.cols + c) * fmtBits t.fmt
    (blockByte d.blocks (off / 8) : Int) * 8 + (off % 8 : Nat)

def sourceCode (x : Ctx) (s : State) (src : Source) (t : Tile) (r c : Nat) : Res Nat :=
  if isReal t r c then
    match src with
    | .tile core => codeAt x s core t.space (fmtBits t.fmt) (sourceBit src t r c)
    | .blocks _ => codeAt x s x.core .jobmem (fmtBits t.fmt) (sourceBit src t r c)
  else if t.pad then .ok 0 else .error failBounds

/-- Bit addresses of the source's real elements that `sel` picks by number. -/
def sourceAddrsIn (src : Source) (t : Tile) (sel : Nat → Bool) : List (Int × Nat) :=
  (List.range t.rows).flatMap fun r => (List.range t.cols).filterMap fun c =>
    if isReal t r c && sel (r * t.cols + c) then some (sourceBit src t r c, fmtBits t.fmt) else none

def sourceAddrs (src : Source) (t : Tile) : List (Int × Nat) := sourceAddrsIn src t fun _ => true

def sourceSpace (src : Source) (t : Tile) : Space :=
  match src with
  | .tile _ => t.space
  | .blocks _ => .jobmem

/-- The core whose scratchpad a source in SCRATCH lies in. -/
def sourceCore (x : Ctx) (src : Source) : Nat :=
  match src with
  | .tile core => core
  | .blocks _ => x.core

/-- Stores into `dst` of the source's elements that `sel` picks, by element number in row order. Every byte of the source
tile is bounded (R106, R155), an element opposite a pad element of `dst` too. -/
def moveStores (x : Ctx) (s : State) (src : Source) (t dst : Tile) (sel : Nat → Bool) : Res (List Store) := do
  requirePad t
  requirePad dst
  (sourceAddrs src t).forM (boundsAt x s (sourceCore x src) (sourceSpace src t) false)
  let rows ← (List.range t.rows).mapM fun r => (List.range t.cols).mapM fun c => do
    if sel (r * t.cols + c) ∧ isReal dst r c then
      let v ← sourceCode x s src t r c
      return [elemStore dst r c v]
    else return []
  return rows.flatten.flatten

/-- Segments of a read of a source (R169, R170): the scratchpad of a core of another die lies in REMOTE, of the same die
in READ; a carousel hop within a cluster goes by its ring and takes no slot (R190). -/
def sourceSegs (x : Ctx) (s : State) (src : Source) (t : Tile) (hop : Bool) (sel : Nat → Bool) : List Seg :=
  let as := sourceAddrsIn src t sel
  match sourceSpace src t, src with
  | .scratch, .tile core =>
    let gs := segsScratch (as.length * fmtBits t.fmt)
    (match hopPath s core x.core with
     | .bridge => gs.map fun g => { g with cls := .remote, node := some (coreDie core) }
     | .network => gs
     | .ring _ => if hop then [] else gs)
  | _, _ => segsOf s x false as

/-- The bytes of a stream's descriptor and entries (R175, R176). -/
def streamTouches (x : Ctx) (t : Tile) (d : StreamDesc) : List Touch :=
  let f (sp : Space) (a : Int) (n : Nat) := touchesOf sp x.task.lc x.task.reserve x.job.footKib [(a * 8, 8 * n)]
  f t.space (elemBit t 0 0 / 8) 32 ++ f d.lsp d.list (16 * d.blocks.length)

def sourceTouches (x : Ctx) (src : Source) (t : Tile) : List Touch :=
  match src with
  | .tile core => if core = x.core || t.space ≠ .scratch then tileTouches x t else []
  | .blocks d => streamTouches x t d ++ touchesOf .jobmem x.task.lc x.task.reserve x.job.footKib (sourceAddrs src t)

/-! ### LDT -/

def ldtDst (x : Ctx) (b : Body) : Res Tile := operand x b 98 [.scratch]
def ldtSrc (x : Ctx) (b : Body) : Res Tile := operand x b 84 [.jobmem, .scratch]
/-- The source of an LDT: a tile, or the blocks of its stream. -/
def ldtSource (x : Ctx) (s : State) (b : Body) (t : Tile) (core : Nat) : Res Source :=
  if ldtBlist b then do return .blocks (← readStream x s t) else .ok (.tile core)

/-- Blocks of a multicast LDT (R184): its list's, or 4 KiB each. -/
def mcastBlocks (src : Source) (t : Tile) : Nat :=
  match src with
  | .blocks d => d.blocks.length
  | .tile _ => ceilDiv (ceilDiv (tileBits t) 8) 4096

/-- Byte range of block `i` of a multicast LDT (R184). -/
def mcastRange (src : Source) (t : Tile) (i : Nat) : Nat × Nat :=
  match src with
  | .blocks d =>
    let lo := ((d.blocks.take i).map (·.2)).sum
    (lo, lo + (d.blocks.getD i (0, 0)).2)
  | .tile _ => (4096 * i, min (4096 * (i + 1)) (ceilDiv (tileBits t) 8))

/-- The element numbers whose first bit lies in blocks `lo` to `hi - 1`. -/
def inBlocks (src : Source) (t : Tile) (lo hi : Nat) (e : Nat) : Bool :=
  let a := (mcastRange src t lo).1
  let z := if hi = 0 then 0 else (mcastRange src t (hi - 1)).2
  a ≤ e * fmtBits t.fmt / 8 && e * fmtBits t.fmt / 8 < z

/-- The sender's part of a group's nth LDT, as its queue holds it. -/
def senderEntry (s : State) (j : Job) (g n nth : Nat) : Option (Nat × QEntry) :=
  match tget j.groups n with
  | none => none
  | some ge =>
    let c := memberCore j ge 0
    match getTask s c j.lc with
    | none => none
    | some t => (t.fq.find? fun e => match e.mcast with
        | some m => m.group = g && m.nth = nth && m.sender
        | none => false).map fun e => (c, e)

/-- What a receiver needs of the sender: the context with the sender's captured values, and its source. -/
def senderSource (s : State) (x : Ctx) (c : Nat) (body : Body) (ix : Vector Word32 16) : Res (Ctx × Source × Tile) := do
  let y : Ctx := { x with core := c, ix := ix, task := (getTask s c x.task.lc).getD x.task }
  let t ← ldtSrc y body
  return (y, ← ldtSource y s body t c, t)

/-- Write blocks `lo` to `hi - 1` of the sender's source into a receiver's destination as the sender fetches them, or as
the receiver's own fetch engine does (R184, R185). -/
def deliver (x : Ctx) (s : State) (y : Ctx) (src : Source) (t dst : Tile) (lo hi : Nat) : Res State := do
  need (sameTile t dst) 0x04
  let sts ← moveStores y s src t dst (inBlocks src t lo hi)
  scratchStores x s x.core sts

/-- Write blocks `lo` to `hi - 1` into the destination of a receiver that gained credit late: from the sender's scratchpad
copy (R184). A pad element of the sender's destination has no copy; its value is the source's (DESIGN CHOICE, log 139). -/
def deliverCopy (x : Ctx) (s : State) (y : Ctx) (src : Source) (t own dst : Tile) (lo hi : Nat) : Res State := do
  need (sameTile t dst) 0x04
  requirePad dst
  let els := (List.range dst.rows).flatMap fun r => (List.range dst.cols).filterMap fun c =>
    if isReal dst r c && inBlocks src t lo hi (r * dst.cols + c) then some (r, c) else none
  let sts ← els.mapM fun (r, c) => do
    let v ← if isReal own r c then elemCodeOn y s y.core own r c else sourceCode y s src t r c
    return elemStore dst r c v
  scratchStores x s x.core sts

/-- Count the detaching of a receiver (R185, R186). -/
def countDetach (s : State) (x : Ctx) (g rank core : Nat) : State :=
  firstEvent (bump s 0xE049 (coreDie core + 1) 1) x.jobn .detach 0 0x000A (coreDie core)
    (packItems [(16, g), (16, rank)])

/-- What an LDT does by its group field (R113, R182, R183, R188). -/
inductive LdtPlan where
  | plain | sender (ge : GroupEntry) | receiver (ge : GroupEntry) (i : Nat) | carousel (ge : GroupEntry) (i : Nat)
  deriving DecidableEq, Repr

/-- The plan, with the checks that come before any memory is read: the group and membership (R182), a carousel's block
list (R188). -/
def ldtPlan (x : Ctx) (b : Body) : Res LdtPlan := do
  let g := ldtMcg b
  if g = 0 then return .plain
  match tget x.job.groups g with
  | none => throw (failIllegal 0x06)
  | some ge =>
    match memberOf ge x.task.rank with
    | none => throw (failIllegal 0x06)
    | some i =>
      if ge.kind = 1 then return (if i = 0 then .sender ge else .receiver ge i)
      else if ge.kind = 2 then
        let t ← ldtSrc x b
        need (!(ldtBlist b) || t.space = .jobmem) 0x06
        return .carousel ge i
      else throw (failIllegal 0x06)

/-- The core that an LDT's tile source lies on: a carousel's source in SCRATCH is the predecessor's (R188). -/
def planCore (x : Ctx) (t : Tile) : LdtPlan → Nat
  | .carousel ge i => if t.space = .scratch then memberCore x.job ge ((i + ge.count - 1) % ge.count) else x.core
  | _ => x.core

/-- A carousel LDT's neighbours have retired as many (R189). -/
def carouselReady (x : Ctx) (s : State) (g : Nat) (ge : GroupEntry) (i : Nat) : Bool :=
  let k := tgetD x.task.carIssued g 0
  let done (c : Nat) : Nat := ((getTask s c x.task.lc).map fun t => tgetD t.carousel g 0).getD 0
  k ≤ done (memberCore x.job ge ((i + ge.count - 1) % ge.count)) && k ≤ done (memberCore x.job ge ((i + 1) % ge.count))

/-- The LDT takes its number on its group (R183, R188). -/
def numberLdt (x : Ctx) (g : Nat) (s : State) : LdtPlan → State
  | .plain => s
  | .carousel .. => updTask s x.core x.task.lc fun t => { t with carIssued := tset t.carIssued g (tgetD t.carIssued g 0 + 1) }
  | _ => updTask s x.core x.task.lc fun t => { t with mcIssued := tset t.mcIssued g (tgetD t.mcIssued g 0 + 1) }

/-- The sender's part of a multicast LDT (R183): its source is fetched in its own slots, block by block (R184); members on
another die are detached from the start (R186). -/
def sendPart (x : Ctx) (e : QEntry) (s : State) (g nth : Nat) (ge : GroupEntry) (src : Source) (t dst : Tile) : Res Eff := do
  need (sameTile t dst) 0x04
  requirePad t
  requirePad dst
  let far := (List.range ge.count).filter fun k => k ≠ 0 && coreDie (memberCore x.job ge k) ≠ coreDie x.core
  let ranks := far.map fun k => ge.first + k * ge.stride
  let s := far.foldl (fun s k => countDetach s x g (ge.first + k * ge.stride) (memberCore x.job ge k)) s
  let s := updJob s x.jobn fun j => { j with detached := ranks.map (fun r =>
    ({ rank := r, group := g, nth := nth, body := e.body, ix := e.ix } : Detached)) ++ j.detached }
  let segs := sourceSegs x s src t false fun _ => true
  return { st := s, reads := sourceTouches x src t, writes := tileTouches x dst, segs := segs
           mcast := some { group := g, nth := nth, sender := true, blocks := mcastBlocks src t, out := ranks
                           total := (segs.map (·.left)).sum } }

/-- A receiver's part at its start (R183 to R185): it takes what the sender has fetched so far; a receiver detached before
its start fetches the tile from the sender's source in its own slots. -/
def receivePart (x : Ctx) (e : QEntry) (s : State) (g : Nat) (ge : GroupEntry) : Res Eff := do
  let nth := tgetD x.task.mcIssued g 0
  let dst ← ldtDst x e.body
  let s := numberLdt x g s (.receiver ge 0)
  let part : McastPart := { group := g, nth := nth, sender := false, blocks := 2 ^ 20 }
  match x.job.detached.find? fun d => d.rank = x.task.rank && d.group = g && d.nth = nth with
  | some d =>
    let (y, src, t) ← senderSource s x (memberCore x.job ge 0) d.body d.ix
    let n := mcastBlocks src t
    let s' ← deliver x s y src t dst 0 n
    return { st := updJob s' x.jobn fun j => { j with detached := j.detached.filter fun q => q ≠ d }
             writes := tileTouches x dst
             segs := sourceSegs x s src t false fun _ => true
             mcast := some { part with blocks := n, got := n, detached := true } }
  | none =>
    match senderEntry s x.job g g nth with
    | some (c, se) =>
      let (y, src, t) ← senderSource s x c se.body se.ix
      let got := (se.mcast.map (·.got)).getD 0
      let s' ← deliverCopy x s y src t (← ldtDst y se.body) dst 0 got
      return { st := s', writes := tileTouches x dst, mcast := some { part with blocks := mcastBlocks src t, got := got } }
    | none => return { st := s, writes := tileTouches x dst, mcast := some part }

/-- The data movement of an LDT that is no multicast receiver, from a source that has been read (R113, R177, R183, R188).
`nth` is its number on its group. -/
def ldtMove (x : Ctx) (e : QEntry) (s : State) (plan : LdtPlan) (nth : Nat) (src : Source) (t dst : Tile) : Res Eff := do
  let g := ldtMcg e.body
  match plan with
  | .sender ge => sendPart x e s g nth ge src t dst
  | _ =>
    let car := match plan with
      | .carousel .. => true
      | _ => false
    let sts ← moveStores x s src t dst (fun _ => true)
    let s' ← scratchStores x s x.core sts
    return { st := s', reads := sourceTouches x src t, writes := tileTouches x dst
             segs := sourceSegs x s src t car (fun _ => true), group := if car then some g else none }

/-- An LDT at its start: a receiver uses none of its SRC fields (R183); a carousel LDT waits for its neighbours (R189); a
block-list LDT arms its stream context, as the running list, or as the shadow, which displaces a waiting one (R174, R179,
R180). -/
def ldtEffect : Effect := fun x e s => do
  let g := ldtMcg e.body
  match ← ldtPlan x e.body with
  | .receiver ge _ => receivePart x e s g ge
  | plan =>
    let dst ← ldtDst x e.body
    let t ← ldtSrc x e.body
    need (sameTile t dst) 0x04
    let ready := match plan with
      | .carousel ge i => carouselReady x s g ge i
      | _ => true
    if !ready then return { st := s, hold := .carousel }
    let nth := tgetD x.task.mcIssued g 0
    let s := numberLdt x g s plan
    match ← ldtSource x s e.body t (planCore x t plan) with
    | .tile core => ldtMove x e s plan nth (.tile core) t dst
    | .blocks d =>
      let ctx := x.task.ctxs.getD d.sid {}
      let setC (s : State) (n : StreamCtx) : State :=
        updTask s x.core x.task.lc fun t => { t with ctxs := t.ctxs.setIfInBounds d.sid n }
      if ctx.running.isSome then
        return { st := setC s { ctx with shadow := some e.uid }, hold := .shadow, sid := some d.sid, drop := ctx.shadow
                 reads := sourceTouches x (.blocks d) t, writes := tileTouches x dst
                 mcast := match plan with
                   | .sender _ => some { group := g, nth := nth, sender := true, blocks := 2 ^ 20 }
                   | _ => none
                 group := match plan with
                   | .carousel .. => some g
                   | _ => none }
      else
        let r ← ldtMove x e s plan nth (.blocks d) t dst
        return { r with st := setC r.st { running := some e.uid }, sid := some d.sid }

/-- The check of LDT's word, and of its operands as they stand at issue (R113, R102, R103). -/
def ldtWord (b : Body) : Ctx → Res Unit := fun x => do
  need (field b 0 77 = 0) 0x02
  let _ ← ldtDst x b
  let receives : Bool := match ldtMember x 1 b with
    | some (_, i) => i ≠ 0
    | none => false
  if receives then return ()
  let _ ← ldtSrc x b

/-- LDT (R113). -/
def execLdt (c : CoreNo) (b : Body) (s : State) : Host.Outcome State Fault Refusal :=
  .next (issueEngine false 0x01 b none [] false (ldtWord b) ldtEffect false s c)

/-! ### STT -/

def sttEffect : Effect := fun x e s => do
  let dst ← operand x e.body 98 [.jobmem]
  let t ← operand x e.body 84 [.scratch]
  need (sameTile t dst) 0x04
  let sts ← moveStores x s (.tile x.core) t dst (fun _ => true)
  let s' ← jobStores s x.job.asid sts
  return { st := s', reads := tileTouches x t, writes := tileTouches x dst
           segs := segsOf s x true (tileAddrs dst) }

/-- STT (R113). -/
def execStt (c : CoreNo) (b : Body) (s : State) : Host.Outcome State Fault Refusal :=
  .next (issueEngine false 0x02 b none [] false (fun _ => need (field b 0 84 = 0) 0x02) sttEffect false s c)

/-! ### GATH and SCAT -/

/-- The signed indices of an index tile: INT32, one column, at least `n` rows (R114, R115); the whole tile is bounded
(R104, R106). -/
def readIndices (x : Ctx) (s : State) (t : Tile) (n : Nat) : Res (List Int) := do
  need (t.fmt = .int32) 0x03
  need (t.cols = 1 && n ≤ t.rows) 0x04
  requireTile x s false t
  (List.range n).mapM fun i => do return toSigned 32 (← elemCode x s t i 0)

/-- A tile seen from row `i` of its tensor (R114). -/
def rowOfTensor (t : Tile) (i : Int) : Tile := { t with r0 := i, rows := 1 }

def gathEffect : Effect := fun x e s => do
  let dst ← operand x e.body 98 [.scratch]
  let t ← operand x e.body 84 [.jobmem, .scratch]
  let ixt ← operand x e.body 70 [.scratch]
  need (t.cols = dst.cols) 0x04
  need (t.fmt = dst.fmt) 0x03
  let ids ← readIndices x s ixt dst.rows
  requirePad dst
  if ids.any (fun i => t.extR ≤ i) then throw failBounds
  let picked := ids.map fun i => if i < 0 then none else some (rowOfTensor t i)
  let rows ← picked.mapM fun p => match p with
    | none => .ok (List.replicate dst.cols 0)
    | some r => (List.range dst.cols).mapM fun c => elemCode x s r 0 c
  let sts ← tileStores dst (at2 0 rows)
  let s' ← scratchStores x s x.core sts
  let addrs := picked.flatMap fun p => match p with
    | none => []
    | some r => tileAddrs r
  return { st := s', writes := tileTouches x dst
           reads := tileTouches x ixt ++ touchesOf t.space x.task.lc x.task.reserve x.job.footKib addrs
           segs := if t.space = .jobmem then
               picked.flatMap fun p => match p with
                 | none => []
                 | some r => segsOf s x false (tileAddrs r)
             else picked.flatMap fun p => match p with
               | none => []
               | some r => segsScratch ((tileAddrs r).length * fmtBits t.fmt) }

/-- GATH (R114). -/
def execGath (c : CoreNo) (b : Body) (s : State) : Host.Outcome State Fault Refusal :=
  .next (issueEngine false 0x03 b none [] false (fun _ => need (field b 0 70 = 0) 0x02) gathEffect false s c)

/-- One add of the memory-side adder in a format of R54. -/
def adderAdd (f : Fmt) (old v : Nat) : Nat :=
  match f with
  | .int32 => (old + v) % 2 ^ 32
  | .int64 => (old + v) % 2 ^ 64
  | _ => (convertNum f .rne false 0 (numAdd (decodeNum f old) (decodeNum f v))).code

/-- The formats of the adders (R54). -/
def adderFmt (f : Fmt) : Bool := f = .int32 || f = .int64 || f = .bf16 || f = .fp32

/-- One atomic add on a naturally aligned element of job memory (R324), with what watches the word. -/
def adderElem (x : Ctx) (s : State) (f : Fmt) (a : Int) (v : Nat) : Res (Nat × State) := do
  if a % fmtBits f ≠ 0 then throw (failIllegal 0x04)
  let old ← codeAt x s x.core .jobmem (fmtBits f) a
  let s ← jobStores s x.job.asid [{ sp := .jobmem, a := a, w := fmtBits f, code := adderAdd f old v }]
  let va := (a / 8).toNat
  return (old, landAdd (markWatches s x.job.asid va) x.job.asid va (toSigned 32 (v % 2 ^ 32)))

/-- SCAT at its start (R115). The order in which the rows' contributions to one element are added, and which row's value
a STORE leaves where two name an element, are not specified: rows go in order (DESIGN CHOICE, log 137). -/
def scatEffect : Effect := fun x e s => do
  let dst ← operand x e.body 98 [.jobmem]
  let t ← operand x e.body 84 [.scratch]
  let ixt ← operand x e.body 70 [.scratch]
  let add := field e.body 68 2 = 1
  need (t.cols = dst.cols) 0x04
  need (t.fmt = dst.fmt && (!add || adderFmt t.fmt)) 0x03
  let ids ← readIndices x s ixt t.rows
  requireTile x s false t
  if ids.any (fun i => dst.extR ≤ i) then throw failBounds
  let els := ids.zipIdx.flatMap fun (i, r) =>
    if i < 0 then [] else
      let row := rowOfTensor dst i
      (List.range t.cols).filterMap fun c => if isReal row 0 c then some (r, c, row) else none
  let padHit := !dst.pad && ids.any fun i => 0 ≤ i && dst.extC < dst.c0 + dst.cols
  if padHit then throw failBounds
  let w := fmtBits t.fmt
  let s' ← if add then
      els.foldlM (fun s (r, c, row) => do
        let v ← elemCode x s t r c
        let (_, s) ← adderElem x s t.fmt (elemBit row 0 c) v
        return s) s
    else do
      let sts ← els.mapM fun (r, c, row) => do return elemStore row 0 c (← elemCode x s t r c)
      jobStores s x.job.asid sts
  let addrs := els.map fun (_, c, row) => (elemBit row 0 c, w)
  return { st := s', reads := tileTouches x t ++ tileTouches x ixt
           writes := touchesOf .jobmem x.task.lc x.task.reserve x.job.footKib addrs
           segs := (ids.zipIdx.flatMap fun (i, _) =>
             if i < 0 then [] else segsOf s x true (tileAddrs (rowOfTensor dst i))) }

/-- SCAT (R115). -/
def execScat (c : CoreNo) (b : Body) (s : State) : Host.Outcome State Fault Refusal :=
  .next (issueEngine false 0x04 b none [] false
    (fun _ => need (field b 0 68 = 0 && field b 68 2 < 2) 0x02) scatEffect false s c)

/-! ### MADD -/

def maddEffect : Effect := fun x e s => do
  let op := field e.body 68 2
  let dst ← operand x e.body 98 [.jobmem]
  let t ← operand x e.body 84 [.scratch]
  need (adderFmt dst.fmt && t.fmt = dst.fmt && (op ≠ 2 || dst.fmt = .int64)) 0x03
  need (t.rows = dst.rows && t.cols = dst.cols) 0x04
  requireTile x s false t
  requireTile x s true dst
  let ret ← if op = 0 then pure none else do
    let r ← operand x e.body 70 [.scratch]
    need (r.fmt = dst.fmt) 0x03
    need (r.rows = dst.rows && r.cols = dst.cols) 0x04
    requireTile x s true r
    pure (some r)
  let els := (List.range dst.rows).flatMap fun r => (List.range dst.cols).filterMap fun c =>
    if isReal dst r c then some (r, c) else none
  let (s1, olds) ← els.foldlM (init := (s, ([] : List Store))) fun (s, olds) (r, c) => do
    let v ← elemCode x s t r c
    let a := elemBit dst r c
    let keep (old : Nat) : List Store :=
      match ret with
      | some q => if isReal q r c then
          [{ sp := .scratch, a := elemBit q r c, w := fmtBits q.fmt, code := old }] else []
      | none => []
    if op = 2 then
      if a % 64 ≠ 0 then throw (failIllegal 0x04)
      let expected ← (match ret with
        | some q => elemCode x s q r c
        | none => .ok 0)
      let old ← codeAt x s x.core .jobmem 64 a
      let s ← if old = expected then
          jobStores s x.job.asid [{ sp := .jobmem, a := a, w := 64, code := v }] else pure s
      return (s, olds ++ keep old)
    else
      let (old, s) ← adderElem x s dst.fmt a v
      return (s, olds ++ keep old)
  let s2 ← scratchStores x s1 x.core olds
  let retT := match ret with
    | some q => tileTouches x q
    | none => []
  return { st := s2, reads := tileTouches x t ++ retT, writes := tileTouches x dst ++ retT
           segs := segsOf s x true (tileAddrs dst) }

/-- MADD (R132). -/
def execMadd (c : CoreNo) (b : Body) (s : State) : Host.Outcome State Fault Refusal :=
  .next (issueEngine false 0x80 b none [] false
    (fun _ => need (field b 0 68 = 0 && field b 68 2 < 3) 0x02) maddEffect false s c)

/-! ### Multicast blocks, carousel starts, re-arms -/

/-- Member ranks that a multicast sender still serves: attached receivers. -/
def attached (ge : GroupEntry) (m : McastPart) : List Nat :=
  ((List.range ge.count).filter (· ≠ 0)).map (fun k => ge.first + k * ge.stride) |>.filter fun r => !m.out.contains r

/-- The entry of a member's nth LDT on a group. -/
def memberEntry (s : State) (j : Job) (rank g nth : Nat) : Option (Nat × Nat × QEntry) :=
  let c := j.cores.getD rank 0
  match getTask s c j.lc with
  | none => none
  | some t =>
    match t.fq.findIdx? (fun e => match e.mcast with
        | some m => m.group = g && m.nth = nth
        | none => false) with
    | none => none
    | some k => (t.fq[k]?).map fun e => (c, k, e)

/-- A member has started its nth LDT on the group, or is past it. -/
def memberIssued (s : State) (j : Job) (rank g : Nat) : Nat :=
  ((getTask s (j.cores.getD rank 0) j.lc).map fun t => tgetD t.mcIssued g 0).getD 0

/-- The member's core is spilled: it holds no multicast credit (R410). -/
def spilledRank (s : State) (j : Job) (rank : Nat) : Bool := !j.lc && (getCore s (j.cores.getD rank 0)).spill.isSome

/-- A detached receiver that has started fetches every block it has not received itself, from the sender's source in its own
slots (R185, R186), unless its core is spilled (R410) or an LC job has it (R168). -/
def catchUp (s : State) (jn : Nat) (j : Job) (d : Detached) : Res State := do
  match memberEntry s j d.rank d.group d.nth, tget j.groups d.group with
  | some (rc, rk, re), some ge =>
    match entryCtx s rc j.lc re, re.mcast with
    | some rx, some rm =>
      if !re.started || spilledRank s j d.rank || (!j.lc && (getCore s rc).lcHas) then return s else
        let (y, src, t) ← senderSource s rx (memberCore j ge 0) d.body d.ix
        let n := mcastBlocks src t
        let s ← deliver rx s y src t (← ldtDst rx re.body) rm.got n
        let s := setEntry s rc j.lc false rk
          { re with segs := re.segs ++ sourceSegs rx s src t false (inBlocks src t rm.got n)
                    mcast := some { rm with got := n, blocks := n, detached := true } }
        return updJob s jn fun j => { j with detached := j.detached.filter (· ≠ d) }
    | _, _ => return s
  | _, _ => return s

/-- Every receiver of a job that can catch up does so. -/
def catchUpAll (s : State) (jn : Nat) : Res State :=
  match tget s.jobs jn with
  | none => .ok s
  | some j => j.detached.foldlM (init := s) fun s d => catchUp s jn j d

/-- The segments of the sender's fetch that blocks 0 to `i` need have completed (R183, R184). -/
def blockFetched (x : Ctx) (s : State) (e : QEntry) (m : McastPart) (src : Source) (t : Tile) (i : Nat) : Bool :=
  ((sourceSegs x s src t false (inBlocks src t 0 (i + 1))).map (·.left)).sum ≤ m.total - (e.segs.map (·.left)).sum

/-- The sender of group `g` fetches its next block once its segments are in (R184): receivers that would lag by 9 are detached (R185), the
block is written to the sender's destination and delivered to every attached receiver that has started. -/
def mcastFetch (s : State) (jn : Nat) (j : Job) (g : Nat) (ge : GroupEntry) (k : Nat) (e : QEntry) (m : McastPart) :
    Res State := do
  let c := memberCore j ge 0
  match entryCtx s c j.lc e with
  | none => return s
  | some x =>
    let (y, src, t) ← senderSource s x c e.body e.ix
    let i := m.got
    if !blockFetched x s e m src t i then return s
    -- detach first
    let lagging := (attached ge m).filter fun r =>
      let got := match memberEntry s j r g m.nth with
        | some (_, _, re) => (re.mcast.map (·.got)).getD 0
        | none => if m.nth < memberIssued s j r g then m.blocks else 0
      9 ≤ i + 1 - got && got ≤ i + 1
    let s := lagging.foldl (fun s r => countDetach s x g r (j.cores.getD r 0)) s
    let notStarted := lagging.filter fun r => memberIssued s j r g ≤ m.nth || spilledRank s j r
    let s := updJob s jn fun j => { j with detached := notStarted.map (fun r =>
      ({ rank := r, group := g, nth := m.nth, body := e.body, ix := e.ix } : Detached)) ++ j.detached }
    let m := { m with out := lagging ++ m.out, got := i + 1 }
    -- the sender's own block
    let dst ← ldtDst x e.body
    let s ← deliver x s y src t dst i (i + 1)
    let s := setEntry s c j.lc false k { e with mcast := some m }
    -- a detached receiver that had started before its detaching fetches the whole tile itself
    let early := j.detached.filter fun d => d.group = g && d.nth = m.nth
    let s ← early.foldlM (init := s) fun s d => catchUp s jn j d
    -- each attached receiver that has started receives every block it has not
    (attached ge m).foldlM (init := s) fun s r => do
      match memberEntry s j r g m.nth with
      | none => return s
      | some (rc, rk, re) =>
        match entryCtx s rc j.lc re, re.mcast with
        | some rx, some rm =>
          if !re.started || spilledRank s j r then return s else
            let rdst ← ldtDst rx re.body
            let s ← deliver rx s y src t rdst rm.got m.got
            return setEntry s rc j.lc false rk { re with mcast := some { rm with got := m.got, blocks := m.blocks } }
        | _, _ => return s

/-- MCAST_BLOCK_FETCH (R184): the first multicast LDT of group `g` at its sender that still has blocks to fetch. -/
def execMcastBlockFetch (jn : Nat) (g : Fin 64) (s : State) : Host.Outcome State Fault Refusal :=
  .next <|
    match tget s.jobs jn with
    | none => s
    | some j =>
      match tget j.groups g.val with
      | none => s
      | some ge =>
        let c := memberCore j ge 0
        match getTask s c j.lc with
        | none => s
        | some t =>
          match t.fq.findIdx? (fun e => e.started && e.hold = .none && (match e.mcast with
              | some m => m.group = g.val && m.sender && m.got < m.blocks
              | none => false)) with
          | none => s
          | some k =>
            match t.fq[k]? with
            | none => s
            | some e =>
              match e.mcast with
              | none => s
              | some m =>
                match mcastFetch s jn j g.val ge k e m with
                | .ok s => s
                | .error f => failJob s jn c e.pc f

/-- A sender's multicast LDT is complete: its own blocks are fetched and every attached receiver has received
every block (R187). -/
def mcastDone (s : State) (j : Job) (e : QEntry) : Bool :=
  match e.mcast with
  | none => true
  | some m =>
    if !m.sender then true else
      match tget j.groups m.group with
      | none => true
      | some ge => (attached ge m).all fun r =>
          match memberEntry s j r m.group m.nth with
          | some (_, _, re) => (match re.mcast with
              | some rm => rm.got = m.blocks
              | none => true)
          | none => m.nth < memberIssued s j r m.group

/-- The entry of a task that waits in the shadow and whose list has become the running list of context `sid` (R179). -/
def shadowEntry (t : Task) (sid : Fin 8) : Option (Nat × QEntry) :=
  match (t.ctxs.getD sid.val {}).running with
  | none => none
  | some u =>
    match t.fq.findIdx? fun e => e.uid = u && e.hold = .shadow with
    | none => none
    | some k => (t.fq[k]?).map fun e => (k, e)

/-- A shadowed LDT proceeds (R179): with the group and number that it took when it counted as started. -/
def promote (x : Ctx) (e : QEntry) (s : State) : Res Eff := do
  let plan ← ldtPlan x e.body
  let dst ← ldtDst x e.body
  let t ← ldtSrc x e.body
  ldtMove x e s plan ((e.mcast.map (·.nth)).getD 0) (← ldtSource x s e.body t x.core) t dst

/-- REARM_PROMOTE (R179): the running list's last block has retired, the shadow has become the running list, and its LDT
proceeds; a best-effort one not while an LC job has the core (R168). -/
def execRearmPromote (c : CoreNo) (lc : Bool) (sid : Fin 8) (s : State) : Host.Outcome State Fault Refusal :=
  .next <|
    match getTask s c lc with
    | none => s
    | some t =>
      if !mayStart s c lc then s else
        match shadowEntry t sid with
        | none => s
        | some (k, e) =>
          match entryCtx s c lc e with
          | none => s
          | some x =>
            match promote x e s with
            | .error f => failJob s x.jobn c e.pc f
            | .ok r => setEntry (noteReads r.st c x.job.asid r.reads) c lc false k
                { e with hold := .none, segs := r.segs, reads := r.reads ++ e.reads, writes := r.writes ++ e.writes
                         mcast := r.mcast, group := r.group }

end Sys2Proof.Machine
end

