-- ==== Sys2Proof/Machine/Control.lean ====
section
/-! DEFINITION. The sequencer's own instructions: WAIT, SIG, BAR (R136 to R138), LOOP, JMP, SKIPL (R139 to R142,
R156 to R159), CNTA (R133), unassigned opcodes (R112), and the events of waits: the landing of a SIG's add, the
release of a WAIT on a counter word (R207), the time limit (R138). -/

namespace Sys2Proof.Machine

/-- Issue an instruction that completes in the sequencer (R91): its word is checked, then `run` is its effect. -/
def issueSeq (op : BitVec 8) (b : Body) (word : Res Unit) (run : Ctx → State → Res State) (s : State) (c : Nat) : State :=
  match issueCtx s c with
  | none => s
  | some x =>
    if ixStalls x.task op b then s else
      match (do wordCheck b true false; word; run x s) with
      | .error f => failHere s x f
      | .ok s => s

/-- DONE_SEM of an instruction that completes at once (R107). -/
def seqDone (x : Ctx) (b : Body) (s : State) : State := semAdd s x.core x.task.lc x.task.pc (doneSem b) 1

/-- The counter operand of CNTA, WAIT and SIG: one real INT32 element of job memory (R136). -/
def counterVa (x : Ctx) (b : Body) (lo : Nat) : Res Nat := do
  let t ← operand x b lo [.jobmem]
  need (t.fmt = .int32) 0x03
  need (t.rows = 1 && t.cols = 1) 0x04
  if !isReal t 0 0 ∨ elemBit t 0 0 < 0 then throw failBounds
  return (elemBit t 0 0 / 8).toNat

/-- The signed counter word at an address. -/
def counterAt (s : State) (asid va : Nat) : Res Int := do return toSigned 32 (← jobNat s asid va 4)

/-- The channel controller that holds a counter word: die and physical channel; none outside DRAM (R207). -/
def wordChannel (s : State) (asid va : Nat) : Option (Nat × Nat) :=
  match findPte s asid va with
  | some p => if p.tier = 2 ∨ p.tier = 3 then some (p.die, dpaChannel s p.die (p.frame * 65536 + va % 65536)) else none
  | none => none

/-- The watches that the tasks of the package hold on words of a channel (R207). The table of a channel's controller is this
list, so at a migration it goes with the map to the target (R315 step 4). -/
def watchesOn (s : State) (ch : Nat × Nat) : Nat :=
  (s.cores.flatMap fun k => k.2.be.toList ++ k.2.lc.toList).countP fun t =>
    match t.blocked with
    | some (.watch va _ true _) => ((tget s.jobs t.job).bind fun j => wordChannel s j.asid va) = some ch
    | _ => false

/-- A WAIT finds a free watch: its word's controller keeps 256 (R207). -/
def watchFree (s : State) (asid va : Nat) : Bool :=
  match wordChannel s asid va with
  | some ch => watchesOn s ch < 256
  | none => false

/-- WAIT (R136). -/
def execWait (c : CoreNo) (b : Body) (s : State) : Host.Outcome State Fault Refusal :=
  .next <| issueSeq 0xA0 b (need (field b 0 73 = 0) 0x02) (fun x s => do
    if bit b 111 then
      let va ← counterVa x b 77
      let least := ixVal x.ix (field b 73 4)
      if least ≤ (← counterAt s x.job.asid va) then return seqDone x b (nextPc s x)
      else return beginWait s x b (.watch va least (watchFree s x.job.asid va) false)
    else
      need (field b 107 4 ≠ 0) 0x0B
      return beginWait s x b (.sem (field b 107 4) (field b 91 16))) s c

/-- SIG (R136). -/
def execSig (c : CoreNo) (b : Body) (s : State) : Host.Outcome State Fault Refusal :=
  .next <| issueSeq 0xA1 b (need (field b 0 77 = 0) 0x02) (fun x s => do
    if bit b 111 then
      let va ← counterVa x b 77
      return beginWait s x b (.sigMem va (field b 91 16))
    else
      need (field b 107 4 ≠ 0) 0x0B
      return beginWait s x b (.sigSem (field b 107 4) (field b 91 16))) s c

/-- BAR (R137). -/
def execBar (c : CoreNo) (b : Body) (s : State) : Host.Outcome State Fault Refusal :=
  .next <| issueSeq 0xA2 b (need (field b 0 92 = 0) 0x02)
    (fun x s => .ok (beginWait s x b (.barPre (field b 108 4) (field b 92 16)))) s c

/-- LOOP (R140). -/
def execLoop (c : CoreNo) (b : Body) (s : State) : Host.Outcome State Fault Refusal :=
  let cix := field b 108 4
  let lix := field b 104 4
  let mode := field b 102 2
  let imm := toSigned 32 (field b 50 32)
  .next <| issueSeq 0xB0 b (need (field b 0 50 = 0 && (mode ≠ 0 || imm ≠ 0)) 0x02) (fun x s => do
    need (cix ≠ 0) 0x07
    let v : Int := match mode with
      | 1 => imm
      | 3 => ixVal x.ix lix + imm
      | _ => ixVal x.ix cix + imm
    let s := setIx s x cix v
    let cur := toSigned 32 (ofSigned 32 v)
    let lim := if lix = cix then cur else ixVal x.ix lix
    let s := seqDone x b s
    if mode = 0 ∧ ((0 < imm ∧ cur < lim) ∨ (imm < 0 ∧ lim < cur)) then return branch s x (field b 82 20)
    else return nextPc s x) s c

/-- The comparison of JMP (R141). -/
def cmpHolds (cmp : Nat) (a b : Int) : Bool :=
  match cmp with
  | 0 => a = b
  | 1 => a ≠ b
  | 2 => a < b
  | _ => b ≤ a

/-- JMP (R141). -/
def execJmp (c : CoreNo) (b : Body) (s : State) : Host.Outcome State Fault Refusal :=
  .next <| issueSeq 0xB1 b (need (field b 0 79 = 0 && field b 88 3 < 4) 0x02) (fun x s => do
    let s := seqDone x b s
    if bit b 91 ∧ !cmpHolds (field b 88 3) (ixVal x.ix (field b 84 4)) (ixVal x.ix (field b 80 4)) then
      return nextPc s x
    else if bit b 79 then return updTask s x.core x.task.lc fun t => { t with ended := true, endNs := some s.nowNs }
    else return branch s x (field b 92 20)) s c

/-- The clamp of SKIPL steps 1 and 2: the register, OK_CLAMPED, a record, a counter (R156, R159, R164). -/
def skiplClamp (x : Ctx) (s : State) (lix : Nat) (len : Int) (v pmax : Nat) : State :=
  let d := coreDie x.core
  let s := raiseOk (setIx s x lix v) x.jobn 2
  sillage (bump s 0xE044 (d + 1) 1) 0x0008 d (jobField x.job)
    (packItems [(16, x.core), (24, x.task.pc), (32, ofSigned 32 len), (32, pmax)])

/-- SKIPL (R142, R156). -/
def execSkipl (c : CoreNo) (b : Body) (s : State) : Host.Outcome State Fault Refusal :=
  let tix := field b 108 4
  let lix := field b 104 4
  let pmax := field b 84 20
  let count := field b 68 16
  let tsize := field b 52 16
  .next <| issueSeq 0xB2 b (need (field b 0 52 = 0 && count ≠ 0 && tsize ≠ 0) 0x02) (fun x s => do
    let len := ixVal x.ix lix
    let low := len < 0
    let high := (pmax : Int) < len
    let s := if low then skiplClamp x s lix len 0 pmax else if high then skiplClamp x s lix len pmax pmax else s
    let len' : Int := if low then 0 else if high then pmax else len
    let s := if len' = 0 then bump (raiseOk s x.jobn 1) 0xE045 (coreDie x.core + 1) 1 else s
    let tv := if tix = lix then len' else ixVal x.ix tix
    let skip := tv < 0 ∨ len' ≤ tv * tsize
    let s := if skip then
        updTask s x.core x.task.lc fun t =>
          { t with skips := { lo := t.pc + 1, hi := t.pc + 1 + count, zero := len' = 0 } :: t.skips }
      else s
    return nextPc (seqDone x b s) x) s c

/-- CNTA (R133). -/
def execCnta (c : CoreNo) (b : Body) (s : State) : Host.Outcome State Fault Refusal :=
  let dix := field b 94 4
  let inc := field b 74 16
  .next <| issueSeq 0x81 b (need (field b 0 54 = 0 && inc ≠ 0) 0x02) (fun x s => do
    need (dix ≠ 0) 0x07
    let va ← counterVa x b 98
    let (old, s) ← memAdd32 s x.job.asid va inc
    let v := toSigned 32 old
    let s := seqDone x b (setIx s x dix v)
    let lim := if field b 90 4 = dix then v else ixVal x.ix (field b 90 4)
    if lim ≤ v then return branch s x (field b 54 20) else return nextPc s x) s c

/-- An assigned opcode (R112). -/
def assigned (op : BitVec 8) : Bool :=
  (engineOf op).isSome || [0x81, 0xA0, 0xA1, 0xA2, 0xB0, 0xB1, 0xB2].contains op.toNat

/-- UNASSIGNED_OPCODE (R112): FAIL_ILLEGAL_INSTR, reason OPCODE. -/
def execUnassignedOpcode (c : CoreNo) (op : BitVec 8) (_b : Body) (s : State) : Host.Outcome State Fault Refusal :=
  .next <|
    match issueCtx s c with
    | none => s
    | some x => if assigned op then s else failHere s x (failIllegal 0x01)

/-- PASS_OVER (R157, R158): an engine instruction of a skipped body, WI = 0, or WI = 1 where some length was above
zero: its semaphore adds in the cycle it is passed over. -/
def execPassOver (c : CoreNo) (op : BitVec 8) (b : Body) (s : State) : Host.Outcome State Fault Refusal :=
  .next <|
    match issueCtx s c with
    | none => s
    | some x =>
      let sk := liveSkips x.task
      if sk.isEmpty || (engineOf op).isNone || (wiBit b && sk.all (·.zero)) then s
      else seqDone x b (nextPc s x)

/-! ### Events of waits -/

/-- SIG_ADD_LANDS (R136): the oldest add of a SIG with MEMS = 1 lands; the SIG retires. -/
def execSigAddLands (c : CoreNo) (lc : Bool) (s : State) : Host.Outcome State Fault Refusal :=
  .next <|
    match getTask s c lc with
    | none => s
    | some t =>
      match t.sigAdds, tget s.jobs t.job with
      | (va, n, dn, pc) :: rest, some j =>
        let s := updTask s c lc fun t => { t with sigAdds := rest }
        (match memAdd32 s j.asid va n with
         | .error f => failJob s t.job c pc f
         | .ok (_, s) => poke (semAdd s c lc pc dn 1) c lc)
      | _, _ => s

/-- WATCH_RELEASE (R207): an add that met the condition of the core's watch releases the core. -/
def execWatchRelease (c : CoreNo) (lc : Bool) (s : State) : Host.Outcome State Fault Refusal :=
  .next <|
    match (getTask s c lc).bind (·.blocked) with
    | some (.watch _ _ true true) => finishWait s c lc true
    | _ => s

/-- WATCH_POLL (R207): a WAIT that found no free watch reads its word again, 2 µs after it last did. -/
def execWatchPoll (c : CoreNo) (lc : Bool) (s : State) : Host.Outcome State Fault Refusal :=
  .next <|
    match getTask s c lc with
    | none => s
    | some t =>
      match t.blocked, tget s.jobs t.job with
      | some (.watch va least false _), some j =>
        if s.nowNs < max t.pollNs t.since + 2000 then s else
          (match counterAt s j.asid va with
           | .error f => failJob s t.job c t.pc f
           | .ok v => if least ≤ v then finishWait s c lc true
                      else updTask s c lc fun t => { t with pollNs := s.nowNs })
      | _, _ => s

/-- The wait is one that R138 bounds. -/
def bounded : Option Blocked → Bool
  | some (.sem ..) | some (.watch ..) | some (.barPre ..) | some (.bar ..) => true
  | _ => false

/-- SYNC_TIMEOUT (R138): a WAIT or BAR has waited longer than SYNC_TIMEOUT_US. -/
def execSyncTimeout (c : CoreNo) (lc : Bool) (s : State) : Host.Outcome State Fault Refusal :=
  .next <|
    match getTask s c lc with
    | none => s
    | some t =>
      if bounded t.blocked ∧ t.timeout * 1000 < s.nowNs - t.since then failJob s t.job c t.pc failTimeout else s

end Sys2Proof.Machine
end

