-- ==== Sys2Proof/Machine/Matrix.lean ====
section
/-! DEFINITION. MMA and MMAX (R116 to R120) on the quad of R58 to R68: dot cells (R47, R60, R61), block-scaled sums
(R41), split mode (R68, R120), the fused epilogue (R83, R119), identity writes (R160). -/

namespace Sys2Proof.Machine

/-- Convert values under RND and SAT into those real elements of a destination tile that `sel` picks, count the
special values and write them (R110, R53, R151). -/
def writeSel (x : Ctx) (e : QEntry) (s : State) (dst : Tile) (md : Rnd) (sat : Bool) (sel : Nat → Nat → Bool)
    (v : Nat → Nat → Num) : Res State := do
  requirePad dst
  let els := (List.range dst.rows).flatMap fun r => (List.range dst.cols).filterMap fun c =>
    if isReal dst r c && sel r c then some (r, c) else none
  let (cs, s1) := convAll s x.core dst.fmt md sat (els.map fun p => v p.1 p.2)
  let sts := (els.zip cs).map fun (p, k) => elemStore dst p.1 p.2 k.code
  let s2 ← doStores x s1 sts
  return countConv x e.pc s2 cs

/-- As `writeSel`, for every real element. -/
def writeNums (x : Ctx) (e : QEntry) (s : State) (dst : Tile) (md : Rnd) (sat : Bool) (v : Nat → Nat → Num) :
    Res State := writeSel x e s dst md sat (fun _ _ => true) v

/-- Cut a list into pieces of `n`, by `fuel`. -/
def pieces {α : Type} (n : Nat) : Nat → List α → List (List α)
  | 0, _ => []
  | k + 1, l => if l.isEmpty then [] else l.take n :: pieces n k (l.drop n)

/-- The operand formats of the accumulate input and the output (R118). -/
def isDFmt (f : Fmt) : Bool :=
  match f with
  | .fp32 | .bf16 | .fp16 | .e4m3 | .e5m2 | .fp4 => true
  | _ => false

/-- The fields of a matrix instruction. -/
structure MatIns where
  mx    : Bool
  a     : Nat
  sa    : Nat
  b     : Nat
  sb    : Nat
  c     : Nat
  d     : Nat
  e     : Nat
  f     : Nat
  cen   : Bool
  split : Bool
  samew : Bool
  scb   : Bool
  func  : Nat
  pwl   : Bool
  binop : Nat
  rnd   : Nat
  sat   : Bool

/-- MMA's fields; the numbers of operand fields are their lowest bits (R116). -/
def mmaIns (b : Body) : MatIns :=
  { mx := false, a := 98, sa := 0, b := 84, sb := 0, c := 70, d := 56, e := 42, f := 28
    cen := bit b 27, split := bit b 26, samew := bit b 25, scb := bit b 24, func := field b 20 4, pwl := bit b 19
    binop := field b 16 3, rnd := field b 14 2, sat := bit b 13 }

/-- MMAX's fields (R117). -/
def mmaxIns (b : Body) : MatIns :=
  { mx := true, a := 98, sa := 84, b := 70, sb := 56, c := 42, d := 28, e := 0, f := 0
    cen := bit b 27, split := bit b 26, samew := bit b 25, scb := false, func := field b 21 4, pwl := bit b 20
    binop := 0, rnd := field b 18 2, sat := bit b 17 }

/-- One of the problems of a tile: its operands, and the first column of the quad that it uses (R68, R118). -/
structure Problem where
  col : Nat
  a : Tile
  b : Tile
  sa : Option Tile
  sb : Option Tile
  c : Option Tile
  d : Tile
  e : Option Tile
  f : Option Tile
  depth : Nat

/-- Operand `i` of a four-descriptor field (R120). -/
def opAt (x : Ctx) (b : Body) (lo i : Nat) (zero : Bool) : Res Tile :=
  let o := specAt b lo
  operandAt x (o.td + i) o.ixa o.ixb [.scratch] zero

/-- A scale plane of an MX operand (R117). -/
def scalePlane (x : Ctx) (b : Body) (lo i : Nat) (t : Tile) : Res (Option Tile) :=
  if isMx t.fmt then do
    let p ← opAt x b lo i false
    need (p.fmt = .e8m0) 0x03
    need (p.rows = t.rows && p.cols * 32 = t.cols) 0x04
    return some p
  else .ok none

/-- The checks of one problem (R116 to R118, R120). -/
def problem (x : Ctx) (w : Body) (m : MatIns) (i : Nat) (a : Tile) : Res Problem := do
  let bi := if m.split && !m.samew then i else 0
  let b ← opAt x w m.b bi false
  let depth ← match arrayDepth a.fmt b.fmt with
    | some d => .ok d
    | none => .error (failIllegal 0x03)
  need (m.mx || (!isMx a.fmt && !isMx b.fmt)) 0x03
  let c ← if m.cen then (opAt x w m.c i false).map some else .ok none
  let d ← opAt x w m.d i false
  need (isDFmt d.fmt && ((c.map fun t => isDFmt t.fmt).getD true)) 0x03
  need (a.rows % 8 = 0 && 8 ≤ a.rows && a.rows ≤ 512) 0x04
  need (!(x.task.lc) || a.rows ≤ 128) 0x08
  need (b.rows % 8 = 0 && 8 ≤ b.rows && b.rows ≤ 32 && (!m.split || b.rows = 8)) 0x04
  need (a.cols = b.cols && a.cols % depth = 0 && a.cols ≤ 2048) 0x04
  need (!(isMx a.fmt || isMx b.fmt) || a.cols % 32 = 0) 0x09
  need (d.rows = a.rows && d.cols = b.rows) 0x04
  need ((c.map fun t => t.rows = a.rows && t.cols = b.rows).getD true) 0x04
  let sa ← if m.mx then scalePlane x w m.sa i a else .ok none
  let sb ← if m.mx then scalePlane x w m.sb bi b else .ok none
  let e ← if m.scb then do
      let t ← opAt x w m.e i false
      need (t.fmt = .fp32) 0x03
      need (t.rows = 2 && t.cols = b.rows) 0x04
      pure (some t)
    else pure none
  let f ← if m.binop ≠ 0 then do
      let t ← opAt x w m.f i false
      need (!isMx t.fmt && t.fmt ≠ .e8m0) 0x03
      need (t.rows = a.rows && t.cols = b.rows) 0x04
      pure (some t)
    else pure none
  return { col := 8 * (if m.split then i else 0), a := a, b := b, sa := sa, sb := sb, c := c, d := d, e := e, f := f, depth := depth }

/-- The four-descriptor fields of a split tile that every problem uses, but for the scale planes (R120). -/
def fourFields (m : MatIns) : List Nat :=
  [m.a] ++ (if m.samew then [] else [m.b]) ++ (if m.cen then [m.c] else []) ++ [m.d]
    ++ (if m.scb then [m.e] else []) ++ (if m.binop ≠ 0 then [m.f] else [])

/-- The problems of a tile that are not empty, with the descriptor checks of split mode (R120): TD + 3 past td63 first, in
the fields that are used; SB is used where a problem that is not empty has block-scaled weights. -/
def problems (x : Ctx) (w : Body) (m : MatIns) : Res (List Problem) := do
  if m.split then
    let tdOk (lo : Nat) : Bool := (specAt w lo).td + 3 ≤ 63
    need ((fourFields m).all tdOk) 0x0D
    let as ← (List.range 4).mapM fun i => opAt x w m.a i true
    let a0 := as.headD { space := .scratch, fmt := .fp32, rows := 0, cols := 0, base := 0, pitch := 0, r0 := 0
                         c0 := 0, extR := 0, extC := 0, pad := false, desc := 0 }
    let used := as.zipIdx.filter fun p => p.1.rows ≠ 0
    let bMx := used.any fun p =>
      ((fmtOfCode (tdFmt (x.task.td.getD ((specAt w m.b).td + (if m.samew then 0 else p.2)) 0))).map isMx).getD false
    need (!(m.mx && isMx a0.fmt) || tdOk m.sa) 0x0D
    need (!(m.mx && !m.samew && bMx) || tdOk m.sb) 0x0D
    need (as.all fun a => a.fmt = a0.fmt) 0x03
    need (as.all fun a => a.cols = a0.cols && a.rows % 8 = 0 && a.rows ≤ 512) 0x04
    used.mapM fun (a, i) => problem x w m i a
  else do
    let a ← opAt x w m.a 0 false
    return [← problem x w m 0 a]

/-- Sum of products of a piece of K added to the accumulator with one rounding (R47). R69 has a cell whose slots are all
gated pass the partial sum on unchanged, R49 makes −0 plus correctly signed zeros +0 unless every term is −0; as R70 says
that gating never changes a result, the sum of R49 is taken (DEDUCED, log 140). -/
def dotStep (acc : Num) (ps : List (Num × Num)) : Num :=
  toFp32 .rne (ps.foldl (fun v p => numAdd v (numMul p.1 p.2)) acc)

/-- A scaled block added to the accumulator with one rounding (R41). -/
def blockStep (acc : Num) (ps : List (Num × Num)) (sa sb : Nat) : Num :=
  if sa = 255 ∨ sb = 255 then .nan else
    let sum := numSum (ps.map fun p => numMul p.1 p.2)
    let scaled := match sum with
      | .fin n m e => Num.fin n m (e + sa + sb - 254)
      | v => v
    toFp32 .rne (numAdd acc scaled)

/-- One dot product from an accumulator value, over pieces of K (R47, R41). -/
def dotFrom (mx : Bool) (unit : Nat) (acc : Num) (av bv : List Num) (sa sb : List Nat) : Num :=
  let ps := pieces unit (av.length + 1) (av.zip bv)
  ps.zipIdx.foldl (fun v (p, j) => if mx then blockStep v p (sa.getD j 127) (sb.getD j 127) else dotStep v p) acc

/-- The operation of BINOP (R116): 1 ADD, 2 SUB, 3 MUL, 4 MIN, 5 MAX, rounded to nearest even (R51). -/
def binopNum (md : Rnd) (op : Nat) (a b : Num) : Num :=
  match op with
  | 1 => fAdd md a b
  | 2 => fSub md a b
  | 3 => fMul md a b
  | 4 => numMin a b
  | 5 => numMax a b
  | _ => a

/-- The scale codes of an operand's rows: 127 for an operand that is not block-scaled (R41). -/
def scaleCodes (x : Ctx) (s : State) (p : Option Tile) : Res (List (List Nat)) :=
  match p with
  | none => .ok []
  | some t => tileCodes x s t

/-- The values of an optional operand. -/
def optNums (x : Ctx) (s : State) (p : Option Tile) : Res (List (List Num)) :=
  match p with
  | none => .ok []
  | some t => tileNums x s t

/-- What a problem reads before any problem of its tile writes: they run side by side (R68). -/
structure Fed where
  codes : List (List Nat)  -- the weights
  banked : List (List Num)  -- the sums after the passes before the last
  sums : List (List Num)  -- the sums that leave the last pass
  ev : List (List Num)  -- scale and bias
  fv : List (List Num)  -- the binary operation's second operand

/-- A problem's passes (R61, R47, R41). -/
def feed (x : Ctx) (m : MatIns) (s : State) (p : Problem) : Res Fed := do
  let av ← tileNums x s p.a
  let bv ← tileNums x s p.b
  let codes ← tileCodes x s p.b
  let sa ← scaleCodes x s p.sa
  let sb ← scaleCodes x s p.sb
  let cv ← optNums x s p.c
  let ev ← optNums x s p.e
  let fv ← optNums x s p.f
  let unit := if m.mx then 32 else p.depth / 8
  -- the pieces of all passes before the last end at `head`
  let head := (p.a.cols - p.depth) / unit * unit
  let acc0 (r c : Nat) : Num := if p.c.isSome then toFp32 .rne (at2 numZero cv r c) else numZero
  let grid (f : Nat → Nat → Num) := (List.range p.a.rows).map fun r => (List.range p.b.rows).map (f r)
  let banked := grid fun r c =>
    dotFrom m.mx unit (acc0 r c) ((av.getD r []).take head) ((bv.getD c []).take head) (sa.getD r []) (sb.getD c [])
  let sums := grid fun r c =>
    dotFrom m.mx unit (at2 numZero banked r c) ((av.getD r []).drop head) ((bv.getD c []).drop head)
      ((sa.getD r []).drop (head / 32)) ((sb.getD c []).drop (head / 32))
  return { codes := codes, banked := banked, sums := sums, ev := ev, fv := fv }

/-! ### The registers of the quad (R58, R63, R64, R82) -/

/-- The address of row `r`, column `c` in a bank of 32 columns. -/
def bankAt (r c : Nat) : Nat := 4 * (32 * r + c)

/-- The weights that row `r` of a column holds: a slot of 32 / k bits for each of its k weights (R60). -/
def weightCell (depth : Nat) (column : List Nat) (r : Nat) : Nat :=
  let k := depth / 8
  ((List.range k).map fun i => column.getD (r * k + i) 0 * 2 ^ (i * (32 / k))).sum

/-- Fill the cells of `n` columns from `col`. -/
def loadCells (m : Mem) (col n : Nat) (v : Nat → Nat → List Byte) : Mem :=
  ((List.range 8).flatMap fun r => (List.range n).map fun c => (r, c)).foldl
    (fun m (r, c) => memWrites m (bankAt r (col + c)) (v r c)) m

/-- The weight registers of `n` columns after passes whose last two, newest first, loaded `blocks`, each a list of columns
(R63): the last pass's are live; those of the pass before it, or what was live, have gone back to the shadow. An idle
column holds zeros (R64). -/
def loadPasses (k : Core) (col n depth : Nat) (blocks : List (List (List Nat))) : Core :=
  let w (i r c : Nat) : List Byte := leBytes 4 (weightCell depth ((blocks.getD i []).getD c []) r)
  { k with live := loadCells k.live col n (w 0)
           shadow := loadCells k.shadow col n fun r c =>
             if blocks.length < 2 then memReads k.live (bankAt r (col + c)) 4 else w 1 r c }

/-- The accumulator that a class's tiles use, after the passes before the last (R58, R61). -/
def bankRows (m : Mem) (col : Nat) (v : List (List Num)) : Mem :=
  (v.zipIdx.flatMap fun (row, r) => row.zipIdx.map fun (u, c) => (r, c, u)).foldl
    (fun m (r, c, u) => memWrites m (bankAt r (col + c)) (leBytes 4 (fp32Bits u))) m

def storeAcc (lc : Bool) (k : Core) (col : Nat) (v : List (List Num)) : Core :=
  if lc then { k with lcAcc := bankRows k.lcAcc col v } else { k with acc := bankRows k.acc col v }

/-- Put FP32 codes into the per-column registers from `col` (R82). -/
def setCols (l : List Nat) (col : Nat) (v : List Nat) : List Nat := l.take col ++ v ++ l.drop (col + v.length)

/-- The last two of `n` passes, newest first. -/
def lastTwo {α : Type} (f : Nat → α) (n : Nat) : List α :=
  if n = 0 then [] else if n = 1 then [f 0] else [f (n - 1), f (n - 2)]

/-- The quad's registers after a problem's passes. -/
def keepPasses (x : Ctx) (m : MatIns) (s : State) (p : Problem) (f : Fed) : State :=
  updCore s x.core fun k =>
    let passes := p.a.cols / p.depth
    let block (i : Nat) := f.codes.map fun row => (row.drop (i * p.depth)).take p.depth
    let k := loadPasses k p.col (if m.split then 8 else 32) p.depth (lastTwo block passes)
    let k := if passes < 2 then k else storeAcc x.task.lc k p.col f.banked
    if p.e.isNone then k
    else { k with scale := setCols k.scale p.col ((f.ev.getD 0 []).map fp32Bits)
                  bias := setCols k.bias p.col ((f.ev.getD 1 []).map fp32Bits) }

/-! ### The epilogue (R83, R119) -/

/-- Step 1: scale and bias. -/
def scaledSums (p : Problem) (f : Fed) : List (List Num) :=
  if p.e.isNone then f.sums
  else f.sums.map fun row => row.zipIdx.map fun (v, c) => fFma .rne v (at2 numOne f.ev 0 c) (at2 numZero f.ev 1 c)

/-- The element rows of problems side by side as they enter the pipeline: row by row, S0's lanes first (R68, R82). -/
def laneOrder (ps : List (List (List Num))) : List Num :=
  (List.range ((ps.map (·.length)).foldl max 0)).flatMap fun r => ps.flatMap fun p => p.getD r []

/-- The place of element (r, c) of problem `i` in that order. -/
def laneAt (ps : List (List (List Num))) (i r c : Nat) : Nat :=
  ((List.range r).map fun k => (ps.map fun p => (p.getD k []).length).sum).sum
    + ((ps.take i).map fun p => (p.getD r []).length).sum + c

/-- The problems of a tile (R61, R83, R119): they read side by side and go through the pipeline row by row (R68). Where the
regions that they write to overlap, the later problem's output stands (DESIGN CHOICE, log 141). -/
def runProblems (x : Ctx) (e : QEntry) (m : MatIns) (s : State) (ps : List Problem) : Res State := do
  let fed ← ps.mapM (feed x m s)
  let both := ps.zip fed
  let s := both.foldl (fun s q => keepPasses x m s q.1 q.2) s
  let grids := both.map fun q => scaledSums q.1 q.2
  -- FUNC (step 2)
  let lanes := laneOrder grids
  let (vals, s) := if m.func = 0 then (lanes, s) else coreFn x e.pc s m.func m.pwl e.fault lanes
  -- BINOP with F (step 3) and the conversion into D (step 4)
  both.zipIdx.foldlM (init := s) fun s (q, i) =>
    writeNums x e s q.1.d ((rndOfCode m.rnd).getD .rne) m.sat fun r c =>
      let v := vals.getD (laneAt grids i r c) numZero
      if q.1.f.isNone then v else binopNum .rne m.binop v (toFp32 .rne (at2 numZero q.2.fv r c))

/-- The identity write of a matrix tile (R160): +0, or the C element with CEN = 1, without the epilogue. Of the operands that
it does not read, the descriptors are checked (VALID, space, format, shape) and neither padding nor bounds (DESIGN CHOICE,
log 142). -/
def identProblem (x : Ctx) (e : QEntry) (m : MatIns) (s : State) (p : Problem) : Res State := do
  let cv ← optNums x s p.c
  writeNums x e s p.d ((rndOfCode m.rnd).getD .rne) m.sat (fun r c => at2 numZero cv r c)

def optTouches (x : Ctx) (t : Option Tile) : List Touch :=
  match t with
  | some t => tileTouches x t
  | none => []

def problemReads (x : Ctx) (p : Problem) : List Touch :=
  tileTouches x p.a ++ tileTouches x p.b ++ optTouches x p.sa ++ optTouches x p.sb ++ optTouches x p.c
    ++ optTouches x p.e ++ optTouches x p.f

def matEffect (m : Body → MatIns) : Effect := fun x e s => do
  let ins := m e.body
  let ps ← problems x e.body ins
  let s' ← if e.ident then ps.foldlM (init := s) fun s p => identProblem x e ins s p else runProblems x e ins s ps
  return { st := s', reads := ps.flatMap (problemReads x), writes := ps.flatMap fun p => tileTouches x p.d }

/-- The checks of a matrix instruction's word: reserved bits and reserved values (R108, R110). -/
def matWord (m : MatIns) (low : Nat) : Res Unit :=
  need (low = 0 && m.func ≤ 8 && m.binop ≤ 5 && m.rnd ≠ 3) 0x02

def mmaWord (b : Body) : Ctx → Res Unit := fun _ => matWord (mmaIns b) (field b 0 13)
def mmaxWord (b : Body) : Ctx → Res Unit := fun _ => matWord (mmaxIns b) (field b 0 17)

/-- MMA (R116). -/
def execMma (c : CoreNo) (b : Body) (fault : Option Nat) (s : State) : Host.Outcome State Fault Refusal :=
  .next (issueEngine true 0x10 b fault [] true (mmaWord b) (matEffect mmaIns) false s c)

/-- MMAX (R117). -/
def execMmax (c : CoreNo) (b : Body) (fault : Option Nat) (s : State) : Host.Outcome State Fault Refusal :=
  .next (issueEngine true 0x11 b fault [] true (mmaxWord b) (matEffect mmaxIns) false s c)

end Sys2Proof.Machine
end

