-- ==== Sys2Proof/Machine/Element.lean ====
section
/-! DEFINITION. The element-wise instructions EWU, EWB, ACT (R121 to R123, R50, R82, R160) and CVT (R135, R39, R40,
R53). -/

namespace Sys2Proof.Machine

/-- An element-wise operand: neither block-scaled nor E8M0 (R50). -/
def plainFmt (t : Tile) : Res Unit := need (!isMx t.fmt && t.fmt ≠ .e8m0) 0x03

/-- Sum of a row in the part's own fixed order (R121): at each step the order names the two partial sums to add. -/
def rsumBy (cols : Nat) : Nat → List Num → Num
  | _, [] => numZero
  | _, [x] => x
  | 0, x :: _ => x
  | k + 1, l =>
    let (i, j) := Config.rsumOrder cols k
    let i := i % l.length
    let rest := l.eraseIdx i
    let j := j % rest.length
    let v := fAdd .rne (l.getD i numZero) (rest.getD j numZero)
    rsumBy cols k (v :: rest.eraseIdx j)

/-- The reductions 7 RSUM, 8 RMAX, 9 RMIN over the real elements of a row (R121). -/
def reduceRow (op cols : Nat) (xs : List Num) : Num :=
  match op with
  | 7 => rsumBy cols xs.length xs
  | 8 => xs.foldl numMax (.inf true)
  | _ => xs.foldl numMin (.inf false)

/-- The unary operations 0 to 4 (R121). -/
def unaryNum (md : Rnd) (op : Nat) (imm v : Num) : Num :=
  match op with
  | 1 => numNeg v
  | 2 => numAbs v
  | 3 => fMul md v imm
  | 4 => fAdd md v imm
  | _ => v

/-- Values of a tile widened to FP32 (R50). -/
def widened (x : Ctx) (s : State) (t : Tile) : Res (List (List Num)) := do
  return (← tileNums x s t).map (·.map (toFp32 .rne))

def ewuEffect : Effect := fun x e s => do
  let b := e.body
  let op := field b 80 4
  let md := (rndOfCode (field b 77 2)).getD .rne
  let src ← operand x b 98 [.scratch]
  let dst ← operand x b 84 [.scratch]
  plainFmt src
  plainFmt dst
  need (dst.rows = src.rows && dst.cols = (if 7 ≤ op then 1 else src.cols)) 0x04
  let out (s : State) (v : Nat → Nat → Num) : Res Eff := do
    let s' ← writeNums x e s dst md (bit b 76) v
    return { st := s', reads := if e.ident then [] else tileTouches x src, writes := tileTouches x dst }
  if e.ident then out s fun _ _ => reduceRow op src.cols [] else
    requirePad src
    let v ← widened x s src
    if 7 ≤ op then
      let rows := v.zipIdx.map fun (row, r) =>
        reduceRow op src.cols ((row.zipIdx.filter fun p => isReal src r p.2).map (·.1))
      out s fun r _ => rows.getD r numZero
    else if op = 5 ∨ op = 6 then
      let (ys, s) := coreFn x e.pc s (op + 2) (bit b 79) e.fault v.flatten
      out s fun r c => ys.getD (r * src.cols + c) numZero
    else
      let imm := decodeNum .fp32 (field b 44 32)
      out s fun r c => unaryNum md op imm (at2 numZero v r c)

/-- EWU (R121). WI is allowed only with a reduction (R111). -/
def execEwu (c : CoreNo) (b : Body) (fault : Option Nat) (s : State) : Host.Outcome State Fault Refusal :=
  .next (issueEngine true 0x20 b fault [] (decide (7 ≤ field b 80 4))
    (fun _ => need (field b 0 44 = 0 && field b 80 4 < 10 && field b 77 2 ≠ 3) 0x02) ewuEffect false s c)

/-- The operations of EWB (R122). -/
def ewbNum (md : Rnd) (op : Nat) (a b : Num) : Num :=
  let truth (p : Bool) : Num := if p then numOne else numZero
  match op with
  | 0 => fAdd md a b
  | 1 => fSub md a b
  | 2 => fMul md a b
  | 3 => numMin a b
  | 4 => numMax a b
  | 5 => truth (numLt a b)
  | 6 => truth (numEq a b)
  | _ => truth (!numEq a b)

def ewbEffect : Effect := fun x e s => do
  let b := e.body
  let md := (rndOfCode (field b 62 2)).getD .rne
  let ta ← operand x b 98 [.scratch]
  let tb ← operand x b 84 [.scratch]
  let dst ← operand x b 70 [.scratch]
  plainFmt ta
  plainFmt tb
  plainFmt dst
  let bm := field b 64 2
  let rowB := bm = 1 ∨ bm = 3
  let colB := bm = 2 ∨ bm = 3
  need (tb.rows = (if rowB then 1 else ta.rows) && tb.cols = (if colB then 1 else ta.cols)) 0x04
  need (dst.rows = ta.rows && dst.cols = ta.cols) 0x04
  requirePad ta
  requirePad tb
  let va ← widened x s ta
  let vb ← widened x s tb
  let s' ← writeNums x e s dst md (bit b 61) fun r c =>
    ewbNum md (field b 66 4) (at2 numZero va r c)
      (at2 numZero vb (if rowB then 0 else r) (if colB then 0 else c))
  return { st := s', reads := tileTouches x ta ++ tileTouches x tb, writes := tileTouches x dst }

/-- EWB (R122). -/
def execEwb (c : CoreNo) (b : Body) (s : State) : Host.Outcome State Fault Refusal :=
  .next (issueEngine true 0x21 b none [] false
    (fun _ => need (field b 0 61 = 0 && field b 66 4 < 8 && field b 62 2 ≠ 3) 0x02) ewbEffect false s c)

def actEffect : Effect := fun x e s => do
  let b := e.body
  let md := (rndOfCode (field b 77 2)).getD .rne
  let src ← operand x b 98 [.scratch]
  let dst ← operand x b 84 [.scratch]
  plainFmt src
  plainFmt dst
  need (dst.rows = src.rows && dst.cols = src.cols) 0x04
  requirePad src
  let v ← widened x s src
  let pre := decodeNum .fp32 (field b 43 32)
  let xs := v.flatten.map fun u => if bit b 75 then fMul md u pre else u
  let (ys, s) := coreFn x e.pc s (field b 80 4) (bit b 79) e.fault xs
  let s' ← writeNums x e s dst md (bit b 76) fun r c => ys.getD (r * src.cols + c) numZero
  return { st := s', reads := tileTouches x src, writes := tileTouches x dst }

/-- ACT (R123). -/
def execAct (c : CoreNo) (b : Body) (fault : Option Nat) (s : State) : Host.Outcome State Fault Refusal :=
  .next (issueEngine true 0x22 b fault [] false
    (fun _ => need (field b 0 43 = 0 && 1 ≤ field b 80 4 && field b 80 4 ≤ 8 && field b 77 2 ≠ 3) 0x02)
    actEffect false s c)

/-! ### CVT -/

/-- The scale plane of a block-scaled operand of CVT (R135, R38). -/
def cvtPlane (x : Ctx) (b : Body) (lo : Nat) (t : Tile) : Res (Option Tile) :=
  if isMx t.fmt then do
    let p ← operand x b lo [.scratch]
    need (p.fmt = .e8m0) 0x03
    need (p.rows = t.rows && p.cols * 32 = t.cols) 0x04
    requirePad p
    return some p
  else .ok none

/-- An element times its block's scale (R38). -/
def scaled (code : Nat) (v : Num) : Num :=
  if code = 255 then .nan else
    match v with
    | .fin n m e => .fin n m (e + code - 127)
    | v => v

def cvtEffect : Effect := fun x e s => do
  let b := e.body
  let md := (rndOfCode (field b 54 2)).getD .rne
  let src ← operand x b 98 [.scratch]
  let dst ← operand x b 84 [.scratch]
  need (src.fmt ≠ .e8m0 && dst.fmt ≠ .e8m0) 0x03
  need (dst.rows = src.rows && dst.cols = src.cols) 0x04
  let ss ← cvtPlane x b 70 src
  let sd ← cvtPlane x b 56 dst
  requirePad src
  requirePad dst
  let raw ← tileNums x s src
  let v ← match ss with
    | none => Except.ok (ε := Fail) raw
    | some p => do
      let sc ← tileCodes x s p
      .ok (raw.zipIdx.map fun (row, r) => row.zipIdx.map fun (u, c) => scaled (at2 0 sc r (c / 32)) u)
  let reads := tileTouches x src ++ optTouches x ss
  match sd with
  | none =>
    let s' ← writeNums x e s dst md (bit b 53) (at2 numZero v)
    return { st := s', reads := reads, writes := tileTouches x dst }
  | some p =>
    let blocks := v.zipIdx.map fun (row, r) =>
      (pieces 32 (row.length + 1) row).zipIdx.map fun (blk, j) =>
        mxEncode dst.fmt md (fun i => rndBits s x.core md (r * dst.cols + 32 * j + i)) blk
    let s1 := drawn s x.core md (dst.rows * dst.cols)
    let els ← tileStores dst fun r c => (at2 (0, [], false) blocks r (c / 32)).2.1.getD (c % 32) 0
    let scs ← tileStores p fun r c => (at2 (0, [], false) blocks r c).1
    let s2 ← scratchStores x s1 x.core (els ++ scs)
    let n := (blocks.flatten.filter fun k => k.2.2).length
    return { st := countSpecial x e.pc s2 0 n, reads := reads, writes := tileTouches x dst ++ tileTouches x p }

/-- CVT (R135). -/
def execCvt (c : CoreNo) (b : Body) (s : State) : Host.Outcome State Fault Refusal :=
  .next (issueEngine true 0x90 b none [] false
    (fun _ => need (field b 0 53 = 0 && field b 54 2 ≠ 3) 0x02) cvtEffect false s c)

end Sys2Proof.Machine
end

