-- ==== Sys2Proof/Machine/Attention.lean ====
section
/-! DEFINITION. ATTS and ATTV (R125 to R127, R224 to R234). -/

namespace Sys2Proof.Machine

/-- Keys or values: a scratchpad tile or a KVSEQ tile. -/
inductive KvSrc where
  | tile (t : Tile)
  | seq (k : KvSeq)

def kvRows : KvSrc → Nat
  | .tile t => t.rows
  | .seq k => k.rows
def kvR0 : KvSrc → Int
  | .tile t => t.r0
  | .seq k => k.r0

/-- The keys or values operand at a specifier, with the checks of R223, R127 and R233. `q` is the format that the
arrays take. The answer has the columns. -/
def kvOperand (x : Ctx) (s : State) (b : Body) (lo : Nat) (q : Fmt) : Res (KvSrc × Nat) := do
  let o := specAt b lo
  let d := x.task.td.getD o.td 0
  let t ← operandAt x o.td o.ixa o.ixb [.scratch, .kvseq] false
  need (t.rows % 16 = 0 && t.rows ≤ 2048) 0x04
  if tdSpace d = 2 then
    let k ← kvSeq x s o.td o.ixa o.ixb
    return (.seq k, tdCols d)
  else
    need (arrayDepth q t.fmt).isSome 0x03
    requirePad t
    return (.tile t, t.cols)

/-- The depth at which the arrays take a query's or a probability's format: R229 and R230 give it by that format alone,
also where a SCRATCH operand is wider (DEDUCED, log 145). -/
def fmtDepth (q : Fmt) : Nat := (arrayDepth q q).getD 16

/-- Element (r, c) of keys or values; none in a pad row. The scale of a block of an MX tile, for which no operand field
names a plane, is free (log 148). -/
def kvNum (x : Ctx) (s : State) (q : Fmt) (k : KvSrc) (r c : Nat) : Res (Option Num) :=
  match k with
  | .seq k => .ok (kvElem s k q r c)
  | .tile t =>
    if t.r0 + r < t.extR then do
      let v ← elemNum x s t r c
      return some (if isMx t.fmt then scaled (Config.noPlaneScale s.free r (c / 32) % 256) v else v)
    else .ok none

/-- The code of element (r, c) that a weight register takes: a page's is decoded on the way (R224). -/
def kvCode (x : Ctx) (s : State) (q : Fmt) (k : KvSrc) (r c : Nat) : Res Nat :=
  match k with
  | .seq k => .ok (((kvElem s k q r c).map fun v => (convertNum q .rne true 0 v).code).getD 0)
  | .tile t => if t.r0 + r < t.extR then elemCode x s t r c else .ok 0

/-- All rows of keys or values: none for a pad row. -/
def kvAll (x : Ctx) (s : State) (q : Fmt) (k : KvSrc) (cols : Nat) : Res (List (Option (List Num))) :=
  (List.range (kvRows k)).mapM fun r => do
    match ← kvNum x s q k r 0 with
    | none => return none
    | some _ =>
      let row ← (List.range cols).mapM fun c => do return (← kvNum x s q k r c).getD numZero
      return some row

def kvCodes (x : Ctx) (s : State) (q : Fmt) (k : KvSrc) (cols : Nat) : Res (List (List Nat)) :=
  (List.range (kvRows k)).mapM fun r => (List.range cols).mapM fun c => kvCode x s q k r c

/-- The quad's registers after `outer` pass sets of `inner` passes over keys or values (R58, R63, R229, R230): `column o p c`
is what column `c` of pass `p` of set `o` loads, `banks` the sums of each set before its last pass. -/
def kvPasses (x : Ctx) (s : State) (depth outer inner : Nat) (column : Nat → Nat → Nat → List Nat)
    (banks : List (List (List Num))) : State :=
  updCore s x.core fun k =>
    let block (i : Nat) := (List.range 32).map (column (i / inner) (i % inner))
    let k := loadPasses k 0 32 depth (lastTwo block (outer * inner))
    if inner < 2 then k else banks.foldl (fun k v => storeAcc x.task.lc k 0 v) k

def kvTouches (x : Ctx) : KvSrc → List Touch
  | .tile t => tileTouches x t
  | .seq _ => []

/-- The segments of the fetch engine's read on behalf of ATTS or ATTV (R224); the array reads a scratchpad tile itself. -/
def srcSegs (s : State) (x : Ctx) : KvSrc → List Seg
  | .tile _ => []
  | .seq k => kvSegs s x k

def kvUse (s : State) : KvSrc → State
  | .tile t => if isMx t.fmt then { s with free := s.free + 1 } else s
  | .seq k => kvTouch s k

/-- A query format of R127. -/
def queryFmt (f : Fmt) : Bool :=
  match f with
  | .bf16 | .fp16 | .e4m3 | .e5m2 => true
  | _ => false

/-- The state tile of R225. -/
def stateTile (x : Ctx) (b : Body) (lo rows : Nat) : Res Tile := do
  let t ← operand x b lo [.scratch]
  need (t.fmt = .fp32) 0x03
  need (t.cols = 8 && t.rows = rows) 0x04
  requirePad t
  return t

/-- The argument whose exp is e(x, y) (R227): +0 where x = y, so that the result is exactly 1. -/
def expArg (a b : Num) : Num := if numEq a b then numZero else fSub .rne a b

/-- The argument of a probability: a score of −∞ has +0 also where the maximum is −∞, as R231 says of such a row, although
R227's first case gives e(−∞, −∞) = 1 (DEDUCED, log 147). -/
def probArg (v m : Num) : Num := if numEq v (.inf true) && numEq m (.inf true) then .inf true else expArg v m

/-- A row of ST as its eight 32-bit words (R225). -/
structure StRow where
  m        : Nat
  l        : Nat
  alpha    : Nat
  lse      : Nat
  lseBf16  : Nat
  started  : Bool
  empty    : Bool
  attended : Nat

def stRow (w : List Nat) : StRow :=
  let f := w.getD 4 0
  { m := w.getD 0 0, l := w.getD 1 0, alpha := w.getD 2 0, lse := w.getD 3 0, lseBf16 := f % 2 ^ 16
    started := f / 2 ^ 16 % 2 = 1, empty := f / 2 ^ 17 % 2 = 1, attended := w.getD 5 0 }

def stWords (r : StRow) : List Nat :=
  [r.m, r.l, r.alpha, r.lse,
   r.lseBf16 + (if r.started then 2 ^ 16 else 0) + (if r.empty then 2 ^ 17 else 0), r.attended, 0, 0]

/-- Write codes into the real elements of a tile. -/
def writeCodes (x : Ctx) (s : State) (t : Tile) (v : Nat → Nat → Nat) : Res State := do
  doStores x s (← tileStores t v)

/-- A key may be attended (R228): mode, query position, key position, block size, explicit mask value. -/
def maskAllows (mode : Nat) (q k blk : Int) (msk : Nat) : Bool :=
  match mode with
  | 0 => true
  | 1 => k ≤ q
  | 2 => k / blk ≤ q / blk
  | _ => msk ≠ 0

def attsEffect : Effect := fun x e s => do
  let b := e.body
  let mode := field b 40 2
  let q ← operand x b 98 [.scratch]
  need (queryFmt q.fmt) 0x03
  let depth := fmtDepth q.fmt
  need (q.rows % 8 = 0 && q.rows ≤ 512 && q.cols % depth = 0 && q.cols ≤ 256) 0x04
  need (!x.task.lc || q.rows ≤ 128) 0x08
  let (k, kc) ← kvOperand x s b 84 q.fmt
  need (kc = q.cols) 0x04
  let sT ← operand x b 70 [.scratch]
  need (sT.fmt = q.fmt) 0x03
  need (sT.rows = q.rows && sT.cols = kvRows k) 0x04
  let st ← stateTile x b 56 q.rows
  let msk ← if mode = 3 then do
      let t ← operand x b 42 [.scratch]
      need (t.fmt = .int8) 0x03
      need (t.rows = q.rows && t.cols = kvRows k) 0x04
      requirePad t
      pure (some t)
    else pure none
  let blk := ixVal x.ix (field b 32 4)
  need (mode ≠ 2 || decide (1 ≤ blk)) 0x04
  requirePad q
  let qv ← tileNums x s q
  let kv : List (Option (List Num)) ← kvAll x s q.fmt k q.cols
  let codes ← kvCodes x s q.fmt k q.cols
  let mv ← match msk with
    | some t => tileCodes x s t
    | none => .ok []
  let stv ← tileCodes x s st
  let scale := decodeNum .fp32 (field b 0 32)
  let q0 := ixVal x.ix (field b 36 4)
  -- scores, none where masked (R226, R228)
  let scores : List (List (Option Num)) := qv.zipIdx.map fun (row, r) => kv.zipIdx.map fun (key, j) =>
    match (key : Option (List Num)) with
    | none => none
    | some kr =>
      if maskAllows mode (q0 + r) (kvR0 k + j) blk (at2 0 mv r j) then
        some (fMul .rne (dotFrom false (depth / 8) numZero row kr [] []) scale)
      else none
  let rows : List (List (Option Num) × StRow × Num × Num × Nat × Num) := scores.zipIdx.map fun (sc, r) =>
    let o := stRow (stv.getD r [])
    let mIn := if o.started then decodeNum .fp32 o.m else .inf true
    let l := if o.started then decodeNum .fp32 o.l else numZero
    let n := if o.started then o.attended else 0
    let m := sc.foldl (fun a v => match v with
      | some v => numMax a v
      | none => a) mIn
    (sc, o, mIn, l, n, m)
  -- every exponential of the tile in order: a row's keys, then its rescale factor
  let args := rows.flatMap fun (sc, _, mIn, _, _, m) =>
    (sc.filterMap fun v => v.map fun v => probArg v m) ++ [expArg mIn m]
  let head := q.cols - depth
  let keys := kv.map fun (r : Option (List Num)) => (r.getD (List.replicate q.cols numZero)).take head
  let s0 := kvPasses x s depth (ceilDiv (kvRows k) 32) (q.cols / depth)
    (fun g p c => ((codes.getD (32 * g + c) []).drop (p * depth)).take depth)
    ((List.range (ceilDiv (kvRows k) 32)).map fun g => qv.map fun row =>
      ((keys.drop (32 * g)).take 32).map fun key => dotFrom false (depth / 8) numZero (row.take head) key [] [])
  let (es, s1) := coreFn x e.pc s0 1 false e.fault args
  -- hand the results back row by row
  let dealt := rows.foldl (fun (acc : List (List (Option Num) × StRow × Num × Num × Nat × Num × List Num) × List Num)
      (row : List (Option Num) × StRow × Num × Num × Nat × Num) =>
    let k := (row.1.filterMap id).length + 1
    (acc.1 ++ [(row.1, row.2.1, row.2.2.1, row.2.2.2.1, row.2.2.2.2.1, row.2.2.2.2.2, acc.2.take k)], acc.2.drop k))
    ([], es)
  let outs := dealt.1.map fun (sc, o, mIn, l, n, m, ex) =>
    let ps := (sc.foldl (fun (a : List Num × List Num) (v : Option Num) => match v with
      | some _ => (a.1 ++ [a.2.headD numZero], a.2.tail)
      | none => (a.1 ++ [numZero], a.2)) ([], ex)).1
    let total := (ex.dropLast).foldl (fAdd .rne) numZero
    let eIn := ex.getLastD numOne
    let l' := fAdd .rne (fMul .rne l eIn) total
    let alpha := if numLt (.inf true) mIn then eIn else numZero
    (ps, { o with m := fp32Bits m, l := fp32Bits l', alpha := fp32Bits alpha, started := true
                  attended := (n + (sc.filterMap id).length) % 2 ^ 32 })
  let s2 ← writeNums x e s1 sT .rne false fun r c => at2 numZero (outs.map (·.1)) r c
  let s3 ← writeCodes x s2 st fun r c => at2 0 (outs.map fun p => stWords p.2) r c
  return { st := kvUse s3 k, segs := srcSegs s x k
           reads := tileTouches x q ++ kvTouches x k ++ tileTouches x st ++ optTouches x msk
           writes := tileTouches x sT ++ tileTouches x st }

/-- ATTS (R125). With MMODE other than 3 the mask specifier is zero (R233). -/
def execAtts (c : CoreNo) (b : Body) (fault : Option Nat) (s : State) : Host.Outcome State Fault Refusal :=
  .next (issueEngine true 0x40 b fault [] false
    (fun _ => need (field b 40 2 = 3 || field b 42 14 = 0) 0x02) attsEffect false s c)

def attvEffect : Effect := fun x e s => do
  let b := e.body
  let final := bit b 41
  let p ← operand x b 98 [.scratch]
  need (queryFmt p.fmt) 0x03
  need (p.rows % 8 = 0 && p.rows ≤ 512) 0x04
  need (!x.task.lc || p.rows ≤ 128) 0x08
  let depth := fmtDepth p.fmt
  let (v, d) ← kvOperand x s b 84 p.fmt
  need (kvRows v = p.cols && d % depth = 0 && d ≤ 256) 0x04
  let o ← operand x b 70 [.scratch]
  need (o.fmt = .fp32) 0x03
  need (o.rows = p.rows && o.cols = d) 0x04
  let st ← stateTile x b 56 p.rows
  let out ← if final then do
      let t ← operand x b 42 [.scratch]
      need (isDFmt t.fmt) 0x03
      need (t.rows = p.rows && t.cols = d) 0x04
      requirePad t
      pure (some t)
    else pure none
  requirePad p
  requirePad o
  let pv ← tileNums x s p
  let vv : List (Option (List Num)) ← kvAll x s p.fmt v d
  let ov ← tileNums x s o
  let stv ← tileCodes x s st
  let vrows : List (List Num) := vv.map fun (r : Option (List Num)) => r.getD (List.replicate d numZero)
  let codes ← kvCodes x s p.fmt v d
  let passes := ceilDiv (kvRows v) depth
  -- the sum of row r and column c of V over the first n keys
  let sumTo (n r c : Nat) : Num :=
    let alpha := decodeNum .fp32 (stRow (stv.getD r [])).alpha
    let init := if isZero alpha && !isNeg alpha then numZero else fMul .rne (at2 numZero ov r c) alpha
    dotFrom false (depth / 8) init ((pv.getD r []).take n) (vrows.map fun (vr : List Num) => vr.getD c numZero) [] []
  let rows := (List.range p.rows).map fun r =>
    ((List.range d).map (sumTo p.cols r), { stRow (stv.getD r []) with alpha := fp32Bits numOne })
  let s0 := kvPasses x s depth (ceilDiv d 32) passes
    (fun o p c => (List.range depth).map fun j => at2 0 codes (p * depth + j) (32 * o + c))
    ((List.range (ceilDiv d 32)).map fun o => (List.range p.rows).map fun r =>
      (List.range (min 32 (d - 32 * o))).map fun c => sumTo ((passes - 1) * depth) r (32 * o + c))
  let s1 ← writeCodes x s0 o fun r c => fp32Bits (at2 numZero (rows.map (·.1)) r c)
  let reads := tileTouches x p ++ kvTouches x v ++ tileTouches x o ++ tileTouches x st
  let writes := tileTouches x o ++ tileTouches x st
  match out with
  | none =>
    let s2 ← writeCodes x s1 st fun r c => at2 0 (rows.map fun q => stWords q.2) r c
    return { st := kvUse s2 v, segs := srcSegs s x v, reads := reads, writes := writes }
  | some t =>
    -- logarithms of the rows that have one, in row order
    let ls := rows.map fun q => decodeNum .fp32 q.2.l
    let want := ls.filter fun l => !isNaN l && !isZero l
    let (lg, s2) := coreFn x e.pc s1 2 false e.fault want
    let md := (rndOfCode (field b 39 2)).getD .rne
    let sat := bit b 38
    let fin := (rows.zip ls).foldl (fun (acc : List (List Num × StRow × Bool × Bool) × List Num) (q, l) =>
      if isNaN l then
        (acc.1 ++ [(q.1.map fun _ => Num.nan, { q.2 with lse := 0x7FC00000, lseBf16 := 0x7FC0, empty := false }, true, false)], acc.2)
      else if isZero l then
        (acc.1 ++ [(q.1.map fun _ => numZero, { q.2 with lse := 0xFF800000, lseBf16 := 0xFF80, empty := true }, false, true)],
          acc.2)
      else
        let lse := fAdd .rne (decodeNum .fp32 q.2.m) (acc.2.headD numZero)
        (acc.1 ++ [(q.1.map fun v => fDiv .rne v l,
          { q.2 with lse := fp32Bits lse, lseBf16 := (convertNum .bf16 .rne false 0 lse).code, empty := false },
          false, false)], acc.2.tail)) ([], lg)
    let res := fin.1
    -- OUT: rows that finalise normally are converted and counted; the others are written as R231 says
    let els := (List.range t.rows).flatMap fun r => (List.range t.cols).filterMap fun c =>
      if isReal t r c then some (r, c) else none
    let (cs, s3) := convAll s2 x.core t.fmt md sat (els.map fun p => at2 numZero (res.map (·.1)) p.1 p.2)
    let sts := (els.zip cs).map fun (p, k) => elemStore t p.1 p.2 k.code
    let s4 ← doStores x s3 sts
    let realRow (r : Nat) : Bool := st.r0 + r < st.extR
    let isNanRow (r : Nat) : Bool := ((res.map fun q => q.2.2.1).getD r false)
    let normal := ((els.zip cs).filter fun p => !isNanRow p.1.1).map (·.2)
    let nanRows := ((List.range t.rows).filter fun r => isNanRow r && realRow r).length
    let masked := ((List.range t.rows).filter fun r => (res.map fun q => q.2.2.2).getD r false && realRow r).length
    let s5 := countSpecial x e.pc s4 (normal.countP (·.sat)) (normal.countP (·.nonfinite) + nanRows)
    let dd := coreDie x.core
    let s6 := if masked = 0 then s5 else
      firstEvent (bump s5 0xE050 (dd + 1) masked) x.jobn .masked 0 0x000B dd (packItems [(16, x.core), (24, e.pc)])
    let s7 ← writeCodes x s6 st fun r c => at2 0 (res.map fun q => stWords q.2.1) r c
    return { st := kvUse s7 v, segs := srcSegs s x v, reads := reads, writes := writes ++ tileTouches x t }

/-- ATTV (R126). -/
def execAttv (c : CoreNo) (b : Body) (fault : Option Nat) (s : State) : Host.Outcome State Fault Refusal :=
  .next (issueEngine true 0x41 b fault [] false
    (fun _ => need (field b 0 38 = 0 && field b 39 2 ≠ 3) 0x02) attvEffect false s c)

end Sys2Proof.Machine
end

