-- ==== Sys2Proof/Machine/Kv.lean ====
section
/-! DEFINITION. The page service: appends and commits (R217 to R222), scales (R43 to R45), copy-on-write (R258),
protection (R259, R260), the prefix tree (R235 to R240), FORK and DROP (R143, R144, R251 to R257). -/

namespace Sys2Proof.Machine

/-! ### The state words of a group -/

def fStateCode : FState → Nat
  | .free => 0
  | .inBatch => 1
  | .joining => 2
  | .offBatch => 3
  | .evicted => 4

/-- The state word of a future index (R247). -/
def stateWord (f : Future) : Nat :=
  fStateCode f.state * 2 ^ 28 + (if f.mirror then 2 ^ 26 else 0) + (if f.lag then 2 ^ 25 else 0)
    + f.gen % 512 * 2 ^ 16 + f.reserve % 2 ^ 16

/-- The page service writes a future's state word to FSTATE (R245). -/
def writeFstate (s : State) (g i : Nat) : State :=
  match tget s.groups g with
  | none => s
  | some gr =>
    match tget gr.futures i with
    | none => s
    | some f => jobWritesD s gr.asid (gr.gcb + 0x4040 + 4 * i) (leBytes 4 (stateWord f))

/-! ### References -/

/-- Drop one reference of a page; at zero the page and its mirror return to their pools (R249, R250). -/
def dropPage (s : State) (key : Nat) : State :=
  match getPage s key with
  | none => s
  | some p =>
    if 1 < p.refcnt then updPage s key fun p => { p with refcnt := p.refcnt - 1 }
    else
      let s := { s with kvPages := tdel s.kvPages key }
      let s := if p.tier = 2 then freeSlotAt s key else s
      match p.mirror with
      | some m => freeSlotAt { s with kvPages := tdel s.kvPages m } m
      | none => s

/-- Drop one reference of a chunk; at zero its pages each lose one (R248, R250). -/
def dropChunk (s : State) (key : Nat) : State :=
  match tget s.chunks key with
  | none => s
  | some c =>
    if 1 < c.count then updChunk s key fun c => { c with count := c.count - 1 }
    else
      let s := { s with chunks := tdel s.chunks key }
      freeSlotAt (c.pages.foldl (fun s p => dropPage s p.2) s) key

/-! ### The prefix tree -/

/-- T64 (R235): the first 8 bytes of SHAKE256, little-endian. -/
def t64 (x : List Byte) : Nat := leNat (shake256 x 8)

/-- The seed of a group's chained hash (R235). -/
def hashSeed (L : Layout) : Nat :=
  t64 ([0x4A, 0x59, 0x4B, 0x56] ++ leBytes 8 L.imagoTag ++ leBytes 4 L.domain
    ++ leBytes 1 L.fmt ++ leBytes 1 L.nlayers ++ leBytes 1 L.heads ++ leBytes 1 L.dim32)

/-- The hash of a block from its parent's (R235). -/
def hashBlock (prev : Nat) (codes : List Nat) : Nat := t64 (leBytes 8 prev ++ codes.flatMap (leBytes 4))

def treeOf (s : State) (d : Nat) : List TreeNode := tgetD s.trees d []
def setTree (s : State) (d : Nat) (t : List TreeNode) : State := { s with trees := tset s.trees d t }

/-- A node passes the check of R239. -/
def nodePasses (n : TreeNode) (prev : Nat) (codes : List Nat) (b : Nat) : Bool :=
  n.parent = prev && n.codes = codes && n.block = b

/-- The least recently adopted node without children (R240). -/
def oldestLeaf (t : List TreeNode) : Option TreeNode :=
  (t.filter fun n => n.children = 0).foldl (fun (a : Option TreeNode) n => match a with
    | none => some n
    | some m => if n.adopted < m.adopted then some n else some m) none

/-- Release a node: its pages lose a reference and IN_TREE (R240). -/
def releaseNode (s : State) (d : Nat) (n : TreeNode) : State :=
  let t := (treeOf s d).filter fun m => m.hash ≠ n.hash
  let t := t.map fun m => if m.hash = n.parent then { m with children := m.children - 1 } else m
  n.pages.foldl (fun s p => dropPage (updPage s p fun q => { q with inTree := false }) p) (setTree s d t)

/-- The nodes whose release frees their pages: no table chunk reaches one of them (R240, and the example after R268). -/
def freeingNodes (s : State) (d : Nat) : List TreeNode :=
  (treeOf s d).filter fun n => n.pages.all fun k => ((getPage s k).map fun p => decide (p.refcnt ≤ 1)).getD true

/-- Release nodes of a die until `n` slots of a size are available or no release frees any (R240, R261), by `fuel`. -/
def releaseFor : Nat → State → Nat → Nat → Nat → State
  | 0, s, _, _, _ => s
  | k + 1, s, d, size, n =>
    if n ≤ poolAvail (getPool s d) size then s else
      match oldestLeaf (freeingNodes s d) with
      | none => s
      | some x => releaseFor k (releaseNode s d x) d size n

/-- Allocate from sources 1 to 3 of R261: the reserve when `res`, the free list, the tree. -/
def allocKv (s : State) (d size : Nat) (res : Bool) : Option (Nat × State) :=
  match allocSlot s d size res with
  | some r => some r
  | none => allocSlot (releaseFor ((treeOf s d).length + 1) s d size 1) d size false

/-! ### Mirrors -/

/-- The mirror die: the first die after the home, in cyclic order, that is in the accord (R259). `ok` says which
dies are. -/
def mirrorDie (ok : Nat → Bool) (home : Nat) : Option Nat :=
  ([1, 2, 3].map fun i => (home + i) % 4).find? ok

/-- Give a page its mirror on a die, if the pool can supply it (R260, R261); `res` takes a reserved slot (R262). No tree node
holds the mirror. -/
def addMirror (s : State) (key d : Nat) (res : Bool) : State :=
  match getPage s key with
  | none => s
  | some p =>
    if p.mirror.isSome then s else
      match allocKv s d p.slotBytes res with
      | none => s
      | some (m, s) =>
        let s := { s with kvPages := tset s.kvPages m { p with refcnt := 1, mirror := none, mirrorOf := some key, place := d
                                                               hash := none, inTree := false } }
        updPage s key fun p => { p with mirror := some m }

/-- Copy a primary's contents into its mirror (R260). -/
def syncMirror (s : State) (key : Nat) : State :=
  match getPage s key with
  | none => s
  | some p =>
    match p.mirror with
    | none => s
    | some m => updPage s m fun q => { q with codes := p.codes, scales := p.scales, ntok := p.ntok }

/-- Every page that a future reaches. -/
def futurePages (s : State) (f : Future) : List Nat :=
  f.dirs.flatMap fun dir => dir.flatMap fun e => match tget s.chunks e.2 with
    | some c => c.pages.map (·.2)
    | none => []

/-- MIRROR_LAG: a MIRROR future reaches a page without a mirror (R247, R260). -/
def setLag (s : State) (g i : Nat) : State :=
  match (tget s.groups g).bind fun gr => tget gr.futures i with
  | none => s
  | some f =>
    let lag := f.mirror && (futurePages s f).any fun k => match getPage s k with
      | some p => p.mirror.isNone
      | none => false
    writeFstate (updFuture s g i fun f => { f with lag := lag }) g i

/-! ### Directory storage -/

/-- The slots of 256 bytes that the directories of a future take, 64 entries of 4 bytes in each, as a table chunk holds 64
page ids (R248, R253; DEDUCED, log 99). -/
def dirNeed (f : Future) : Nat := (f.dirs.map fun d => ceilDiv d.length 64).sum

/-- Directory storage follows the directories of a future: it grows from sources 2 and 3 of R261 and shrinks with them.
None where the pool cannot supply it. -/
def fitStore (s : State) (g i : Nat) : Option State :=
  match (tget s.groups g).bind fun gr => (tget gr.futures i).map fun f => (gr, f) with
  | none => some s
  | some (gr, f) =>
    let n := dirNeed f
    let s := (f.store.drop n).foldl freeSlotAt s
    ((List.range (n - f.store.length)).foldlM (fun (a : List Nat × State) _ =>
      (allocKv a.2 gr.home 256 false).map fun (k, s) => (a.1 ++ [k], s)) (f.store.take n, s)).map fun a =>
        updFuture a.2 g i fun f => { f with store := a.1 }

/-! ### Appending -/

/-- What a group of 32 channels of one token becomes: scale code, the 32 codes, earlier codes requantised when the
scale was raised, and the counts of R43 and R45. -/
structure GroupQuant where
  scale : Nat
  codes : List Int
  raised : Bool
  nsat  : Nat
  nnon  : Nat

/-- The scale of a token's group (R43): amax / qmax rounded up to FP16. -/
def groupScale (qmax : Nat) (vs : List Num) : Nat × Nat :=
  let amax := (vs.filter isFinite).foldl (fun a v => numMax a (numAbs v)) numZero
  if isZero amax then (0, 0) else
    let c := convertNum .fp16 .up true 0 (numDiv amax (numOfInt qmax))
    (c.code, if c.sat then 1 else 0)

/-- A value divided by a scale, to nearest even, clamped (R43, R45). -/
def quantise (qmax : Nat) (scale : Nat) (v : Num) : Int :=
  match v with
  | .nan => 0
  | .inf n => if n then -(qmax : Int) else qmax
  | v =>
    if scale = 0 then 0 else
      match numDiv v (decodeNum .fp16 scale) with
      | .fin n m e =>
        let q : Int := roundTo .rne 0 n m e 0
        let q := min q qmax
        if n then -q else q
      | _ => 0

/-- A token's group into a page (R43 to R45). `old` is the group's scale, none in an empty page. -/
def quantGroup (qmax : Nat) (old : Option Nat) (vs : List Num) : GroupQuant :=
  let amax := (vs.filter isFinite).foldl (fun a v => numMax a (numAbs v)) numZero
  let raise := match old with
    | none => true
    | some sc => numLt (numMul (decodeNum .fp16 sc) (numOfInt qmax)) amax
  let (sc, nsat) := if raise then groupScale qmax vs else (old.getD 0, 0)
  { scale := sc, codes := vs.map (quantise qmax sc), raised := raise && old.isSome, nsat := nsat
    nnon := (vs.filter fun v => !isFinite v).length }

/-- Requantise a code from an old scale to a new one (R44). -/
def requant (qmax old new : Nat) (q : Int) : Int :=
  quantise qmax new (numMul (numOfInt q) (decodeNum .fp16 old))

/-- Put one token (its 2 H D values in plane, head, channel order) into slot `t` of a page (R215, R217, R43, R44). -/
def putToken (L : Layout) (p : KvPage) (t : Nat) (vals : List Num) : KvPage × Nat × Nat :=
  let qmax := if L.fmt = 7 then 7 else 127
  let w := pageBits L
  let D := headDim L
  let G := scaleGroups L
  (List.range (2 * G)).foldl (fun (acc : KvPage × Nat × Nat) gi =>
    let (p, ns, nn) := acc
    let kv := gi / G
    let g := gi % G
    let h := g * 32 / D
    let c0 := g * 32 % D
    let vs := (vals.drop (gi * 32)).take 32
    let old := if t = 0 then none else some (tgetD p.scales gi 0)
    let q := quantGroup qmax old vs
    let codes := if q.raised then
        (List.range t).foldl (fun cs u => (List.range 32).foldl (fun cs i =>
          let o := elemOffset L kv h u (c0 + i)
          tset cs o (ofSigned w (requant qmax (old.getD 0) q.scale (toSigned w (tgetD cs o 0))))) cs) p.codes
      else p.codes
    let codes := q.codes.zipIdx.foldl (fun cs (v, i) => tset cs (elemOffset L kv h t (c0 + i)) (ofSigned w v)) codes
    ({ p with codes := codes, scales := tset p.scales gi q.scale }, ns + q.nsat, nn + q.nnon)) (p, 0, 0)

/-- The writing future's own chunk for a block (R258 step 1): allocated, copied when shared. -/
def ownChunk (s : State) (g i layer block : Nat) : Option (Nat × State) :=
  match (tget s.groups g).bind fun gr => (tget gr.futures i).map fun f => (gr, f) with
  | none => none
  | some (gr, f) =>
    let point (s : State) (k : Nat) : State := updFuture s g i fun f =>
      { f with dirs := f.dirs.modify layer fun d => tset d (block / 64) k }
    match chunkOf f layer block with
    | none =>
      (allocKv s gr.home 256 false).bind fun (k, s) =>
        (fitStore (point { s with chunks := tset s.chunks k {} } k) g i).map fun s => (k, s)
    | some k =>
      match tget s.chunks k with
      | none => none
      | some c =>
        if c.count ≤ 1 then some (k, s) else
          (allocKv s gr.home 256 false).map fun (k', s) =>
            let s := { s with chunks := tset (tset s.chunks k { c with count := c.count - 1 }) k' { c with count := 1 } }
            (k', point (c.pages.foldl (fun s p => updPage s p.2 fun q => { q with refcnt := q.refcnt + 1 }) s) k')

/-- Open a new page for a block (R219, R262): from the future's reserve while it has any. -/
def openPage (ok : Nat → Bool) (s : State) (g i layer block : Nat) (like : Option KvPage) : Option (Nat × State) :=
  match (tget s.groups g).bind fun gr => (tget gr.futures i).map fun f => (gr, f) with
  | none => none
  | some (gr, f) =>
    let size := pageSlot gr.layout
    let res := decide (0 < f.reserve ∧ 0 < f.resSlots)
    match allocKv s gr.home size res with
    | none => none
    | some (k, s) =>
      let base : KvPage := { layer := layer, block := block, fmt := gr.layout.fmt, slotBytes := size
                             lastUse := uptimeUs s, place := gr.home }
      let page := match like with
        | none => base
        | some p => { base with ntok := p.ntok, codes := p.codes, scales := p.scales }
      let s := { s with kvPages := tset s.kvPages k page }
      let s := if res then updFuture s g i fun f =>
          { f with reserve := if layer = 0 then f.reserve - 1 else f.reserve, resSlots := f.resSlots - 1 } else s
      let s := if f.mirror then (match mirrorDie ok gr.home with
          | some d => mirrorNew s g i k d
          | none => s) else s
      some (k, s)
where
  /-- The mirror of a page just opened, from what the future has reserved on the mirror die (R262). -/
  mirrorNew (s : State) (g i k d : Nat) : State :=
    match (tget s.groups g).bind fun gr => tget gr.futures i with
    | none => s
    | some f =>
      let res := decide (0 < f.mirrorReserve) && f.mirrorOn = d
      let s := addMirror s k d res
      if res && ((getPage s k).map (·.mirror.isSome)).getD false then
        updFuture s g i fun f => { f with mirrorReserve := f.mirrorReserve - 1 } else s

/-- The writing future's own page for a block (R258): opened when there is none or the block starts afresh, copied
when shared. -/
def ownPage (ok : Nat → Bool) (s : State) (g i layer block t : Nat) : Option (Nat × State) :=
  match ownChunk s g i layer block with
  | none => none
  | some (ck, s) =>
    match tget s.chunks ck with
    | none => none
    | some c =>
      let point (s : State) (k : Nat) : State := updChunk s ck fun c => { c with pages := tset c.pages (block % 64) k }
      match tget c.pages (block % 64) with
      | none => (openPage ok s g i layer block none).map fun (k, s) => (k, point s k)
      | some pk =>
        if t = 0 then
          (openPage ok (dropPage s pk) g i layer block none).map fun (k, s) => (k, point s k)
        else
          match getPage s pk with
          | none => none
          | some p =>
            if p.refcnt ≤ 1 then some (pk, s) else
              (openPage ok s g i layer block (some p)).map fun (k, s) =>
                let home := ((tget s.groups g).map (·.home)).getD 0
                (k, point (bump (dropPage s pk) 0xE056 (home + 1) 1) k)

/-- Append tokens to one layer of a future (R219): values by token, from position `pos`. None when a page slot is
missing (R267). -/
def appendTokens (ok : Nat → Bool) (s : State) (g i layer : Nat) : Nat → List (List Num) → Option State
  | _, [] => some s
  | pos, v :: vs =>
    match ownPage ok s g i layer (pos / 16) (pos % 16) with
    | none => none
    | some (pk, s) =>
      match getPage s pk, tget s.groups g with
      | some p, some gr =>
        let (p, ns, nn) := putToken gr.layout p (pos % 16) v
        let s := updPage s pk fun _ => { p with ntok := pos % 16 + 1, lastUse := uptimeUs s }
        let s := bumpIf (bumpIf (syncMirror s pk) 0xE040 (gr.home + 1) ns) 0xE041 (gr.home + 1) nn
        appendTokens ok s g i layer (pos + 1) vs
      | _, _ => none

/-- Element size and format of staged rows (R214). -/
def stageFmt (L : Layout) : Fmt := match L.stageFmt with
  | 1 => .bf16
  | 2 => .fp16
  | _ => .fp32

/-- The staging block of a future index (R218). -/
def stageBlock (L : Layout) (i : Nat) : Nat := L.stageBase + i * L.stageStride

/-- The staged key and value rows of slot `t` of a layer, widened (R218, R219). -/
def readStaged (s : State) (gr : Group) (i layer t : Nat) : Res (List Num) := do
  let L := gr.layout
  let f := stageFmt L
  let sz := fmtBits f / 8
  let n := L.heads * headDim L
  let base := stageBlock L i + 0x1000 + layer * (32 * n * sz) + 2 * t * n * sz
  (List.range (2 * n)).mapM fun e => do return decodeNum f (← jobNat s gr.asid (base + e * sz) sz)

/-- A refused commit ends the job that owns the group, or is discarded with a record (R220, R244). -/
def refuseCommit (s : State) (g : Nat) (gr : Group) (layer : Nat) (f : Fail) : State :=
  match gr.owner with
  | some j => failJobService s j f
  | none => sillage s 0x000E gr.home noJob (packItems [(16, g), (8, layer)])

/-- BUSY of the pages that an append of `n` tokens from position `len` writes (R216). -/
def markBusy (s : State) (g i layer len n : Nat) (busy : Bool) : State :=
  match (tget s.groups g).bind fun gr => tget gr.futures i with
  | none => s
  | some f => (List.range ((len + n + 15) / 16 - len / 16)).foldl (fun s k =>
      match pageOf s f layer (len / 16 + k) with
      | some key => updPage s key fun p => { p with busy := busy }
      | none => s) s

/-- Carry out a commit up to its appends (R219, R220); a commit without a slot waits (R267). -/
def runCommit (ok : Nat → Bool) (s : State) (q : CommitReq) : State :=
  match tget s.groups q.group with
  | none => s
  | some gr =>
    let f := tgetD gr.futures q.idx {}
    let len := f.lens.getD q.layer 0
    let n := toSigned 32 q.n
    let drop (s : State) : State := { s with commits := s.commits.filter fun c => c.seq ≠ q.seq }
    if f.state = .free ∨ n < 1 ∨ 16 < n ∨ 1048576 < (len : Int) + n then
      refuseCommit (drop s) q.group gr q.layer failBounds
    else
      match (do
        let rows ← (List.range n.toNat).mapM fun t => readStaged s gr q.idx q.layer t
        let codes ← if q.layer = 0 then
            (List.range n.toNat).mapM fun t => jobNat s gr.asid (stageBlock gr.layout q.idx + 4 * t) 4
          else pure []
        pure (rows, codes) : Res (List (List Num) × List Nat)) with
      | .error e => refuseCommit (drop s) q.group gr q.layer e
      | .ok (rows, codes) =>
        match appendTokens ok s q.group q.idx q.layer len rows with
        | some s =>
          let s := markBusy s q.group q.idx q.layer len n.toNat true
          let s := updFuture s q.group q.idx fun f =>
            { f with codes := codes.zipIdx.foldl (fun t (v, i) => tset t (len + i) v) f.codes }
          let s := { s with commits := s.commits.map fun c =>
            if c.seq = q.seq then { c with applied := true, waiting := false } else c }
          setLag s q.group q.idx
        | none =>
          if q.waiting then s else
            let s := { s with commits := s.commits.map fun c => if c.seq = q.seq then { c with waiting := true } else c }
            let s := bump s 0xE059 (gr.home + 1) 1
            match gr.owner with
            | some j => firstEvent s j .commitWait 0 0x000D gr.home
                (packItems [(16, q.group), (32, mkHandle q.group q.idx f.gen)])
            | none => s

/-- Operations that the page service of a die carries out: the commits between their start and their end (R254); a waiting
one holds no place (R267). -/
def openOps (s : State) (d : Nat) : Nat :=
  s.commits.countP fun c => c.applied && ((tget s.groups c.group).map (·.home)) = some d

/-- A FORK or DROP of a future that arrived before a moment is held (R254). -/
def heldBefore (s : State) (g i t : Nat) : Bool :=
  s.cores.any fun c => ([c.2.be, c.2.lc].filterMap id).any fun k => k.fq.any fun e =>
    e.hold = .commits && (match e.arrived with
      | some a => a < t && (match liveFuture s (ixVal e.ix (field e.body 108 4)) with
        | some (n, _, k, _) => n = g && k = i
        | none => false)
      | none => false)

/-- A commit may run (R254): the page service has a place among its 8, no other operation of the future is under way or
came earlier. -/
def commitTurn (s : State) (q : CommitReq) : Bool :=
  let d := ((tget s.groups q.group).map (·.home)).getD 0
  openOps s d < 8 && !heldBefore s q.group q.idx q.seq
    && !(s.commits.any fun c => c.group = q.group && c.idx = q.idx && c.seq ≠ q.seq
        && (c.applied || (!c.waiting && c.seq < q.seq)))

/-- COMMIT (R219): the oldest add on COMMIT[layer] of a future that has not been served, when its turn has come (R254). -/
def commitStep (ok : Nat → Bool) (g idx layer : Nat) (n : Int) (s : State) : State :=
  match s.commits.find? fun c => c.group = g && c.idx = idx && c.layer = layer with
  | some q => if q.applied ∨ q.waiting ∨ toSigned 32 q.n ≠ n ∨ !commitTurn s q then s else runCommit ok s q
  | none => s

/-- APPEND_DONE (R219): the last token has landed; the committed length rises and DONE receives the count. -/
def appendDoneStep (g idx layer : Nat) (s : State) : State :=
  match s.commits.find? fun c => c.group = g && c.idx = idx && c.layer = layer with
  | some q =>
    if !q.applied then s else
      match tget s.groups g with
      | none => s
      | some gr =>
        let n := (toSigned 32 q.n).toNat
        let s := { s with commits := s.commits.filter fun c => c.seq ≠ q.seq }
        let len := (((tget gr.futures idx).map (·.lens)).getD []).getD layer 0
        let s := markBusy s g idx layer len n false
        let s := updFuture s g idx fun f => { f with lens := f.lens.modify layer (· + n) }
        match add32 s gr.asid (stageBlock gr.layout idx + 0x440 + 4 * layer) n with
        | .ok (_, s) => s
        | .error _ => s
  | none => s

/-- The next waiting commit of a die: LC futures first, then by the order of their adds (R267). -/
def nextWaiting (s : State) (d : Nat) : Option CommitReq :=
  let mine := s.commits.filter fun c => c.waiting && ((tget s.groups c.group).map (·.home)) = some d
  let lc (c : CommitReq) : Bool := ((tget s.groups c.group).map (·.lc)).getD false
  match mine.find? lc with
  | some c => some c
  | none => mine.head?

/-! ### Offers to the tree -/

/-- The codes of a block, when all 16 have come (R237). -/
def blockCodes (f : Future) (b : Nat) : Option (List Nat) := (List.range 16).mapM fun i => tget f.codes (16 * b + i)

/-- The chained hash of a future's block b and its parent (R235); none where a code is missing. -/
def chainTo (f : Future) (seed : Nat) : Nat → Option (Nat × Nat)
  | 0 => (blockCodes f 0).map fun c => (seed, hashBlock seed c)
  | b + 1 => match chainTo f seed b, blockCodes f (b + 1) with
    | some (_, h), some c => some (h, hashBlock h c)
    | _, _ => none

/-- PREFIX_OFFER (R237): each block of a future is offered once; an adopted one is not, its codes came with no commit. -/
def offerStep (g idx b : Nat) (s : State) : State :=
  match (tget s.groups g).bind fun gr => (tget gr.futures idx).map fun f => (gr, f) with
  | none => s
  | some (gr, f) =>
    let L := gr.layout
    let pages := (List.range L.nlayers).mapM fun l => pageOf s f l b
    match pages, chainTo f (hashSeed L) b, blockCodes f b with
    | some ps, some (prev, h), some codes =>
      let full := ps.all fun k => ((getPage s k).map (·.ntok)) = some 16
      let t := treeOf s gr.home
      let parentIn := b = 0 || (match chainTo f (hashSeed L) (b - 1), blockCodes f (b - 1) with
        | some (pp, ph), some pc => t.any fun n => n.hash = ph && nodePasses n pp pc (b - 1)
        | _, _ => false)
      if L.domain = 0 ∨ !fLive f ∨ !full ∨ !parentIn ∨ f.offered.contains b then s else
        let s := updFuture s g idx fun f => { f with offered := b :: f.offered }
        let s := ps.foldl (fun s k => updPage s k fun p => { p with hash := some h }) s
        match t.find? fun n => n.hash = h with
        | some n => if nodePasses n prev codes b then s else bump s 0xE052 (gr.home + 1) 1
        | none =>
          let s := if 262144 ≤ t.length then (match oldestLeaf t with
              | some n => releaseNode s gr.home n
              | none => s) else s
          let t := (treeOf s gr.home).map fun n => if n.hash = prev ∧ b ≠ 0 then { n with children := n.children + 1 } else n
          let s := ps.foldl (fun s k => updPage s k fun p => { p with refcnt := p.refcnt + 1, inTree := true }) s
          setTree s gr.home ({ hash := h, parent := prev, codes := codes, block := b, pages := ps
                               adopted := uptimeUs s } :: t)
    | _, _, _ => s

/-- MIRROR_FILL (R260): a page that a MIRROR future reaches gets its mirror in the background. -/
def mirrorFillStep (ok : Nat → Bool) (d page : Nat) (s : State) : State :=
  let key := kvKey d page
  match getPage s key, mirrorDie ok d with
  | some p, some m =>
    let reached := s.groups.flatMap fun (g, gr) => (gr.futures.filter fun f =>
      f.2.mirror && fLive f.2 && (futurePages s f.2).contains key).map fun f => (g, f.1)
    if p.mirror.isSome ∨ p.mirrorOf.isSome ∨ reached.isEmpty then s else
      reached.foldl (fun s r => setLag s r.1 r.2) (addMirror s key m false)
  | _, _ => s

/-! ### Forking and dropping futures -/

/-- The lowest free future index of a group (R246). -/
def freeIndex (g : Group) : Option Nat :=
  (List.range g.maxF).find? fun i => match tget g.futures i with
    | some f => !fLive f
    | none => true

/-- Live futures of a group. -/
def liveCount (g : Group) : Nat := (g.futures.filter fun f => fLive f.2).length

/-- Create a child of a future (R251); the answer is its index. None without a free index, or where the pool cannot supply
the child's directory storage (R253). -/
def forkFuture (s : State) (g : Nat) (gr : Group) (src : Future) (prot : Nat) : Option (Nat × State) :=
  match freeIndex gr with
  | none => none
  | some i =>
    let old := tgetD gr.futures i {}
    let child : Future :=
      { src with state := .joining, mirror := if prot = 0 then src.mirror else prot = 2, lag := false
                 gen := (old.gen + 1) % 512, reserve := 0, resSlots := 0, priority := 0, born := s.seq, mirrorReserve := 0
                 store := [] }
    let s := src.dirs.foldl (fun s d => d.foldl (fun s e => updChunk s e.2 fun c => { c with count := c.count + 1 }) s) s
    (fitStore (setFuture { s with seq := s.seq + 1 } g i child) g i).map fun s => (i, setLag s g i)

/-- Set aside `n` slots of a size on a die, or give up as many. -/
def addReserved (s : State) (d size : Nat) (n : Int) : State :=
  let p := getPool s d
  if n = 0 then s else setPool s d { p with reserved := tset p.reserved size (((tgetD p.reserved size 0 : Nat) : Int) + n).toNat }

/-- Release what is left of a future's reserve, on its home die and on its mirror die (R262). -/
def releaseReserve (s : State) (gr : Group) (f : Future) : State :=
  let size := pageSlot gr.layout
  addReserved (addReserved s gr.home size (-(f.resSlots : Int))) f.mirrorOn size (-(f.mirrorReserve : Int))

/-- Drop a whole future (R255). -/
def dropFuture (s : State) (g i : Nat) : State :=
  match (tget s.groups g).bind fun gr => (tget gr.futures i).map fun f => (gr, f) with
  | none => s
  | some (gr, f) =>
    if !fLive f then s else
      let s := f.dirs.foldl (fun s d => d.foldl (fun s e => dropChunk s e.2) s) s
      let s := f.store.foldl freeSlotAt (releaseReserve s gr f)
      let s := { s with commits := s.commits.filter fun c => !(c.group = g && c.idx = i && c.waiting) }
      writeFstate (setFuture s g i { gen := f.gen }) g i

/-- A chunk of the future's own for the cut (R256): where the pool has no slot for the copy of a shared one, the copy takes
none, so that the references go all the same (DESIGN CHOICE, log 153). -/
def cutChunk (s : State) (g i layer block : Nat) : Option (Nat × State) :=
  match ownChunk s g i layer block with
  | some r => some r
  | none =>
    match ((tget s.groups g).bind fun gr => tget gr.futures i).bind fun f => chunkOf f layer block with
    | none => none
    | some k => (tget s.chunks k).map fun c =>
        let k' := awayKey s
        let s := { s with seq := s.seq + 1, chunks := tset (tset s.chunks k { c with count := c.count - 1 }) k' { c with count := 1 } }
        let s := updFuture s g i fun f => { f with dirs := f.dirs.modify layer fun d => tset d (block / 64) k' }
        (k', c.pages.foldl (fun s p => updPage s p.2 fun q => { q with refcnt := q.refcnt + 1 }) s)

/-- Cut one layer of a future back to block `b` (R256). -/
def cutLayer (s : State) (g i b l : Nat) : State :=
  match (tget s.groups g).bind fun gr => tget gr.futures i with
  | none => s
  | some f =>
    if f.lens.getD l 0 ≤ 16 * b then s else
      let dir := f.dirs.getD l []
      let cut := ceilDiv b 64
      let s := (dir.filter fun e => cut ≤ e.1).foldl (fun s e => dropChunk s e.2) s
      let s := updFuture s g i fun f =>
        { f with dirs := f.dirs.modify l fun d => d.filter fun e => e.1 < cut
                 lens := f.lens.modify l fun n => min n (16 * b) }
      if b % 64 = 0 ∨ (chunkOf f l b).isNone then s else
        match cutChunk s g i l b with
        | none => s
        | some (ck, s) =>
          match tget s.chunks ck with
          | none => s
          | some c =>
            let s := (c.pages.filter fun e => b % 64 ≤ e.1).foldl (fun s e => dropPage s e.2) s
            updChunk s ck fun c => { c with pages := c.pages.filter fun e => e.1 < b % 64 }

/-- Cut a future back to the block of position `p` (R256). -/
def truncFuture (s : State) (g i p : Nat) : State :=
  match (tget s.groups g).bind fun gr => (tget gr.futures i).map fun f => (gr, f) with
  | none => s
  | some (gr, f) =>
    if f.lens.all (· ≤ p) then s else
      let b := p / 16
      let s := (List.range gr.layout.nlayers).foldl (fun s l => cutLayer s g i b l)
        (updFuture s g i fun f => { f with codes := f.codes.filter fun e => e.1 < 16 * b, offered := f.offered.filter (· < b) })
      setLag ((fitStore s g i).getD s) g i

/-- A FORK waits for the commits to its source whose adds landed before it reached the page service, waiting ones too (R252);
a DROP not for waiting ones (R254, R267). Either waits for a place among the 8 operations of the page service (R254). -/
def commitsOpen (s : State) (g i : Nat) (home t : Nat) (drop : Bool) : Bool :=
  8 ≤ openOps s home || s.commits.any fun c => c.group = g && c.idx = i && c.seq < t && !(drop && c.waiting)

/-- A segment of a page-service command (R170). -/
def serviceSeg (x : Ctx) (home : Nat) : List Seg :=
  [{ cls := if home = coreDie x.core then .write else .remote, left := 1, node := some home }]

def setIxD (s : State) (x : Ctx) (n : Nat) (v : Int) : State := setIx s x n v

def forkEffect : Effect := fun x e s => do
  let b := e.body
  let dix := field b 104 4
  need (dix ≠ 0) 0x07
  let (g, gr, i, f) ← jobFuture s x.job (ixVal x.ix (field b 108 4))
  if commitsOpen s g i gr.home (e.arrived.getD s.seq) false then return { st := s, hold := .commits } else
    match forkFuture s g gr f (field b 102 2) with
    | none => return { st := bump (setIxD s x dix (-1)) 0xE055 (gr.home + 1) 1, segs := serviceSeg x gr.home }
    | some (c, s) =>
      let gen := (((tget s.groups g).bind fun gr => tget gr.futures c).map (·.gen)).getD 0
      return { st := bump (setIxD s x dix (mkHandle g c gen)) 0xE054 (gr.home + 1) 1, segs := serviceSeg x gr.home }

/-- FORK (R143, R251). -/
def execFork (c : CoreNo) (b : Body) (s : State) : Host.Outcome State Fault Refusal :=
  .next (issueEngine false 0xC0 b none [] false
    (fun _ => do need (field b 0 102 = 0 && field b 102 2 < 3) 0x02; need (field b 104 4 ≠ 0) 0x07) forkEffect false s c)

def dropEffect : Effect := fun x e s => do
  let b := e.body
  let (g, gr, i, _) ← jobFuture s x.job (ixVal x.ix (field b 108 4))
  if commitsOpen s g i gr.home (e.arrived.getD s.seq) true then return { st := s, hold := .commits } else
    let s := if bit b 107 then truncFuture s g i (ixVal x.ix (field b 103 4)).toNat else dropFuture s g i
    return { st := s, segs := serviceSeg x gr.home }

/-- DROP of a whole future (R143, R255): TRUNC = 0. -/
def execDrop (c : CoreNo) (b : Body) (s : State) : Host.Outcome State Fault Refusal :=
  .next (if bit b 107 then s else
    issueEngine false 0xC1 b none [] false (fun _ => need (field b 0 103 = 0) 0x02) dropEffect false s c)

/-- DROP with TRUNC = 1 (R143, R256). -/
def execDropTrunc (c : CoreNo) (b : Body) (s : State) : Host.Outcome State Fault Refusal :=
  .next (if !bit b 107 then s else
    issueEngine false 0xC1 b none [] false (fun _ => need (field b 0 103 = 0) 0x02) dropEffect false s c)

end Sys2Proof.Machine
end

