-- ==== Sys2Proof/Machine/Recurrent.lean ====
section
/-! DEFINITION. SCAN and LCONV (R128, R287 to R292) and re-anchoring (R302, R303). -/

namespace Sys2Proof.Machine

/-- The operands of a recurrent instruction: input, parameters, state, output, the number of state indices. -/
structure RecIns where
  x  : Tile
  p  : Tile
  st : Tile
  y  : Tile
  ns : Nat

def recFmt (f : Fmt) : Bool := f = .fp32 || f = .bf16 || f = .fp16

/-- The checks of R288. `n` is the step count or chunk length. -/
def recOperands (x : Ctx) (b : Body) (pSpaces : List Space) (n : Int) : Res RecIns := do
  let xt ← operand x b 98 [.scratch]
  let p ← operand x b 84 pSpaces
  let st ← operand x b 70 [.scratch]
  let y ← operand x b 56 [.scratch]
  let ns := st.cols / 2
  need (st.fmt = .fp32) 0x03
  need (st.cols % 16 = 0 && 8 ≤ ns && ns ≤ 64 && st.rows ≤ 3072) 0x04
  need (p.fmt = .fp32) 0x03
  need (p.rows = st.rows && p.cols = 3 * ns + 1) 0x04
  need (recFmt xt.fmt) 0x03
  need (xt.rows ≤ 2048 && xt.cols = st.rows) 0x04
  need (recFmt y.fmt) 0x03
  need (y.rows = xt.rows && y.cols = xt.cols) 0x04
  need (n ≤ (xt.rows : Int)) 0x04
  requirePad xt
  requirePad p
  requirePad st
  requirePad y
  return { x := xt, p := p, st := st, y := y, ns := ns }

/-- The compensated update of one state element (R292). -/
def compStep (a bx x hi lo : Num) : Num × Num :=
  let (m, e) := twoProd a hi
  let (q, f) := twoProd bx x
  let (s, g) := twoSum m q
  let r := fFma .rne a lo e
  let r := fAdd .rne r f
  let r := fAdd .rne r g
  fastTwoSum s r

/-- The output of one step from the updated state (R289). -/
def recOut (d x : Num) (cs : List Num) (st : List (Num × Num)) : Num :=
  let acc := fMul .rne d x
  let acc := (cs.zip st).foldl (fun a p => fFma .rne p.1 p.2.1 a) acc
  (cs.zip st).foldl (fun a p => fFma .rne p.1 p.2.2 a) acc

/-- The parameters of a channel: a, b, c, d (R287). -/
def recParams (ns : Nat) (row : List Num) : List Num × List Num × List Num × Num :=
  (row.take ns, (row.drop ns).take ns, (row.drop (2 * ns)).take ns, row.getD (3 * ns) numZero)

/-- A channel's state from its row: hi then lo (R287). -/
def recState (ns : Nat) (row : List Num) : List (Num × Num) := (row.take ns).zip ((row.drop ns).take ns)

def recRow (st : List (Num × Num)) : List Num := st.map (·.1) ++ st.map (·.2)

/-- Step mode of one channel over its inputs: final state and outputs (R289). -/
def scanChannel (ns : Nat) (par : List Num) (st : List (Num × Num)) (xs : List Num) :
    List (Num × Num) × List Num :=
  let (a, bp, cp, d) := recParams ns par
  let r := xs.foldl (fun (acc : List (Num × Num) × List Num) u =>
    let st' := ((a.zip bp).zip acc.1).map fun p => compStep p.1.1 p.1.2 u p.2.1 p.2.2
    (st', recOut d u cp st' :: acc.2)) (st, [])
  (r.1, r.2.reverse)

/-- The state of a channel after the inputs, in closed form (R290, R292): one function of the operands, within the bound of
R293. -/
def closedState (ns chans L : Nat) (par : List Num) (st : List (Num × Num)) (xs : List Num) : List (Num × Num) :=
  let (a, bp, _, _) := recParams ns par
  ((a.zip bp).zip st).map fun p =>
    let r := Config.lconvState ns chans L
      ([fp32Bits p.1.1, fp32Bits p.1.2, fp32Bits p.2.1, fp32Bits p.2.2] ++ xs.map fp32Bits)
    boundedState (Config.lconvOrder ns chans L) p.1.1 p.1.2 p.2.1 p.2.2 xs (decodeNum .fp32 (r.1 % 2 ^ 32)) (decodeNum .fp32 (r.2 % 2 ^ 32))

/-- The carried-state slot that a state tile addresses (R297). -/
def slotOf (x : Ctx) (st : Tile) : Option Nat :=
  x.task.states.findIdx? fun sl => elemBit st 0 0 = (sl.sbase : Int) * 8

def updSlot (s : State) (c : Nat) (lc : Bool) (n : Nat) (f : Slot → Slot) : State :=
  updTask s c lc fun t => { t with states := t.states.modify n f }

/-- Rows of the history ring (R302). -/
def ringRows (sl : Slot) : Nat := sl.anchorN + 2048

/-- Write the rows of inputs to the history ring, from step `from0` (R302). -/
def writeRing (s : State) (asid : Nat) (sl : Slot) (from0 : Nat) (rows : List (List Num)) : Res State :=
  rows.zipIdx.foldlM (init := s) fun s (row, i) =>
    jobWrites s asid (sl.hist + (from0 + i) % ringRows sl * sl.channels * 4)
      (row.flatMap fun v => leBytes 4 (fp32Bits v))

/-- The segments of those writes, in the core's WRITE slots (R302, R170). -/
def ringSegs (s : State) (x : Ctx) (sl : Slot) (from0 n : Nat) : List Seg :=
  segsOf s x true ((List.range n).flatMap fun i => (List.range sl.channels).map fun c =>
    (((sl.hist + ((from0 + i) % ringRows sl * sl.channels + c) * 4) * 8 : Nat), 32))

/-- FP32 planes in job memory: CHANNELS rows of 2 NS values. -/
def readPlanes (s : State) (asid : Nat) (va chans ns : Nat) : Res (List (List Num)) :=
  (List.range chans).mapM fun c => (List.range (2 * ns)).mapM fun i => do
    return decodeNum .fp32 (← jobNat s asid (va + (c * 2 * ns + i) * 4) 4)

def planeBytes (rows : List (List Num)) : List Byte := rows.flatMap fun r => r.flatMap fun v => leBytes 4 (fp32Bits v)

/-- After an instruction advanced an anchoring slot: re-anchor when K reaches ANCHOR_N (R303). -/
def reanchor (x : Ctx) (s : State) (ins : RecIns) (n : Nat) : Res State := do
  match (getTask s x.core x.task.lc).bind fun t => t.states[n]? with
  | none => return s
  | some sl =>
    let k := sl.steps - sl.anchorStep
    if sl.anchorN = 0 ∨ k < sl.anchorN then return s else
      let anchor ← readPlanes s x.job.asid sl.anchor sl.channels sl.ns
      let hist ← (List.range k).mapM fun i => (List.range sl.channels).mapM fun c => do
        return decodeNum .fp32 (← jobNat s x.job.asid
          (sl.hist + ((sl.anchorStep + i) % ringRows sl * sl.channels + c) * 4) 4)
      let par ← tileNums x s ins.p
      let rows := (List.range sl.channels).map fun c =>
        recRow (closedState sl.ns sl.channels k (par.getD c []) (recState sl.ns (anchor.getD c []))
          (hist.map fun r => r.getD c numZero))
      let s ← doStores x s (← tileStores ins.st fun r c => fp32Bits (at2 numZero rows r c))
      let s ← jobWrites s x.job.asid sl.anchor (planeBytes rows)
      let s := updSlot s x.core x.task.lc n fun sl => { sl with anchorStep := sl.steps }
      return bump s 0xE063 (coreDie x.core + 1) 1

/-- Rows of a tile that are real, among the first `n`. -/
def realRows (t : Tile) (n : Nat) : List Nat := (List.range (min n t.rows)).filter fun r => t.r0 + r < t.extR

def scanEffect : Effect := fun x e s => do
  let b := e.body
  let n := ixVal x.ix (field b 52 4)
  let ins ← recOperands x b [.scratch] n
  let touch : Eff := { st := s, reads := tileTouches x ins.x ++ tileTouches x ins.p ++ tileTouches x ins.st
                       writes := tileTouches x ins.st ++ tileTouches x ins.y }
  if n ≤ 0 then return touch else
    let rows := realRows ins.x n.toNat
    let xv ← widened x s ins.x
    let pv ← tileNums x s ins.p
    let sv ← tileNums x s ins.st
    let old ← tileCodes x s ins.st
    let inputs (c : Nat) : List Num := rows.map fun r => at2 numZero xv r c
    let res := (List.range ins.st.rows).map fun c =>
      scanChannel ins.ns (pv.getD c []) (recState ins.ns (sv.getD c [])) (inputs c)
    let realCh (c : Nat) : Bool := ins.x.c0 + c < ins.x.extC
    -- the state rows of real channels; the output rows of the steps applied
    let sts ← tileStores ins.st fun c i =>
      if realCh c then fp32Bits ((recRow (res.getD c ([], [])).1).getD i numZero) else at2 0 old c i
    let s1 ← doStores x s sts
    let md := (rndOfCode (field b 50 2)).getD .rne
    let els := rows.zipIdx.flatMap fun (r, k) => (List.range ins.y.cols).filterMap fun c =>
      if isReal ins.y r c && realCh c then some (r, c, (res.getD c ([], [])).2.getD k numZero) else none
    let (cs, s2) := convAll s1 x.core ins.y.fmt md (bit b 49) (els.map fun p => p.2.2)
    let s3 ← doStores x s2 ((els.zip cs).map fun (p, k) => elemStore ins.y p.1 p.2.1 k.code)
    let s4 := countConv x e.pc s3 cs
    match slotOf x ins.st with
    | none => return { touch with st := s4 }
    | some k =>
      match x.task.states[k]? with
      | none => return { touch with st := s4 }
      | some sl =>
        let s5 ← if sl.anchorN = 0 then pure s4 else
          writeRing s4 x.job.asid sl sl.steps (rows.map fun r => xv.getD r [])
        let s6 := updSlot s5 x.core x.task.lc k fun sl => { sl with steps := sl.steps + rows.length }
        return { touch with st := (← reanchor x s6 ins k)
                            segs := if sl.anchorN = 0 then [] else ringSegs s x sl sl.steps rows.length }

/-- SCAN (R128, R289). -/
def execScan (c : CoreNo) (b : Body) (s : State) : Host.Outcome State Fault Refusal :=
  .next (issueEngine true 0x50 b none [] false
    (fun _ => need (field b 0 49 = 0 && field b 50 2 ≠ 3) 0x02) scanEffect false s c)

/-- LCONV at its start (R290). Its input rows go to the slot's ring also with EMIT = 0 and SEED = 1 (R302: every step that it
applies); with SEED = 0 and EMIT = 0 S is no operand (R298) and no ring is written (DEDUCED, log 101). -/
def lconvEffect : Effect := fun x e s => do
  let b := e.body
  let L := ixVal x.ix (field b 52 4)
  let seed := bit b 51
  let emit := bit b 50
  let ins ← recOperands x b [.scratch, .jobmem] L
  let stT := if seed || emit then tileTouches x ins.st else []
  let touch : Eff := { st := s, reads := tileTouches x ins.x ++ tileTouches x ins.p ++ (if seed then stT else [])
                       writes := tileTouches x ins.y ++ (if emit then stT else [])
                       segs := if ins.p.space = .jobmem then segsOf s x false (tileAddrs ins.p) else [] }
  let rows := realRows ins.x L.toNat
  let n := rows.length
  let zeroState : List (Num × Num) := List.replicate ins.ns (numZero, numZero)
  let xv ← widened x s ins.x
  let pv ← tileNums x s ins.p
  let sv ← if seed then tileNums x s ins.st else pure []
  let init (c : Nat) : List (Num × Num) := if seed then recState ins.ns (sv.getD c []) else zeroState
  let inputs (c : Nat) : List Num := rows.map fun r => at2 numZero xv r c
  let after (c k : Nat) : List (Num × Num) :=
    if k = 0 then init c
    else closedState ins.ns ins.st.rows n (pv.getD c []) (init c) ((inputs c).take k)
  let s1 ← if !emit || (n = 0 && seed) then pure s else
    doStores x s (← tileStores ins.st fun c i => fp32Bits ((recRow (after c n)).getD i numZero))
  let md := (rndOfCode (field b 48 2)).getD .rne
  let els := rows.zipIdx.flatMap fun (r, k) => (List.range ins.y.cols).filterMap fun c =>
    if isReal ins.y r c then
      let (_, _, cp, d) := recParams ins.ns (pv.getD c [])
      some (r, c, recOut d (at2 numZero xv r c) cp (after c (k + 1)))
    else none
  let (cs, s2) := convAll s1 x.core ins.y.fmt md (bit b 47) (els.map fun p => p.2.2)
  let s3 ← doStores x s2 ((els.zip cs).map fun (p, k) => elemStore ins.y p.1 p.2.1 k.code)
  let s4 := countConv x e.pc s3 cs
  match (if seed || emit then slotOf x ins.st else none) with
  | none => return { touch with st := s4 }
  | some k =>
    match x.task.states[k]? with
    | none => return { touch with st := s4 }
    | some sl =>
      let from0 := if seed then sl.steps else 0
      let s5 := if !emit then s4 else updSlot s4 x.core x.task.lc k fun sl =>
        { sl with steps := from0 + n, anchorStep := if seed || sl.anchorN = 0 then sl.anchorStep else 0 }
      if sl.anchorN = 0 then return { touch with st := s5 } else
        let s6 ← if seed then pure s5 else
          jobWrites s5 x.job.asid sl.anchor (List.replicate (sl.channels * 8 * sl.ns) 0)
        let s7 ← writeRing s6 x.job.asid sl from0 (rows.map fun r => xv.getD r [])
        let s8 ← if emit then reanchor x s7 ins k else pure s7
        return { touch with st := s8, segs := touch.segs ++ ringSegs s x sl from0 n }

/-- LCONV (R128, R290). -/
def execLconv (c : CoreNo) (b : Body) (s : State) : Host.Outcome State Fault Refusal :=
  .next (issueEngine true 0x51 b none [] false
    (fun _ => need (field b 0 47 = 0 && field b 48 2 ≠ 3) 0x02) lconvEffect false s c)

end Sys2Proof.Machine
end

