-- ==== Sys2Proof/Machine/Window.lean ====
section
/-! DEFINITION. Windows: their parameters (R193, R194), extents and taps (R195 to R197), WIN (R124, R198, R199) and
POOL (R200, R201); box decoding (R130, R209, R210) and non-maximum suppression (R131, R211 to R213). -/

namespace Sys2Proof.Machine

/-! ### Windows -/

/-- One axis of a window (R193, R196). -/
structure Axis where
  k   : Nat
  s   : Nat
  d   : Nat
  lo  : Nat
  hi  : Nat
  inp : Nat
  deriving DecidableEq, Repr

/-- A window with its first output position. -/
structure Window where
  t     : Axis
  h     : Axis
  w     : Axis
  pitch : Nat
  p0    : Int
  deriving DecidableEq, Repr

/-- The job-start check of a WINDOW descriptor (R194). -/
def windowOk (d : BitVec 256) : Bool :=
  let kt := field d 234 5
  decide (1 ≤ kt) && decide (kt ≤ 15) && decide (1 ≤ field d 229 5) && decide (1 ≤ field d 224 5)
    && [216, 208, 200, 192, 184, 176].all fun lo => decide (1 ≤ field d lo 8)

/-- The parameters of a WINDOW descriptor with the index values of an issue (R193, R194). -/
def windowOf (ix : Vector Word32 16) (d : BitVec 256) : Window :=
  let ext := field d 239 4
  { t := { k := field d 234 5, s := field d 216 8, d := field d 192 8, lo := field d 168 8, hi := field d 160 8
           inp := if ext = 0 then field d 112 16 else (ixVal ix ext).toNat }
    h := { k := field d 229 5, s := field d 208 8, d := field d 184 8, lo := field d 152 8, hi := field d 144 8
           inp := field d 96 16 }
    w := { k := field d 224 5, s := field d 200 8, d := field d 176 8, lo := field d 136 8, hi := field d 128 8
           inp := field d 80 16 }
    pitch := field d 40 40
    p0 := ixVal ix (field d 243 4) }

/-- The output extent of an axis (R196). -/
def extentOf (a : Axis) : Int := ((a.inp : Int) + a.lo + a.hi - a.d * ((a.k : Int) - 1) - 1) / a.s + 1

/-- Some axis has no output (R196). -/
def windowEmpty (w : Window) : Bool :=
  decide (extentOf w.t ≤ 0) || decide (extentOf w.h ≤ 0) || decide (extentOf w.w ≤ 0)

/-- The coordinate that tap `j` of output `o` reads, if it is real (R197). -/
def tapOf (a : Axis) (o : Int) (j : Nat) : Option Nat :=
  let i := o * a.s - a.lo + j * a.d
  if 0 ≤ i ∧ i < a.inp then some i.toNat else none

/-- The taps of output position `p` in raster tap order, none for a padded tap; none at all where `p` lies outside the
output (R196, R197). -/
def tapsOf (w : Window) (p : Int) : Option (List (Option (Nat × Nat × Nat))) :=
  let oh := extentOf w.h
  let ow := extentOf w.w
  if p < 0 ∨ extentOf w.t * oh * ow ≤ p then none else
    let ot := p / (oh * ow)
    let orow := p / ow % oh
    let oc := p % ow
    some <| (List.range w.t.k).flatMap fun jt => (List.range w.h.k).flatMap fun jh => (List.range w.w.k).map fun jw =>
      match tapOf w.t ot jt, tapOf w.h orow jh, tapOf w.w oc jw with
      | some t, some y, some z => some (t, y, z)
      | _, _, _ => none

/-- The window of an instruction's WPAR (R124, R194). -/
def windowAt (x : Ctx) (b : Body) : Res Window := do
  let d := x.task.td.getD (field b 78 6) 0
  need (tdValid d) 0x06
  need (tdSpace d = 3) 0x05
  return windowOf x.ix d

/-- The source operand of a window instruction: its ROWS is not used (R195), but R103 accepts a ROWS of 0 for no instruction
of this kind. -/
def windowSrc (x : Ctx) (b : Body) (spaces : List Space) : Res Tile := operand x b 98 spaces

/-- The bit address of channel `c` of a tap (R195). -/
def tapBit (t : Tile) (w : Window) (tap : Nat × Nat × Nat) (c : Nat) : Int :=
  ((tdBase t.desc : Int) + tap.1 * w.pitch + tap.2.1 * tdPlanePitch t.desc + tap.2.2 * t.pitch) * 8
    + (t.c0 + c) * fmtBits t.fmt

/-- The channel is real (R195). -/
def chanReal (t : Tile) (c : Nat) : Bool := t.c0 + c < t.extC

/-- A channel beyond EXT_COLS under PAD = 0 is out of bounds (R195). -/
def requireChans (t : Tile) : Res Unit :=
  if t.pad || t.cols == 0 || decide (t.c0 + t.cols ≤ t.extC) then .ok () else .error failBounds

/-- The code of channel `c` of a tap: zero for a padded tap and a pad channel (R195, R197). -/
def tapCode (x : Ctx) (s : State) (t : Tile) (w : Window) (tap : Option (Nat × Nat × Nat)) (c : Nat) : Res Nat :=
  match tap with
  | none => .ok 0
  | some p => if chanReal t c then codeAt x s x.core t.space (fmtBits t.fmt) (tapBit t w p c) else .ok 0

/-- The taps that are read, output by output: bit address in the source, bit address of their place in DST, bits. -/
def tapSpans (t dst : Tile) (w : Window) (taps : List (Option (List (Option (Nat × Nat × Nat))))) : List (Int × Int × Nat) :=
  let len := ((List.range t.cols).filter (chanReal t)).length * fmtBits t.fmt
  if len = 0 then [] else
    taps.zipIdx.flatMap fun (o, r) => (o.getD []).zipIdx.filterMap fun (tap, j) =>
      tap.map fun p => (tapBit t w p 0, elemBit dst r (j * t.cols), len)

/-- Put a tap before runs, merged with the first where it is contiguous both in the source and in DST (R199). -/
def addRun (p : Int × Int × Nat) : List (Int × Int × Nat) → List (Int × Int × Nat)
  | q :: more => if p.1 + p.2.2 = q.1 ∧ p.2.1 + p.2.2 = q.2.1 then (p.1, p.2.1, p.2.2 + q.2.2) :: more else p :: q :: more
  | [] => [p]

/-- The tap runs of WIN: address and bits (R199). -/
def tapRuns (t dst : Tile) (w : Window) (taps : List (Option (List (Option (Nat × Nat × Nat))))) : List (Int × Nat) :=
  ((tapSpans t dst w taps).foldr addRun []).map fun p => (p.1, p.2.2)

/-- The single elements of a run, for counting its segments page by page (R169). -/
def runElems (w : Nat) (r : Int × Nat) : List (Int × Nat) := (List.range (r.2 / w)).map fun i => (r.1 + i * w, w)

/-- A window instruction with no output does nothing but raise OK_EMPTY (R196). The checks of formats and shapes (R124, R195,
R198, R200) come before this, those of channels and of DST's bounds, which an instruction that reads and writes nothing
cannot break, do not (DESIGN CHOICE, log 143: the spec does not say which wins). -/
def emptyWindow (x : Ctx) (s : State) : Eff := { st := raiseOk s x.jobn 1 }

def winEffect : Effect := fun x e s => do
  let src ← windowSrc x e.body [.jobmem, .scratch]
  let dst ← operand x e.body 84 [.scratch]
  let w ← windowAt x e.body
  need (!isMx src.fmt && dst.fmt = src.fmt) 0x03
  need (dst.cols = w.t.k * w.h.k * w.w.k * src.cols) 0x04
  if windowEmpty w then return emptyWindow x s
  requireChans src
  requirePad dst
  let taps := (List.range dst.rows).map fun r => if dst.r0 + r < dst.extR then tapsOf w (w.p0 + r) else none
  let rows ← taps.mapM fun o => match o with
    | none => .ok []
    | some ts => do return (← ts.mapM fun tap => (List.range src.cols).mapM fun c => tapCode x s src w tap c).flatten
  let sts ← tileStores dst (at2 0 rows)
  let s' ← scratchStores x s x.core sts
  let runs := tapRuns src dst w taps
  let els := runs.flatMap (runElems (fmtBits src.fmt))
  return { st := s', writes := tileTouches x dst
           reads := touchesOf src.space x.task.lc x.task.reserve x.job.footKib els
           segs := if src.space = .jobmem then runs.flatMap fun r => segsOf s x false (runElems (fmtBits src.fmt) r)
             else segsScratch ((runs.map (·.2)).sum) }

/-- WIN (R124, R198). -/
def execWin (c : CoreNo) (b : Body) (s : State) : Host.Outcome State Fault Refusal :=
  .next (issueEngine false 0x30 b none [] false (fun _ => need (field b 0 78 = 0) 0x02) winEffect false s c)

/-- What POOL writes for one channel from its real taps (R200, R201). -/
def poolNum (avg countPad : Bool) (all : Nat) (vs : List Num) : Num :=
  match vs with
  | [] => numZero
  | v :: rest =>
    if avg then fDiv .rne (rest.foldl (fAdd .rne) v) (numOfInt (if countPad then all else vs.length))
    else rest.foldl numMax v

/-- POOL at its start (R200, R201). An output position whose DST row is a pad row is not written and does not count in
EMPTY_WIN (DESIGN CHOICE, log 144). -/
def poolEffect : Effect := fun x e s => do
  let b := e.body
  let md := (rndOfCode (field b 74 2)).getD .rne
  let src ← windowSrc x b [.scratch]
  let dst ← operand x b 84 [.scratch]
  let w ← windowAt x b
  need (isDFmt src.fmt && isDFmt dst.fmt) 0x03
  need (dst.cols = src.cols) 0x04
  if e.ident then
    let s' ← writeNums x e s dst md (bit b 73) fun _ _ => numZero
    return { st := s', writes := tileTouches x dst }
  if windowEmpty w then return emptyWindow x s
  requireChans src
  let taps := (List.range dst.rows).map fun r => if dst.r0 + r < dst.extR then tapsOf w (w.p0 + r) else none
  let all := w.t.k * w.h.k * w.w.k
  let rows ← taps.mapM fun o => match o with
    | none => .ok []
    | some ts => (List.range src.cols).mapM fun c => do
      let real := ts.filter (·.isSome)
      let vs ← real.mapM fun tap => do return widen src.fmt (← tapCode x s src w tap c)
      return poolNum (bit b 77) (bit b 76) all vs
  let empty := taps.countP fun o => match o with
    | none => false
    | some ts => ts.all (·.isNone)
  let s := bumpIf s 0xE04C (coreDie x.core + 1) empty
  let s' ← writeNums x e s dst md (bit b 73) (at2 numZero rows)
  let els := (tapSpans src dst w taps).flatMap fun p => runElems (fmtBits src.fmt) (p.1, p.2.2)
  return { st := s', writes := tileTouches x dst
           reads := touchesOf src.space x.task.lc x.task.reserve x.job.footKib els }

/-- POOL (R124, R200). -/
def execPool (c : CoreNo) (b : Body) (s : State) : Host.Outcome State Fault Refusal :=
  .next (issueEngine true 0x31 b none [] true (fun _ => need (field b 0 73 = 0 && field b 74 2 ≠ 3) 0x02)
    poolEffect false s c)

/-! ### Boxes -/

/-- The formats of boxes, deltas, anchors and scores (R210, R213). -/
def boxFmt (f : Fmt) : Bool := f = .fp32 || f = .bf16 || f = .fp16

/-- x₂ − x₁ and its like, in FP32. -/
def half (v : Num) : Num := fMul .rne v (.fin false 1 (-1))

/-- One decoded box: corners, or centre and size with `ew` and `eh` the exponentials (R209). -/
def decodeBox (corner : Bool) (d an : List Num) (ew eh : Num) : List Num :=
  let g (l : List Num) (i : Nat) : Num := l.getD i numZero
  let wa := fSub .rne (g an 2) (g an 0)
  let ha := fSub .rne (g an 3) (g an 1)
  if corner then
    [fAdd .rne (g an 0) (fMul .rne (g d 0) wa), fAdd .rne (g an 1) (fMul .rne (g d 1) ha),
     fAdd .rne (g an 2) (fMul .rne (g d 2) wa), fAdd .rne (g an 3) (fMul .rne (g d 3) ha)]
  else
    let xa := fAdd .rne (g an 0) (half wa)
    let ya := fAdd .rne (g an 1) (half ha)
    let cx := fAdd .rne xa (fMul .rne (g d 0) wa)
    let cy := fAdd .rne ya (fMul .rne (g d 1) ha)
    let w := fMul .rne wa ew
    let h := fMul .rne ha eh
    [fSub .rne cx (half w), fSub .rne cy (half h), fAdd .rne cx (half w), fAdd .rne cy (half h)]

/-- A coordinate clamped to [0, top]; NaN stays NaN (R209). -/
def clampCoord (top : Nat) (v : Num) : Num := numMin (numMax v numZero) (numOfInt top)

def boxdEffect : Effect := fun x e s => do
  let b := e.body
  let d ← operand x b 98 [.scratch, .jobmem]
  let an ← operand x b 84 [.scratch, .jobmem]
  let dst ← operand x b 70 [.scratch, .jobmem]
  need (boxFmt d.fmt && boxFmt an.fmt && boxFmt dst.fmt) 0x03
  need (d.cols = 4 && an.cols = 4 && dst.cols = 4 && an.rows = d.rows && dst.rows = d.rows && d.rows ≤ 65536) 0x04
  requirePad d
  requirePad an
  requirePad dst
  let vd ← widened x s d
  let va ← widened x s an
  let corner := field b 68 2 = 1
  let top := decodeNum .fp32 (field b 31 32)
  let args := if corner then [] else vd.flatMap fun r => [numMin (r.getD 2 numZero) top, numMin (r.getD 3 numZero) top]
  let (es, s) := coreFn x e.pc s 1 false e.fault args
  let lim := (ixVal x.ix (field b 63 4)) % 2 ^ 32
  let boxes := vd.zipIdx.map fun (r, i) =>
    let bx := decodeBox corner r (va.getD i []) (es.getD (2 * i) numZero) (es.getD (2 * i + 1) numZero)
    if bit b 67 then bx.zipIdx.map fun (v, c) =>
      clampCoord (if c % 2 = 0 then lim.toNat % 2 ^ 16 else lim.toNat / 2 ^ 16) v
    else bx
  let s' ← writeSel x e s dst .rne false (fun r _ => d.r0 + r < d.extR) (at2 numZero boxes)
  return { st := s', reads := tileTouches x d ++ tileTouches x an, writes := tileTouches x dst }

/-- BOXD (R130, R209). -/
def execBoxd (c : CoreNo) (b : Body) (fault : Option Nat) (s : State) : Host.Outcome State Fault Refusal :=
  .next (issueEngine true 0x70 b fault [] false
    (fun _ => need (field b 0 31 = 0 && field b 68 2 < 2 && !isNaN (decodeNum .fp32 (field b 31 32))) 0x02)
    boxdEffect false s c)

/-! ### Non-maximum suppression -/

/-- The overlap of two corner boxes (R212). -/
def overlap (a b : List Num) : Num :=
  let g (l : List Num) (i : Nat) : Num := l.getD i numZero
  let side (lo hi : Num) : Num := numMax numZero (fSub .rne hi lo)
  let area (l : List Num) : Num := fMul .rne (side (g l 0) (g l 2)) (side (g l 1) (g l 3))
  let inter := fMul .rne (side (numMax (g a 0) (g b 0)) (numMin (g a 2) (g b 2)))
    (side (numMax (g a 1) (g b 1)) (numMin (g a 3) (g b 3)))
  let union := fSub .rne (fAdd .rne (area a) (area b)) inter
  if isZero union then numZero else fDiv .rne inter union

/-- Put a candidate into a list in visiting order: descending score, lower row first (R211). -/
def insertCand (p : Nat × Num) : List (Nat × Num) → List (Nat × Num)
  | [] => [p]
  | q :: t => if numLt q.2 p.2 then p :: q :: t else q :: insertCand p t

/-- Visit candidates and keep those that overlap no kept box by more than `iou`, at most `limit` (R211). -/
def visit (boxes : List (List Num)) (iou : Num) (limit : Nat) : List Nat → List (Nat × Num) → List Nat
  | kept, [] => kept
  | kept, p :: t =>
    if limit ≤ kept.length then kept
    else if kept.any fun k => numLt iou (overlap (boxes.getD k []) (boxes.getD p.1 [])) then
      visit boxes iou limit kept t
    else visit boxes iou limit (kept ++ [p.1]) t

/-- NMS (R211): what it finds is written when it retires (R213). -/
def nmsEffect : Effect := fun x e s => do
  let b := e.body
  let bx ← operand x b 98 [.scratch, .jobmem]
  let sc ← operand x b 84 [.scratch, .jobmem]
  let ko ← operand x b 70 [.scratch, .jobmem]
  let kix := field b 2 4
  need (boxFmt bx.fmt && boxFmt sc.fmt && ko.fmt = .int32) 0x03
  need (bx.cols = 4 && sc.cols = 1 && sc.rows = bx.rows && bx.rows ≤ 65536 && ko.cols = 1) 0x04
  requirePad bx
  requirePad sc
  let boxes ← widened x s bx
  let scores ← widened x s sc
  let smin := decodeNum .fp32 (field b 6 32)
  let cands := (List.range bx.rows).filterMap fun r =>
    let v := at2 numZero scores r 0
    if bx.r0 + r < bx.extR ∧ numLe smin v then some (r, v) else none
  let order := cands.foldl (fun l p => insertCand p l) []
  let limit := min (min (ixVal x.ix kix).toNat 4096) ko.rows
  let kept := visit boxes (decodeNum .fp32 (field b 38 32)) limit [] order
  let sts ← tileStores ko fun r _ => match kept[r]? with
    | some k => k
    | none => 2 ^ 32 - 1
  requireTile x s true ko
  return { st := s, reads := tileTouches x bx ++ tileTouches x sc, writes := tileTouches x ko
           outs := sts.map fun q => { scratch := q.sp = .scratch, a := q.a, w := q.w, code := q.code }
           lateIx := some (kix, kept.length) }

/-- NMS (R131, R211). -/
def execNms (c : CoreNo) (b : Body) (s : State) : Host.Outcome State Fault Refusal :=
  .next (issueEngine true 0x71 b none [] false
    (fun _ => do need (field b 0 2 = 0) 0x02; need (field b 2 4 ≠ 0) 0x07) nmsEffect false s c)

end Sys2Proof.Machine
end

