-- ==== Sys2Proof/Machine/Route.lean ====
section
/-! DEFINITION. ROUTE (R129, R272 to R277) and COMB (R129, R282 to R284). -/

namespace Sys2Proof.Machine

/-! ### Choosing experts -/

/-- Put a logit into a ranking: descending, lower expert first (R272). -/
def insertLogit (p : Nat × Num) : List (Nat × Num) → List (Nat × Num)
  | [] => [p]
  | q :: t => if numLt q.2 p.2 then p :: q :: t else q :: insertLogit p t

/-- The selectable logits of a row in rank order (R272). -/
def ranking (row : List Num) : List (Nat × Num) :=
  (row.zipIdx.filterMap fun (v, e) => if isNaN v then none else some (e, v)).foldl (fun l p => insertLogit p l) []

/-- The logits over which a row's weights are normalised, in expert order (R273). -/
def normSet (norm : Nat) (row : List Num) (chosen : List Nat) : List (Nat × Num) :=
  (row.zipIdx.map fun (v, e) => (e, v)).filter fun p =>
    !isNaN p.2 && (norm = 0 || (norm = 1 && chosen.contains p.1))

/-- The gate weights of a row's choices from the exponentials of its set (R273). -/
def gateWeights (norm : Nat) (row : List Num) (chosen : List Nat) (es : List (Nat × Num)) : List Num :=
  if norm = 2 then chosen.map fun e => row.getD e numZero
  else
    let sum := es.foldl (fun a p => fAdd .rne a p.2) numZero
    chosen.map fun e => fDiv .rne (((es.find? fun p => p.1 = e).map (·.2)).getD numZero) sum

/-- Real columns of a tile. -/
def realCols (t : Tile) : Nat := ((List.range t.cols).filter fun c => t.c0 + c < t.extC).length

/-- What a choice of a row becomes: expert, slot and weight (R276). -/
structure Choice where
  row    : Nat
  rank   : Nat
  expert : Nat
  weight : Num

/-- Claim the slots of the choices, expert by expert, each by one fetch-add (R275): (choice, slot). A counter that is a pad
element reads zero and is not written (R104). -/
def claim (x : Ctx) (cnt : Tile) (s : State) (cs : List Choice) (experts : List Nat) : Res (List (Choice × Int) × State) :=
  experts.foldlM (init := (([] : List (Choice × Int)), s)) fun (acc, s) e => do
    let mine := cs.filter fun c => c.expert = e
    if mine.isEmpty then return (acc, s)
    let (old, s) ← if isReal cnt 0 e then adderElem x s .int32 (elemBit cnt 0 e) mine.length else .ok (0, s)
    return (acc ++ mine.zipIdx.map (fun (c, i) => (c, toSigned 32 old + i)), s)

def routeEffect : Effect := fun x e s => do
  let b := e.body
  let k := field b 52 4
  let norm := field b 50 2
  let g ← operand x b 98 [.scratch]
  let it ← operand x b 84 [.scratch]
  let wt ← operand x b 70 [.scratch]
  let cnt ← operand x b 56 [.jobmem]
  need (boxFmt g.fmt && it.fmt = .int32 && wt.fmt = .fp32 && cnt.fmt = .int32) 0x03
  need (g.rows ≤ 512 && g.cols ≤ 4096 && it.rows = g.rows && it.cols = 2 * k && wt.rows = g.rows && wt.cols = k
    && cnt.rows = 1 && g.cols ≤ cnt.cols) 0x04
  let E := realCols g
  let cap := ixVal x.ix (field b 46 4)
  need (decide ((E : Int) * cap < 2 ^ 31)) 0x04
  requirePad g
  requirePad it
  requirePad wt
  requirePad cnt
  let all ← widened x s g
  let rows : List (Nat × List Num) :=
    (all.zipIdx.filter fun p => decide (g.r0 + (p.2 : Int) < g.extR)).map fun p => (p.2, p.1.take E)
  let nans := rows.countP fun p => p.2.any isNaN
  let picks : List (Nat × List Num × List Nat) := rows.map fun (r, row) => (r, row, ((ranking row).take k).map (·.1))
  -- the exponentials of every row, in row and expert order
  let sets : List (List (Nat × Num)) := picks.map fun (_, row, ch) => normSet norm row ch
  let args := sets.flatMap fun st =>
    let m := st.foldl (fun (a : Num) p => numMax a p.2) (.inf true)
    st.map fun p => expArg p.2 m
  let (es, s) := if norm = 2 then ([], s) else coreFn x e.pc s 1 false e.fault args
  let ws := (sets.foldl (fun (acc : List (List (Nat × Num)) × List Num) st =>
    (acc.1 ++ [(st.map (·.1)).zip acc.2], acc.2.drop st.length)) (([] : List (List (Nat × Num))), es)).1
  let cs := (picks.zip ws).flatMap fun ((r, row, ch), w) =>
    ((ch.zip (gateWeights norm row ch w)).zipIdx.map fun ((e, v), j) =>
      ({ row := r, rank := j, expert := e, weight := v } : Choice))
  let (slots, s) ← claim x cnt s cs (List.range E)
  let at' (r j : Nat) : Option (Choice × Int) := slots.find? fun p => p.1.row = r && p.1.rank = j
  let valid (v : Int) : Bool := decide (0 ≤ v) && decide (v < cap)
  let d := coreDie x.core
  let spilt := slots.filter fun p => !valid p.2
  let s := bumpIf (bumpIf s 0xE05C (d + 1) slots.length) 0xE05D (d + 1) spilt.length
  let s := match (spilt.foldl (fun (a : Option Choice) p => match a with
      | none => some p.1
      | some q => if p.1.row < q.row ∨ (p.1.row = q.row ∧ p.1.rank < q.rank) then some p.1 else some q) none) with
    | some c => firstEvent s x.jobn .overflow 0 0x000C d (packItems [(16, x.core), (24, e.pc), (16, c.expert)])
    | none => s
  let s := countSpecial x e.pc s 0 nans
  let inRows (r : Nat) : Bool := rows.any fun p => p.1 = r
  let iSts ← tileStores it fun r c => match at' r (c / 2) with
    | none => 2 ^ 32 - 1
    | some (ch, v) =>
      if c % 2 = 0 then ch.expert
      else if valid v then ofSigned 32 ((ch.expert : Int) * cap + v) else 2 ^ 32 - 1
  let wSts ← tileStores wt fun r c => match at' r c with
    | none => 0
    | some (ch, v) => if valid v then fp32Bits ch.weight else 0
  -- a pad row of G writes no row of I or W
  let keep (t : Tile) (sts : List Store) : List Store := sts.filter fun st =>
    (List.range t.rows).any fun r => inRows r && (List.range t.cols).any fun c => isReal t r c && elemBit t r c = st.a
  let s' ← scratchStores x s x.core (keep it iSts ++ keep wt wSts)
  return { st := s', reads := tileTouches x g, writes := tileTouches x it ++ tileTouches x wt ++ tileTouches x cnt }

/-- ROUTE (R129, R272). -/
def execRoute (c : CoreNo) (b : Body) (fault : Option Nat) (s : State) : Host.Outcome State Fault Refusal :=
  .next (issueEngine true 0x60 b fault [] false
    (fun _ => need (field b 0 46 = 0 && field b 50 2 < 3 && 1 ≤ field b 52 4 && field b 52 4 ≤ 8) 0x02)
    routeEffect false s c)

/-! ### Combining -/

/-- Contributions in the order in which their rows arrive: `order` names them by number, the rest follow (R282). -/
def arrange (order : List Nat) (n : Nat) : List Nat :=
  let first := (order.filter (· < n)).foldl (fun l i => if l.contains i then l else l ++ [i]) []
  first ++ (List.range n).filter fun i => !first.contains i

/-- The formats of Y (R284). -/
def combY (f : Fmt) : Bool := boxFmt f || f = .e4m3 || f = .e5m2

/-- COMB at its start (R282): an element of I, W or Y that is a pad element takes no part (R151). The identity write checks
its operands as `identProblem` does (log 142). -/
def combEffect : Effect := fun x e s => do
  let b := e.body
  let acc := bit b 55
  let md := (rndOfCode (field b 53 2)).getD .rne
  let y ← operand x b 98 [.scratch, .jobmem]
  let it ← operand x b 84 [.scratch]
  let wt ← operand x b 70 [.scratch]
  let out ← operand x b 56 [.scratch, .jobmem]
  need (combY y.fmt && boxFmt out.fmt && it.fmt = .int32 && wt.fmt = .fp32) 0x03
  need (out.cols = y.cols && out.rows = it.rows && it.cols % 2 = 0 && 2 ≤ it.cols && it.cols ≤ 16
    && wt.cols * 2 = it.cols && wt.rows = it.rows) 0x04
  if e.ident then
    if acc then return { st := s }
    let s' ← writeNums x e s out md (bit b 52) fun _ _ => numZero
    return { st := s', writes := tileTouches x out }
  requirePad it
  requirePad wt
  requirePad out
  let codes ← tileCodes x s it
  let ws ← tileNums x s wt
  let live : List Nat := (List.range it.rows).filter fun r => decide (it.r0 + (r : Int) < it.extR)
  let contribs := live.flatMap fun r => (List.range wt.cols).filterMap fun j =>
    let v := toSigned 32 (at2 0 codes r (2 * j + 1))
    if v < 0 ∨ !isReal it r (2 * j + 1) ∨ !isReal wt r j then none else some (r, j, v)
  if contribs.any (fun p => decide (y.extR ≤ p.2.2)) then throw failBounds
  let prods ← contribs.mapM fun (r, j, v) => do
    let row := rowOfTensor y v
    let ys ← (List.range y.cols).mapM fun c => elemNum x s row 0 c
    return (r, ys.map fun u => fMul .rne (at2 numZero ws r j) (toFp32 .rne u))
  let ordered := (arrange e.order prods.length).filterMap fun i => prods[i]?
  let old ← if acc then tileNums x s out else .ok []
  let here (r c : Nat) := if y.c0 + (c : Int) < y.extC then ordered.filter fun p => p.1 = r else []
  let sum (r c : Nat) : Num :=
    let start := if acc then toFp32 .rne (at2 numZero old r c) else numZero
    (here r c).foldl (fun a p => fAdd .rne a (p.2.getD c numZero)) start
  let s' ← writeSel x e s out md (bit b 52) (fun r c => live.contains r && (!acc || !(here r c).isEmpty)) sum
  let yRows := contribs.map fun p => tileAddrs (rowOfTensor y p.2.2)
  return { st := s', writes := tileTouches x out
           reads := tileTouches x it ++ tileTouches x wt ++ (if acc then tileTouches x out else [])
             ++ touchesOf y.space x.task.lc x.task.reserve x.job.footKib yRows.flatten
           segs := yRows.flatMap fun as =>
             if y.space = .jobmem then segsOf s x false as else segsScratch (as.length * fmtBits y.fmt) }

/-- COMB (R129, R282). -/
def execComb (c : CoreNo) (b : Body) (order : List Nat) (s : State) : Host.Outcome State Fault Refusal :=
  .next (issueEngine true 0x61 b none order true (fun _ => need (field b 0 52 = 0 && field b 53 2 ≠ 3) 0x02)
    combEffect false s c)

end Sys2Proof.Machine
end

