-- ==== Sys2Proof/Machine/Start.lean ====
section
/-! DEFINITION. The start of a queued instruction by its opcode, and what lets held instructions start: retirement
(R95, R166, R187), the completion of a segment (R170, R171), the end of a fetch hazard (R167), a carousel's counts
(R189); and the identity write of a skipped body (R157, R160). -/

namespace Sys2Proof.Machine

/-- The effect of an engine opcode at its start. -/
def effectOf (op : BitVec 8) : Option Effect :=
  match op.toNat with
  | 0x01 => some ldtEffect
  | 0x02 => some sttEffect
  | 0x03 => some gathEffect
  | 0x04 => some scatEffect
  | 0x10 => some (matEffect mmaIns)
  | 0x11 => some (matEffect mmaxIns)
  | 0x20 => some ewuEffect
  | 0x21 => some ewbEffect
  | 0x22 => some actEffect
  | 0x30 => some winEffect
  | 0x31 => some poolEffect
  | 0x40 => some attsEffect
  | 0x41 => some attvEffect
  | 0x50 => some scanEffect
  | 0x51 => some lconvEffect
  | 0x60 => some routeEffect
  | 0x61 => some combEffect
  | 0x70 => some boxdEffect
  | 0x71 => some nmsEffect
  | 0x80 => some maddEffect
  | 0x90 => some cvtEffect
  | 0xC0 => some forkEffect
  | 0xC1 => some dropEffect
  | _ => none

/-- Try to start entry `k` of a queue by its opcode. -/
def startEntry (s : State) (c : Nat) (lc exe : Bool) (k : Nat) : State × Bool :=
  match getTask s c lc with
  | none => (s, false)
  | some t =>
    match (queueOf t exe)[k]? with
    | none => (s, false)
    | some e =>
      match effectOf e.op with
      | none => (s, false)
      | some f => tryStart f s c lc exe k

/-- The first entry of a queue that has not started. -/
def nextEntry (s : State) (c : Nat) (lc exe : Bool) : Option (Nat × QEntry) :=
  match getTask s c lc with
  | none => none
  | some t => (queueOf t exe).zipIdx.find? (fun p => !p.1.started) |>.map fun p => (p.2, p.1)

/-- Start the entries of a queue in order, from one that `first` admits, until one is held (R94, R166). -/
def drain (first : Hold → Bool) : Nat → State → Nat → Bool → Bool → State
  | 0, s, _, _, _ => s
  | n + 1, s, c, lc, exe =>
    if !mayStart s c lc then s else
      match nextEntry s c lc exe with
      | none => s
      | some (k, e) =>
        if !first e.hold then s else
          let r := startEntry s c lc exe k
          if r.2 then drain (fun h => h = .none) n r.1 c lc exe else r.1

/-- Entries of a queue that were never tried go on behind one that has started. -/
def goOn (s : State) (c : Nat) (lc exe : Bool) : State := drain (fun h => h = .none) 40 s c lc exe

/-- Both queues of a task go on. -/
def goOnBoth (s : State) (c : Nat) (lc : Bool) : State := goOn (goOn s c lc false) c lc true

/-- Instructions held on a carried-state slot look again (R298). -/
def retrySlot (n : Nat) (s : State) (c : Nat) (lc : Bool) : State :=
  [false, true].foldl (fun s exe => drain (fun h => h = .slot n || h = .none) 40 s c lc exe) s

/-- Every FORK and DROP that waited for a commit to its future looks again (R252, R254). -/
def retryCommits (s : State) : State :=
  s.cores.foldl (fun s (c, _) => [false, true].foldl (fun s lc =>
    drain (fun h => h = .commits) 40 s c lc false) s) s

/-- INSTR_RETIRE (R95): an instruction with nothing outstanding retires. -/
def execInstrRetire (c : CoreNo) (lc exe : Bool) (k : Nat) (s : State) : Host.Outcome State Fault Refusal :=
  .next <|
    match getTask s c lc with
    | none => s
    | some t =>
      match (queueOf t exe)[k]?, tget s.jobs t.job with
      | some e, some j =>
        if !entryDone e || !mcastDone s j e then s else
          let s := retireEntry s c lc exe k e
          drain (fun h => h = .mcast || h = .none) 40 s c lc true
      | _, _ => s

/-! ### Segments -/

/-- Segments of a class in one entry that wait for or hold a slot. -/
def clsLeft (cls : SlotClass) (e : QEntry) : Nat :=
  ((e.segs.filter fun g => g.cls = cls && !g.waiting).map (·.left)).sum

/-- The slots of a class in a task's split (R172). -/
def slotsOfClass (t : Task) : SlotClass → Nat
  | .read => t.slotsR
  | .write => t.slotsW
  | .remote => t.slotsX

/-- One segment of a class in an entry completes: which, and the rest. -/
def takeSeg (cls : SlotClass) (landing : Bool) : List Seg → Option (Seg × List Seg)
  | [] => none
  | g :: gs =>
    if g.cls = cls && !g.waiting && !g.held && 0 < g.left && (!landing || 0 < g.landing) then
      some (g, { g with left := g.left - 1, landing := g.landing - 1 } :: gs)
    else (takeSeg cls landing gs).map fun r => (r.1, g :: r.2)

/-- The node that a segment's bytes lie at: a die, or 4 for host memory. -/
def segNode (s : State) (g : Seg) : Option Nat :=
  match g.node, g.kv, g.vpn with
  | some n, _, _ => some n
  | none, some key, _ => (getPage s key).map fun p => if p.tier = 4 then 4 else p.place
  | none, none, some v => (findPte s g.asid (v * 65536)).map fun p => if p.tier = 4 then 4 else p.die
  | none, none, none => none

/-- The flits of a REMOTE segment of 2 KiB (R22, R24): writes go in DATA, a read and a fetch-add as a request with DATA back,
FORK and DROP as a request. -/
def segFlits (s : State) (c : Nat) (op : BitVec 8) (g : Seg) : State :=
  let here := coreDie c
  let page := g.vpn.getD 0
  match segNode s g with
  | none => s
  | some n =>
    if g.cls ≠ .remote ∨ n = here then s
    else if op = 0xC0 ∨ op = 0xC1 then send s .req here n page 1
    else if op = 0x02 ∨ op = 0x04 then send s .data here n page (flitsOf 2048)
    else send (send s .req here n page 1) .data n here page (flitsOf 2048)

/-- Segments of a class that an entry's instruction must let go first: those of the instructions, of either engine, that
started before it (R171, R224). -/
def clsEarlier (t : Task) (cls : SlotClass) (e : QEntry) : Nat :=
  (((t.fq ++ t.eq).filter fun q => q.started && q.uid < e.uid).map (clsLeft cls)).sum

/-- SEGMENT_COMPLETE (R170, R171): a segment of entry `k` that holds a slot of its class completes. Segments of
a class hold slots in the order in which their instructions started. While an LC job has the core, only best-effort
segments that were in flight complete (R168). What a REMOTE segment moved crossed the bridge in DATA flits (R24). -/
def execSegmentComplete (c : CoreNo) (lc : Bool) (k : EntryRef) (cls : SlotClass) (s : State) :
    Host.Outcome State Fault Refusal :=
  .next <|
    match getTask s c lc with
    | none => s
    | some t =>
      match (queueOf t k.exe)[k.k]? with
      | none => s
      | some e =>
        let landing := !lc && (getCore s c).lcHas
        if !e.started || (!landing && slotsOfClass t cls ≤ clsEarlier t cls e) then s else
          match takeSeg cls landing e.segs with
          | none => s
          | some (g, segs) => setEntry (segFlits s c e.op g) c lc k.exe k.k { e with segs := segs }

/-- FETCH_HAZARD_START (R167): the fetch instruction that waited for an overlapping earlier one starts. -/
def execFetchHazardStart (c : CoreNo) (lc : Bool) (k : Nat) (s : State) : Host.Outcome State Fault Refusal :=
  .next <|
    match nextEntry s c lc false with
    | some (i, e) => if i = k ∧ e.hold = .hazard then drain (fun h => h = .hazard) 40 s c lc false else s
    | none => s

/-- CAROUSEL_START (R189): the carousel LDT that waited for its neighbours' counts starts. A neighbour whose core is
spilled is waited for (R410). -/
def execCarouselStart (c : CoreNo) (lc : Bool) (k : Nat) (s : State) : Host.Outcome State Fault Refusal :=
  .next <|
    match nextEntry s c lc false with
    | some (i, e) =>
      let spilled := match (entryCtx s c lc e) with
        | some x => (match tget x.job.groups (ldtMcg e.body) with
            | some ge => (match memberOf ge x.task.rank with
                | some m => [(m + ge.count - 1) % ge.count, (m + 1) % ge.count].any fun n =>
                    (getCore s (memberCore x.job ge n)).spill.isSome
                | none => false)
            | none => false)
        | none => false
      if i = k ∧ e.hold = .carousel ∧ !spilled then drain (fun h => h = .carousel) 40 s c lc false else s
    | none => s

/-! ### The identity write -/

/-- Opcodes that may carry WI (R111): MMA, MMAX, POOL, COMB, and the reductions of EWU. -/
def mayWi (op : BitVec 8) (b : Body) : Bool :=
  match op.toNat with
  | 0x10 | 0x11 | 0x31 | 0x61 => true
  | 0x20 => 7 ≤ field b 80 4
  | _ => false

/-- The check of an instruction's own bits that an identity write makes. -/
def identWord (op : BitVec 8) (b : Body) : Ctx → Res Unit :=
  match op.toNat with
  | 0x10 => mmaWord b
  | 0x11 => mmaxWord b
  | 0x20 => fun _ => need (field b 0 44 = 0 && field b 80 4 < 10 && field b 77 2 ≠ 3) 0x02
  | 0x31 => fun _ => need (field b 0 73 = 0 && field b 74 2 ≠ 3) 0x02
  | 0x61 => fun _ => need (field b 0 52 = 0 && field b 53 2 ≠ 3) 0x02
  | _ => fun _ => .ok ()

/-- IDENTITY_WRITE (R157, R158, R160): in a body skipped at length zero, an instruction with WI = 1 writes its
identity to its destination. -/
def execIdentityWrite (c : CoreNo) (op : BitVec 8) (b : Body) (s : State) : Host.Outcome State Fault Refusal :=
  .next <|
    match issueCtx s c, effectOf op, engineOf op with
    | some x, some f, some exe =>
      let sk := liveSkips x.task
      if sk.isEmpty || !(sk.all (·.zero)) || !wiBit b then s
      else issueEngine exe op b none [] (mayWi op b) (identWord op b) f true s c
    | _, _, _ => s

end Sys2Proof.Machine
end

