-- ==== Sys2Proof/Machine/Post.lean ====
section
/-! DEFINITION. The named operations of the hub and the dies that many commands share: roles and the accord (R451),
rings and posting (R372 to R377), events (R384), the charging of cycles (R403), and commands of a ring (R372). -/

namespace Sys2Proof.Machine

/-! ### Dies, clusters, rings -/

/-- The context of a ring as from reset: PRIV reads 1 on ring 0 (R366). -/
def freshRing (r : Nat) : Ring := { priv := r = 0 }
def getRing (s : State) (r : Nat) : Ring := tgetD s.rings r (freshRing r)
def setRing (s : State) (r : Nat) (x : Ring) : State := { s with rings := tset s.rings r x }
def updRing (s : State) (r : Nat) (f : Ring → Ring) : State := setRing s r (f (getRing s r))

/-- The clusters of a die and the cores of a cluster, by package number. -/
def dieClusters (d : Nat) : List Nat := (List.range 16).map (16 * d + ·)
def clusterCores (k : Nat) : List Nat := (List.range 32).map (32 * k + ·)

/-- A listed task of a core. -/
def coreTasks (k : Core) : List Task := k.be.toList ++ k.lc.toList

/-- A cluster holds a task (R404). -/
def clusterHolds (s : State) (k : Nat) : Bool :=
  s.cores.any fun (c, x) => c / 32 = k && !(coreTasks x).isEmpty

/-- A cluster holds a task of an LC job (R497). -/
def clusterHoldsLc (s : State) (k : Nat) : Bool := s.cores.any fun (c, x) => c / 32 = k && x.lc.isSome

/-! ### Events -/

/-- Hold an event for ring 0; beyond 256 it is dropped and counted (R384). -/
def postEvent (s : State) (code result : Nat) : State :=
  if s.hub.events.length < 256 then { s with hub := { s.hub with events := s.hub.events ++ [(code, result)] } }
  else bump { s with hub := { s.hub with lost := s.hub.lost + 1 } } 0xE074 1 1

/-- One accord change: the roles change, the epoch rises by 1, each die is told in
CTRL flits (R24), the event and the record are written (R452). -/
def accordChange (s : State) (f : Vector Nat 4 → Vector Nat 4) : State :=
  let e := s.accord.epoch + 1
  let s := { s with accord := { s.accord with epoch := e, roles := f s.accord.roles } }
  sillage (postEvent (sendCtrlAll s) 1 (e * 2 ^ 32 + accordMask s)) 0x0028 5 noJob (packItems [(32, e), (8, accordMask s)])

def setRole (s : State) (d r : Nat) : State := accordChange s fun v => v.setIfInBounds d r

/-! ### Interrupts -/

/-- Send an MSI-X message, a CXL.io write, or set its pending bit while the vector is masked (R377, PCIe). -/
def raiseVector (s : State) (v : Nat) : State :=
  let masked := match tget s.hub.msix v with
    | some e => bit e 96
    | none => true
  if masked then
    { s with hub := { s.hub with msixPending :=
      if s.hub.msixPending.contains v then s.hub.msixPending else v :: s.hub.msixPending } }
  else sendHostIo { s with hub := { s.hub with irqs := tset s.hub.irqs v (tgetD s.hub.irqs v 0 + 1) } } 1

/-- Raise a ring's vector, at once or when its holdoff ends (R377). -/
def raiseRing (s : State) (r : Nat) : State :=
  let x := getRing s r
  let ready := match x.lastIrq with
    | none => true
    | some t => x.holdoff * 1000 ≤ s.nowNs - t
  if ready then raiseVector (setRing s r { x with lastIrq := some s.nowNs, irqDue := false }) x.vector
  else setRing s r { x with irqDue := true }

/-! ### Rings -/

/-- The die that homes a ring (R365, R469). -/
def ringHome (s : State) (r : Nat) : Nat := ((getRing s r).home).getD (r / 2048)

/-- The hub holds a ring whose home die has left the accord while no die serves (R469). -/
def ringHeld (s : State) (r : Nat) : Bool :=
  r ≠ 0 && !inAccord s (ringHome s r) && !([0, 1, 2, 3].any (serving s))

/-- A ring's state becomes ENABLED, as a fresh start (R367); its ERROR is cleared (DEDUCED, log 156). -/
def freshEnable (x : Ring) : Ring :=
  { x with state := .enabled, enable := true, sqHead := 0, cqTail := 0, phase := true, tail := 0, cqHead := 0,
           pushed := [], bells := [], error := 0, line := [] }

/-- The first error of a ring is kept; an ENABLED ring goes to ERROR with its event and record (R366, R367, R371). -/
def ringError (s : State) (r code : Nat) : State :=
  let x := getRing s r
  let s := setRing s r { x with error := if x.error = 0 then code else x.error
                                state := if x.state = .enabled then .error else x.state }
  if x.state = .enabled then
    sillage (postEvent s 4 (r + code * 2 ^ 16)) 0x0027 4 noJob (packItems [(16, r), (8, code)])
  else s

/-- The commands of a ring not yet completed, and completions it still owes. -/
def ringOwes (s : State) (r : Nat) : Bool :=
  s.cmds.any (fun c => c.2.ring = r) || s.posts.any (fun p => p.ring = r) || s.jobs.any (fun j => j.2.ring = r)

/-- The device-held completion line goes to host memory (R376). -/
def flushLine (s : State) (r : Nat) : State :=
  let x := getRing s r
  let s := x.line.foldl (fun s (e : Nat × BitVec 128) =>
    { s with hostMem := memWrites s.hostMem (x.cqBase * 4096 + 16 * e.1) (leBytes 16 e.2.toNat) }) s
  updRing (if x.line.isEmpty then s else sendHostMem s 2) r fun x => { x with line := [] }

/-- The end of a drydown, once the last fetched command has posted (R367). -/
def drydownEnd (s : State) (r : Nat) : State :=
  if ringOwes s r then s else
    let x := getRing s r
    match x.state with
    | .drydown => let s := flushLine s r; updRing s r fun x => { x with state := .disabled }
    | .pendingEnable => let s := flushLine s r; updRing s r freshEnable
    | _ => s

/-- A completion that waits to be written (R375). -/
def post (s : State) (p : Post) : State := { s with posts := s.posts ++ [p] }

/-! ### Commands of a ring -/

def updCmd (s : State) (id : Nat) (f : Cmd → Cmd) : State :=
  match tget s.cmds id with
  | some c => { s with cmds := tset s.cmds id (f c) }
  | none => s

/-- The final completion of a command (R375). -/
def finishCmd (s : State) (id : Nat) (f : Fail) (result : Nat) : State :=
  match tget s.cmds id with
  | none => s
  | some c => post { s with cmds := tdel s.cmds id }
      { ring := c.ring, tag := c.tag, status := f.1, detail := f.2, result := result, irq := c.irq }

def okStatus : Fail := (0, 0)

/-- The one interim completion of a command (R375). -/
def interimCmd (s : State) (id : Nat) : State :=
  match tget s.cmds id with
  | none => s
  | some c => if c.interim then s else
      post (updCmd s id fun c => { c with interim := true, started := true })
        { ring := c.ring, tag := c.tag, status := 0x10, interim := true, irq := true }

/-- A command may run: its opcode is `op`, earlier commands of its ring have started (R372), with FENCE they have
posted their final completions, and the hub is not paused (R477). -/
def cmdReady (s : State) (id op : Nat) : Option Cmd :=
  match tget s.cmds id with
  | none => none
  | some c =>
    let earlier := s.cmds.filter fun e => e.2.ring = c.ring && e.2.order < c.order
    let fenced := c.fence && !(c.started) &&
      (!earlier.isEmpty || s.posts.any (fun p => p.ring = c.ring && !p.event && !p.interim))
    if c.op ≠ op ∨ (!c.started && earlier.any (fun e => !e.2.started)) ∨ fenced ∨ s.hub.pause then none
    else some c

/-! ### Time on a core (R403) -/

/-- The clock of a cluster in MHz (R493). -/
def clusterMhz (s : State) (k : Nat) : Nat := 600 + 50 * (getCluster s k).point

/-- Core-cycles go to a job, its partition's CORE_CYCLES, and its partition's virtual time when it is BE (R402). -/
def chargeJob (s : State) (jn n : Nat) : State :=
  match tget s.jobs jn with
  | none => s
  | some j =>
    let s := updJob s jn fun j => { j with cycles := j.cycles + n }
    let s := bumpIf s (0x3040 + j.part) 2 n
    if j.lc then s else
      let v := tgetD s.sched.vtime j.part (0, 1)
      { s with sched := { s.sched with vtime := tset s.sched.vtime j.part (v.1 * j.share + n * v.2, v.2 * j.share) } }

/-- Charge a task for the time since it was last charged, at its cluster's clock; nothing while an LC job runs on its
core (R403). -/
def chargeTask (s : State) (c : Nat) (lc : Bool) : State :=
  match getTask s c lc with
  | none => s
  | some t =>
    if (!lc && (getCore s c).lcHas) || !t.started then s else
      let stop := (t.endNs).getD s.nowNs
      let n := (stop - t.chargeNs) * clusterMhz s (c / 32) / 1000
      chargeJob (updTask s c lc fun t => { t with cycles := t.cycles + n, chargeNs := max t.chargeNs stop }) t.job n

/-- Charge every task of a cluster, before its clock changes. -/
def chargeCluster (s : State) (k : Nat) : State :=
  s.cores.foldl (fun s (c, _) => if c / 32 = k then chargeTask (chargeTask s c false) c true else s) s

end Sys2Proof.Machine
end

