-- ==== Sys2Proof/Machine/Slots.lean ====
section
/-! DEFINITION. Carried-state slots: their table and records (R295 to R297), swap-out and swap-in (R298 to R300), the
scratchpad's scrub (R74). -/

namespace Sys2Proof.Machine

/-! ### Raw scratchpad -/

/-- Bytes of a core's scratchpad at physical addresses; an uncorrectable word fails (R74). -/
def padRead (s : State) (c p n : Nat) : Res (List Byte) :=
  if s.scratchUE.any fun w => (scratchBase c + p) / 8 ≤ w && w * 8 < scratchBase c + p + n then .error failMemUe
  else .ok (memReads s.scratch (scratchBase c + p) n)

/-- Write bytes of a core's scratchpad at physical addresses; words wholly written become correct (R74). -/
def padWrite (s : State) (c p : Nat) (bs : List Byte) : State :=
  let a := scratchBase c + p
  { s with scratch := memWrites s.scratch a bs
           scratchUE := s.scratchUE.filter fun w => !(a ≤ w * 8 && w * 8 + 8 ≤ a + bs.length) }

/-! ### Records (R295) -/

/-- STATE in CONTROL of a slot. -/
def slotCode : SlotState → Nat
  | .resident => 1
  | .out | .inn => 2
  | .swapped => 3

/-- The low half of a record's CONTROL word. -/
def recordControl (s : State) (asid rec0 : Nat) : Nat := match jobNat s asid rec0 8 with
  | .ok v => v
  | .error _ => 0

/-- The reserved bits of CONTROL: [63:32], [15:8] and [4] (R295). -/
def controlReserved : BitVec 64 := 0xFFFFFFFF0000FF10

/-- Write CONTROL of a record: its fields change, its reserved bits stay (R297). -/
def writeControl (s : State) (asid rec0 owner st : Nat) (valid stale dir : Bool) : State :=
  jobWritesD s asid rec0 (leBytes 8 ((BitVec.ofNat 64 (recordControl s asid rec0) &&& controlReserved).toNat
    + owner * 2 ^ 16 + (if valid then 2 ^ 7 else 0) + (if stale then 2 ^ 6 else 0) + (if dir then 2 ^ 5 else 0) + st))

/-- CONTROL of a bound slot: STALE stays as it is until a swap-out clears it. -/
def slotControl (s : State) (asid rank : Nat) (sl : Slot) : State :=
  writeControl s asid sl.record rank (slotCode sl.state) sl.anchorValid
    (recordControl s asid sl.record / 2 ^ 6 % 2 = 1) (sl.state = .inn)

/-- Plane bytes of a slot. -/
def planeLen (sl : Slot) : Nat := sl.channels * 8 * sl.ns

/-- An entry of the carried-state table (R296). -/
def readCst (s : State) (asid tbl i : Nat) : Res (BitVec 128) := do
  return BitVec.ofNat 128 (leNat (← jobReads s asid (tbl + 16 * i) 16))

/-- A record as the A4 reads it when it binds a slot (R295, R297). -/
def readRecord (s : State) (asid sbase rec0 : Nat) : Res Slot := do
  let ctl ← jobNat s asid rec0 8
  return { sbase := sbase, record := rec0, ns := ← jobNat s asid (rec0 + 0x1C) 1
           channels := ← jobNat s asid (rec0 + 0x1E) 2, anchorN := ← jobNat s asid (rec0 + 0x18) 4
           hist := ← jobNat s asid (rec0 + 0x20) 8, anchor := ← jobNat s asid (rec0 + 0x28) 8
           steps := ← jobNat s asid (rec0 + 8) 8, anchorStep := ← jobNat s asid (rec0 + 0x10) 8
           anchorValid := ctl / 2 ^ 7 % 2 = 1 }

/-! ### Swapping -/

/-- A slot of a task. -/
def slotAt (s : State) (c : Nat) (lc : Bool) (n : Nat) : Option (Task × Job × Slot) :=
  match getTask s c lc with
  | none => none
  | some t =>
    match tget s.jobs t.job, t.states[n]? with
    | some j, some sl => some (t, j, sl)
    | _, _ => none

/-- Set a slot and write its CONTROL. -/
def putSlot (s : State) (c : Nat) (lc : Bool) (n : Nat) (t : Task) (j : Job) (sl : Slot) : State :=
  slotControl (updSlot s c lc n fun _ => sl) j.asid t.rank sl

/-- Ask for a swap-out of a RESIDENT slot that covers `adds` adds (R299). -/
def askOut (s : State) (c : Nat) (lc : Bool) (n adds : Nat) : State :=
  match slotAt s c lc n with
  | none => s
  | some (t, j, sl) => putSlot s c lc n t j { sl with state := .out, wanted := true, covered := adds, landed := 0 }

/-- SWAP_DONE receives adds (R295). -/
def addDone (s : State) (asid rec0 n : Nat) : State :=
  match add32 s asid (rec0 + 0x44) n with
  | .ok (_, s) => s
  | .error _ => s

/-- The instruction that triggered the slot's last swap-in has not retired (R299). -/
def triggerLive (t : Task) (sl : Slot) : Bool := (t.fq ++ t.eq).any fun e => sl.trigger = some e.uid

/-- The adds on SWAP_OUT that may take effect now: those that landed during a swap-in, after the instruction that triggered
it has retired (R299). -/
def addsReady (t : Task) (sl : Slot) : Nat := sl.landed + (if triggerLive t sl then 0 else sl.landedIn)

/-- SWAP_OUT_REQUEST (R299): adds on SWAP_OUT take effect. -/
def execSwapOutRequest (c : CoreNo) (lc : Bool) (slot : Nat) (s : State) : Host.Outcome State Fault Refusal :=
  .next <|
    match slotAt s c lc slot with
    | none => s
    | some (t, j, sl) =>
      let n := addsReady t sl
      let late := sl.landed + sl.landedIn - n
      if n = 0 then s else
        let took (s : State) := updSlot s c lc slot fun sl => { sl with landed := 0, landedIn := late }
        match sl.state with
        | .swapped => addDone (took s) j.asid sl.record n
        | .out => updSlot (took s) c lc slot fun sl => { sl with covered := sl.covered + n }
        | .inn => s
        | .resident => askOut (took s) c lc slot n

/-- A started instruction that touches the slot has not retired (R299). -/
def slotBusy (t : Task) (n : Nat) : Bool := (t.fq ++ t.eq).any fun e => e.started && e.slots.contains n

/-- The swap-out itself (R299): planes, STEP_COUNT, the anchor fields, CONTROL, SWAP_DONE. -/
def swapOut (s : State) (c : Nat) (lc : Bool) (n : Nat) : Res State := do
  match slotAt s c lc n with
  | none => return s
  | some (t, j, sl) =>
    match scratchMap lc t.reserve j.footKib sl.sbase with
    | none => throw failBounds
    | some p =>
      let planes ← padRead s c p (planeLen sl)
      let s ← jobWrites s j.asid (sl.record + 0x80) planes
      let s ← jobWrites s j.asid (sl.record + 8) (leBytes 8 sl.steps)
      let s ← jobWrites s j.asid (sl.record + 0x10) (leBytes 8 sl.anchorStep)
      let s := updSlot s c lc n fun sl => { sl with state := .swapped, wanted := false, covered := 0, landed := 0 }
      let s := writeControl s j.asid sl.record t.rank 3 sl.anchorValid false false
      -- adds that landed while it was in progress are covered too
      let s := if sl.covered + sl.landed = 0 then s else addDone s j.asid sl.record (sl.covered + sl.landed)
      return bump s 0xE060 (coreDie c + 1) 1

/-- SWAP_OUT (R299): the requested swap-out runs once no started instruction that touches the slot is unretired. -/
def execSwapOut (c : CoreNo) (lc : Bool) (slot : Nat) (s : State) : Host.Outcome State Fault Refusal :=
  .next <|
    match slotAt s c lc slot with
    | none => s
    | some (t, _, sl) =>
      if !sl.wanted || slotBusy t slot then s else
        match swapOut s c lc slot with
        | .ok s => s
        | .error f => failJob s t.job c t.pc f

/-- The held instruction that triggers a swap-in of a slot (R298). -/
def triggerOf (s : State) (c : Nat) (lc : Bool) (n : Nat) : Option QEntry :=
  ([false, true].filterMap fun exe => nextEntry s c lc exe).map (·.2) |>.find? fun e => e.hold = .slot n

/-- SWAP_IN (R298, R300): a held instruction triggers the swap-in of a SWAPPED slot. -/
def execSwapIn (c : CoreNo) (lc : Bool) (slot : Nat) (s : State) : Host.Outcome State Fault Refusal :=
  .next <|
    match slotAt s c lc slot, triggerOf s c lc slot with
    | some (t, j, sl), some e =>
      if sl.state ≠ .swapped ∨ (!lc ∧ (getCore s c).spill.isSome) then s else
        putSlot s c lc slot t j { sl with state := .inn, trigger := some e.uid }
    | _, _ => s

/-- The swap-in's end (R300): planes and STEP_COUNT are read, the anchor is taken where it was not valid. -/
def swapIn (s : State) (c : Nat) (lc : Bool) (n : Nat) : Res State := do
  match slotAt s c lc n with
  | none => return s
  | some (t, j, sl) =>
    match scratchMap lc t.reserve j.footKib sl.sbase with
    | none => throw failBounds
    | some p =>
      let planes ← jobReads s j.asid (sl.record + 0x80) (planeLen sl)
      let steps ← jobNat s j.asid (sl.record + 8) 8
      let s := padWrite s c p planes
      let fresh := sl.anchorN ≠ 0 ∧ !sl.anchorValid
      let s ← if fresh then jobWrites s j.asid sl.anchor planes else pure s
      let sl := { sl with state := .resident, steps := steps
                          anchorStep := if fresh then steps else sl.anchorStep
                          anchorValid := sl.anchorValid || decide fresh }
      let s ← if fresh then jobWrites s j.asid (sl.record + 0x10) (leBytes 8 steps) else pure s
      return bump (putSlot s c lc n t j sl) 0xE061 (coreDie c + 1) 1

/-- SWAP_IN_DONE (R300): the slot is RESIDENT and what it held starts (R298). -/
def execSwapInDone (c : CoreNo) (lc : Bool) (slot : Nat) (s : State) : Host.Outcome State Fault Refusal :=
  .next <|
    match slotAt s c lc slot with
    | none => s
    | some (t, _, sl) =>
      if sl.state ≠ .inn then s else
        match swapIn s c lc slot with
        | .ok s => retrySlot slot s c lc
        | .error f => failJob s t.job c t.pc f

/-- SCRATCH_SCRUB (R74): the patrol scrub reads a word that has `badBits` wrong bits: one is corrected in place; more
are recorded, and the word is uncorrectable. -/
def execScratchScrub (c : CoreNo) (word : Fin 24576) (badBits : Nat) (s : State) : Host.Outcome State Fault Refusal :=
  .next <|
    let w := (scratchBase c + 8 * word.val) / 8
    if badBits ≤ 1 then
      (if s.scratchUE.contains w then sillage s 0x0011 (coreDie c) noJob (packItems [(16, c.val), (24, 8 * word.val)])
       else s)
    else
      sillage { s with scratchUE := if s.scratchUE.contains w then s.scratchUE else w :: s.scratchUE }
        0x0011 (coreDie c) noJob (packItems [(16, c.val), (24, 8 * word.val)])

end Sys2Proof.Machine
end

