-- ==== Sys2Proof/Machine/TierBase.lean ====
section
/-! DEFINITION. The tiers' accounting: frames in use, the place of a new page (R340, R345, R346), references on imagos
(R353). -/

namespace Sys2Proof.Machine

/-- Pages of 64 KiB in the backed DRAM of a die (R306). -/
def diePages : Nat := 1966080
/-- Pages of 64 KiB in a GiB. -/
def gibPages : Nat := 16384

/-- The page-table entries of every address space. -/
def allPtes (s : State) : List Pte := s.aspaces.flatMap fun a => a.2.pages.map (·.2)

/-- A page-table entry as its word in DRAM (R337). -/
def pteWord (p : Pte) : BitVec 64 :=
  1#1 ++ BitVec.ofNat 3 p.tier ++ BitVec.ofNat 2 p.die ++ BitVec.ofBool p.writable ++ BitVec.ofBool p.pin
    ++ BitVec.ofBool p.moving ++ BitVec.ofNat 2 p.kind ++ BitVec.ofNat 3 p.floor ++ 0#2 ++ BitVec.ofNat 48 p.frame

/-- The frames that a page-table entry holds: its own and a move's destination, as (tier, die, frame); an IMAGO page's
frame is its imago's, and a lost page has none (R465). -/
def pteFrames (p : Pte) : List (Nat × Nat × Nat) :=
  if p.kind = 1 then [] else if p.lost then p.dest.toList else (p.tier, p.die, p.frame) :: p.dest.toList

/-- The key-value pages and table chunks outside the pools: tier, die and tier page, and the bytes of the slot (R342). -/
def awaySlots (s : State) : List ((Nat × Nat × Nat) × Nat) :=
  (s.kvPages.filterMap fun p => if kvDie p.1 < 4 then none else some ((p.2.tier, p.2.place, p.2.frame), p.2.slotBytes))
    ++ s.chunks.filterMap fun c => c.2.away.map fun a => (a, 256)

def usedFrames (s : State) : List (Nat × Nat × Nat) :=
  (allPtes s).flatMap pteFrames
    ++ (s.imagos.flatMap fun i => i.2.pages.map fun p => (2, p.die, p.frame))
    ++ ((awaySlots s).map (·.1)).eraseDups

/-- Tiers 2 and 3 share a die's frames. -/
def sameFrame (a b : Nat × Nat × Nat) : Bool :=
  if a.1 ≤ 3 then b.1 ≤ 3 && a.2 = b.2 else a.1 = b.1 && a.2.2 = b.2.2

def frameUsed (s : State) (f : Nat × Nat × Nat) : Bool := (usedFrames s).any (sameFrame f)

/-- Pages lent by a die (R345). -/
def lentPages (s : State) (d : Nat) : Nat := (usedFrames s).countP fun f => f.1 = 3 && f.2.1 = d
def lendCap (s : State) (d : Nat) : Nat := setting s 0x5802 (d + 1) * gibPages

/-- Free pages of a die: not its KV pool, not what it lends, not pages in use (R268, R345). -/
def freePages (s : State) (d : Nat) : Nat :=
  diePages - (getPool s d).gib * gibPages - max (lendCap s d) (lentPages s d)
    - (usedFrames s).countP fun f => f.1 = 2 && f.2.1 = d

/-- The tier-4 grant in pages: base and size (R346). -/
def grant (s : State) : Nat × Nat := (setting s 0x5810 1 * 32, setting s 0x5810 2 * gibPages)

/-- The die that lends for a home die (R345): most unlent capacity; a tie goes to the die with least read traffic,
which the model does not hold, so it is a free choice among them (DESIGN CHOICE, log 19). -/
def lender (s : State) (home : Nat) : Option Nat :=
  let cands := (List.range 4).filter fun d => d ≠ home && serving s d && lentPages s d < lendCap s d
  let best := (cands.map fun d => lendCap s d - lentPages s d).foldl max 0
  let ties := cands.filter fun d => lendCap s d - lentPages s d = best
  if ties.length ≤ 1 then ties.head? else ties[Config.freeNat s.free % ties.length]?

/-- Where a page goes: tier and die, the first of R340 that has room and that FLOOR allows, from tier `from0` down. -/
def placeFor (s : State) (home floor from0 : Nat) (pin : Bool) : Option (Nat × Nat) :=
  if pin then (if inAccord s home ∧ 0 < freePages s home then some (2, home) else none) else
    let two := from0 ≤ 2 && inAccord s home && setting s 0x5800 (home + 1) * gibPages < freePages s home
    if two then some (2, home) else
      match (if from0 ≤ 3 ∧ 3 ≤ floor then lender s home else none) with
      | some d => some (3, d)
      | none =>
        if from0 ≤ 4 ∧ 4 ≤ floor ∧ (usedFrames s).countP (fun f => f.1 = 4) < (grant s).2 then some (4, 0)
        else if 5 ≤ floor ∧ (usedFrames s).countP (fun f => f.1 = 5) < s.flash.spill then some (5, 0) else none

/-- A frame number fits its tier and is not in use; a spill page that failed is not used again. -/
def frameFits (s : State) (tier die frame : Nat) : Bool :=
  (if tier ≤ 3 then frame < diePages
   else if tier = 4 then (grant s).1 ≤ frame && frame < (grant s).1 + (grant s).2
   else frame < 2 ^ 32 && !s.flash.spillBad.contains frame)
  && !frameUsed s (tier, die, frame)

/-! ### Address spaces -/

def updSpace (s : State) (asid : Nat) (f : ASpace → ASpace) : State :=
  match tget s.aspaces asid with
  | some a => { s with aspaces := tset s.aspaces asid (f a) }
  | none => s

def getPte (s : State) (asid vpn : Nat) : Option Pte := (tget s.aspaces asid).bind fun a => tget a.pages vpn
def setPte (s : State) (asid vpn : Nat) (p : Pte) : State :=
  updSpace s asid fun a => { a with pages := tset a.pages vpn p }
def delPte (s : State) (asid vpn : Nat) : State := updSpace s asid fun a => { a with pages := tdel a.pages vpn }

/-- The LC program cache of a core holds a byte of a page (R413). -/
def cacheIn (asid vpn : Nat) : Option (Nat × Nat × Nat × List Byte) → Bool
  | none => false
  | some (a, p, q, img) =>
    let code := img.length - 2112
    a = asid && ((p / 65536 ≤ vpn && vpn ≤ (p + code - 1) / 65536) || (q / 65536 ≤ vpn && vpn ≤ (q + 2111) / 65536))

/-- Discard the LC program caches that `f` picks (R413). -/
def dropCaches (s : State) (f : Option (Nat × Nat × Nat × List Byte) → Bool) : State :=
  { s with cores := s.cores.map fun p => (p.1, if f p.2.lcCache then { p.2 with lcCache := none } else p.2) }

/-- A page is unmapped: freed where it lies, or when the move under way ends (R339). -/
def unmapPage (s : State) (asid vpn : Nat) : State :=
  match getPte s asid vpn with
  | none => s
  | some p =>
    let s := if p.moving then setPte s asid vpn { p with freeing := true } else delPte s asid vpn
    dropCaches s (cacheIn asid vpn)

/-- Every page of a range of job memory is mapped (R106). -/
def mapped (s : State) (asid va len : Nat) : Bool :=
  len = 0 || (va + len ≤ 2 ^ 48 &&
    (List.range ((va + len - 1) / 65536 - va / 65536 + 1)).all fun i =>
      match getPte s asid (va / 65536 + i) with
      | some p => !p.freeing
      | none => false)

/-! ### Imagos -/

def getImago (s : State) (n : Nat) : Imago := tgetD s.imagos n {}
def updImago (s : State) (n : Nat) (f : Imago → Imago) : State := { s with imagos := tset s.imagos n (f (getImago s n)) }

def zeroDigest : List Byte := List.replicate 32 0

/-- The slot of a digest in a given state. -/
def findImago (s : State) (digest : List Byte) (ok : ImagoState → Bool) : Option Nat :=
  (s.imagos.find? fun p => ok p.2.state && (p.2.image.map (·.digest)) = some digest).map (·.1)

/-- The digest of a slot's fall-back image, when it names one. -/
def fallbackOf (m : Imago) : Option (List Byte) :=
  m.image.bind fun i => if i.fallback = zeroDigest then none else some i.fallback

/-- References on a slot: its MAPs, running jobs, and resident imagos whose fall-back it is (R353). -/
def imagoRefs (s : State) (n : Nat) : Nat :=
  let m := getImago s n
  let ptes := (allPtes s).filter fun p => p.kind = 1 && p.slot = n
  let maps := ((m.pages.filter fun p => !p.parity).map fun p =>
    ptes.countP fun q => q.die = p.die && q.frame = p.frame).foldl max 0
  let jobs := s.jobs.countP fun j => j.2.state ≠ .waiting && j.2.state ≠ .done && (j.2.imago = some n || j.2.imagoFb = some n)
  let fbs := s.imagos.countP fun i => i.1 ≠ n && i.2.state = .resident && fallbackOf i.2 = m.image.map (·.digest)
  maps + jobs + (if m.image.isSome then fbs else 0)

/-- Free a slot and its pages (R353). -/
def freeImago (s : State) (n : Nat) : State := { s with imagos := tdel s.imagos n }

/-- A RETIRING slot is freed when its last reference has ended (R353). -/
def imagoSettle (s : State) : State :=
  (List.range (2 * s.imagos.length)).foldl (fun s _ =>
    match s.imagos.find? fun p => p.2.state = .retiring && imagoRefs s p.1 = 0 with
    | some p => freeImago s p.1
    | none => s) s

end Sys2Proof.Machine
end

