-- ==== Sys2Proof/Machine/Jobs.lean ====
section
/-! DEFINITION. Jobs: the JOB command (R381), dispatch and placement (R382, R398 to R402), the binding of carried-state
records (R297), start with its checks (R100 to R105, R172, R181, R182, R194, R296), and the end of a job (R96, R146,
R301). -/

namespace Sys2Proof.Machine

/-! ### The JOB command -/

/-- A job from its command's fields (R381). -/
def jobOf (id : Nat) (c : Cmd) : Job :=
  let e := c.entry
  let lc := bit e 479
  { ring := c.ring, tag := c.tag, irq := c.irq, lc := lc, ncores := field e 464 12, homeDie := field e 462 2
    homeCluster := field e 458 4, footKib := field e 451 7, part := field e 445 6, asid := field e 435 10
    group := if bit e 434 then some (field e 424 10) else none
    imago := if bit e 417 then some (field e 418 6) else none
    split := (field e 413 4, field e 409 4, field e 405 4)
    progLen := field e 385 20 + 1, progBase := field e 341 44 * 16, seqImage := field e 299 42 * 64
    mcgTable := field e 257 42 * 64, cstTable := field e 215 42 * 64, cstCount := field e 202 13
    fbEntry := field e 182 20, deadlineUs := field e 150 32
    rt := #v[BitVec.ofNat 32 (field e 0 32), BitVec.ofNat 32 (field e 32 32), BitVec.ofNat 32 (field e 64 32),
             BitVec.ofNat 32 (field e 96 32)]
    entry := e, doorbell := c.doorbell, cmd := id }

/-- A virtual time is below another. -/
def vLess (a b : Nat × Nat) : Bool := a.1 * b.2 < b.1 * a.2

def vtimeOf (s : State) (p : Nat) : Nat × Nat := tgetD s.sched.vtime p (0, 1)

/-- Partitions that wait with or run BE work. -/
def beParts (s : State) : List Nat := (s.jobs.filter fun j => !j.2.lc).map fun j => j.2.part

/-- A queue that becomes non-empty has its V raised to the lowest V of the partitions at work (R402). -/
def raiseV (s : State) (p : Nat) : State :=
  if s.jobs.any fun j => !j.2.lc && j.2.part = p && j.2.state = .waiting then s else
    match beParts s with
    | [] => s
    | q :: qs =>
      let low := qs.foldl (fun v r => if vLess (vtimeOf s r) v then vtimeOf s r else v) (vtimeOf s q)
      if vLess (vtimeOf s p) low then { s with sched := { s.sched with vtime := tset s.sched.vtime p low } } else s

/-- JOB (R381): the command's job joins its queue; while QUENCH_N is asserted it completes FAIL_QUENCHED (R387). -/
def execJob (id : Nat) (s : State) : Host.Outcome State Fault Refusal :=
  .next <|
    match cmdReady s id 0x01 with
    | none => s
    | some c =>
      if c.started then s
      else if s.pins.quench then finishCmd s id failQuenched 0
      else
        let j := jobOf id c
        let s := if j.lc then s else raiseV s j.part
        let s := updCmd s id fun c => { c with started := true }
        { s with jobs := tset s.jobs id { j with arrival := s.sched.jobSeq }
                 sched := { s.sched with jobSeq := s.sched.jobSeq + 1 } }

/-! ### The end of a job -/

/-- A job's one status (R146). -/
def jobStatus (j : Job) : Fail :=
  match j.failed with
  | some f => f
  | none => (match j.okRank with
      | 0 => 0
      | 1 => 3
      | 2 => 2
      | _ => 1, 0)

/-- A core's spill pages are unmapped (R410, R412). -/
def dropSpill (s : State) (c : Nat) : State :=
  match (getCore s c).spill with
  | none => s
  | some p =>
    let s := [0, 1, 2].foldl (fun s i => unmapPage s p.asid (p.vpn + i)) s
    updCore s c fun k => { k with spill := none }

/-- Free the cores of a job; a core's LC task leaves its best-effort task to be resumed (R81). -/
def freeCores (s : State) (jn : Nat) (j : Job) : State :=
  j.cores.foldl (fun s c =>
    let k := getCore s c
    let mine := ((if j.lc then k.lc else k.be).map (·.job)) = some jn
    let s := if !mine then s
      else if j.lc then setCore s c { k with lc := none, lcHas := k.lcHas && k.be.isSome
                                             spill := k.spill.map fun p =>
                                               { p with backNs := some ((k.lc.bind (·.endNs)).getD s.nowNs) } }
      else dropSpill (setCore s c { k with be := none, lcHas := k.lcHas && k.lc.isSome }) c
    updCluster s (c / 32) fun k => { k with since := s.nowNs }) s

/-- A job ends: its cores are charged and freed, its group and references released, its completion posted. -/
def endJob (s : State) (jn : Nat) : State :=
  match tget s.jobs jn with
  | none => s
  | some j =>
    let s := j.cores.foldl (fun s c => chargeTask s c j.lc) s
    let total := ((tget s.jobs jn).map (·.cycles)).getD 0
    let s := freeCores s jn j
    let s := match j.group with
      | some g => updGroup s g fun gr => if gr.owner = some jn then { gr with owner := none } else gr
      | none => s
    let s := if j.lc ∧ j.cores ≠ [] then { s with sched := { s.sched with affinity :=
        ((j.asid, j.progBase, j.seqImage), j.cores) ::
          (s.sched.affinity.filter fun a => a.1 ≠ (j.asid, j.progBase, j.seqImage)) } } else s
    let s := { s with jobs := tdel s.jobs jn }
    imagoSettle (finishCmd s j.cmd (jobStatus j) total)

/-- A waiting job completes without running. -/
def endWaiting (s : State) (jn : Nat) (f : Fail) : State :=
  endJob (updJob s jn fun j => { j with failed := some f }) jn

/-- Close the records of a job's slots (R301). -/
def closeSlots (s : State) (jn : Nat) (j : Job) : State :=
  let failed := j.failed.isSome
  let step (acc : State × Bool) (c : Nat) : State × Bool :=
    match getTask acc.1 c j.lc with
    | none => acc
    | some t =>
      if t.job ≠ jn then acc else
      (List.range t.states.length).foldl (fun (acc : State × Bool) n =>
        let s := acc.1
        match t.states[n]? with
        | none => acc
        | some sl =>
          let live := sl.state = .resident ∨ sl.state = .out
          if failed then
            let stale := decide live || recordControl s j.asid sl.record / 2 ^ 6 % 2 = 1
            let s := writeControl s j.asid sl.record 0 0 sl.anchorValid stale false
            if live ∧ !acc.2 then
              (sillage s 0x0010 (coreDie c) (jobField j) (packItems [(48, sl.record)]), true)
            else (s, acc.2)
          else
            let s := if live then (match swapOut s c j.lc n with
              | .ok s => s
              | .error _ => s) else s
            (writeControl s j.asid sl.record 0 0 sl.anchorValid
              (recordControl s j.asid sl.record / 2 ^ 6 % 2 = 1) false, acc.2)) acc
  (j.cores.foldl step (s, false)).1

/-- Every core of the job has ended its part and every issued instruction has retired (R96). -/
def allEnded (s : State) (jn : Nat) (j : Job) : Bool :=
  j.cores.all fun c => match getTask s c j.lc with
    | some t => t.job ≠ jn || (t.ended && quiet t)
    | none => true

/-- JOB_COMPLETE (R96, R146, R301). -/
def execJobComplete (jn : Nat) (s : State) : Host.Outcome State Fault Refusal :=
  .next <|
    match tget s.jobs jn with
    | none => s
    | some j =>
      if j.state = .waiting ∨ j.state = .done ∨ j.interrupted.isSome ∨ !allEnded s jn j then s
      else endJob (closeSlots s jn j) jn

/-! ### Checks at dispatch -/

/-- A core number that its die's cluster serves: assigned (R19). -/
def inService (s : State) (c : Nat) : Bool := !(getCore s c).retired

/-- In-service cores of the dies that `ok` admits. -/
def coresOf (s : State) (ok : Nat → Bool) : Nat :=
  ((List.range 4).filter ok).length * 512 - (s.cores.filter fun c => c.2.retired && ok (c.1 / 512) && c.1 < 2048).length

/-- The checks of R382, R244 and R398 at dispatch. -/
def dispatchCheck (s : State) (j : Job) : Option Fail :=
  let badImago := match j.imago with
    | some n => let st := (getImago s n).state; decide (st ≠ .resident ∧ st ≠ .loading)
    | none => false
  let badGroup := match j.group with
    | some g => (tget s.groups g).isNone
    | none => false
  if j.ncores = 0 ∨ (!j.lc ∧ (j.footKib ≠ 0 ∨ j.fbEntry ≠ 0 ∨ j.deadlineUs ≠ 0))
      ∨ (j.lc ∧ (j.footKib < 1 ∨ 96 < j.footKib)) then some (failIllegal 2)
  else if (j.cstCount ≠ 0) ≠ (j.cstTable ≠ 0) then some (failIllegal 6)
  else if (tget s.aspaces j.asid).isNone ∨ badImago = true
      ∨ !mapped s j.asid j.progBase (16 * j.progLen) ∨ !mapped s j.asid j.seqImage 2112
      ∨ !mapped s j.asid j.mcgTable (if j.mcgTable = 0 then 0 else 1008)
      ∨ !mapped s j.asid j.cstTable (16 * j.cstCount)
      ∨ (j.fbEntry ≠ 0 ∧ j.progLen ≤ j.fbEntry) ∨ badGroup = true
      ∨ coresOf s (inAccord s) < j.ncores then some failBounds
  else none

/-- Set aside: held for its group (R244), or waiting for more SERVING cores (R398). -/
def isAside (s : State) (j : Job) : Bool :=
  coresOf s (serving s) < j.ncores
  || (match j.group with
      | some g => ((tget s.groups g).map fun gr => gr.owner.isSome || gr.stopped).getD false
      | none => false)

/-- Every record that the job's carried-state table names reads CLOSED (R297); an unreadable one does not hold. -/
def recordsClosed (s : State) (j : Job) : Bool :=
  (List.range j.cstCount).all fun i => match readCst s j.asid j.cstTable i with
    | .ok e => (match jobNat s j.asid (field e 46 48) 8 with
        | .ok ctl => ctl % 16 = 0
        | .error _ => true)
    | .error _ => true

/-- The imago holds the job at dispatch: LOADING, but for an LC job whose fall-back is RESIDENT (R382). -/
def imagoHolds (s : State) (j : Job) : Bool :=
  match j.imago with
  | none => false
  | some n =>
    let m := getImago s n
    m.state = .loading && !(j.lc && j.fbEntry ≠ 0 && (match fallbackOf m with
      | some d => (findImago s d fun st => st = .resident).isSome
      | none => false))

/-! ### Placement -/

/-- The die where placement starts: HOME_DIE, or the ring's home outside the accord (R382). -/
def jobHome (s : State) (j : Job) : Nat := if inAccord s j.homeDie then j.homeDie else ringHome s j.ring

/-- Clusters in the order of R399, on SERVING dies (R453). -/
def clusterOrder (s : State) (j : Job) : List Nat :=
  let h := jobHome s j
  ([0, 1, 2, 3].map fun i => (h + i) % 4).filter (serving s) |>.flatMap fun d =>
    (List.range 16).map fun i => 16 * d + (if d = h then (j.homeCluster + i) % 16 else i)

/-- A core is free for a class (R400); a core whose retirement waits takes no new task (R475). -/
def coreFree (s : State) (lc : Bool) (c : Nat) : Bool :=
  let k := getCore s c
  inService s c && !k.idleReq && !(getDie s (c / 512)).retire.contains c && k.spill.isNone
    && (if lc then k.lc.isNone else k.be.isNone)

def warmCluster (s : State) (k : Nat) : Bool := (getCluster s k).power = .warm

/-- Free cores of some clusters in scan order. -/
def freeIn (s : State) (lc : Bool) (ks : List Nat) : List Nat :=
  (ks.flatMap clusterCores).filter (coreFree s lc)

/-- Fill the ranks that are not placed from a list of cores, in rank order. -/
def fillRanks : List (Option Nat) → List Nat → List (Option Nat)
  | [], _ => []
  | some c :: t, cs => some c :: fillRanks t cs
  | none :: t, [] => none :: fillRanks t []
  | none :: t, c :: cs => some c :: fillRanks t cs

/-- Placement of a job: its cores by rank (R399, R400), none when it cannot be placed whole. -/
def placeJob (s : State) (j : Job) : Option (List Nat) :=
  let order := clusterOrder s j
  let all := freeIn s j.lc order
  if !j.lc then (if j.ncores ≤ all.length then some (all.take j.ncores) else none) else
    let last := ((s.sched.affinity.find? fun a => a.1 = (j.asid, j.progBase, j.seqImage)).map (·.2)).getD []
    let p1 := (List.range j.ncores).map fun k => (last[k]?).bind fun c =>
      if (getCore s c).warm && warmCluster s (c / 32) && serving s (c / 512) && coreFree s true c then some c else none
    let rest (p : List (Option Nat)) (cs : List Nat) : List Nat := cs.filter fun c => !(p.contains (some c))
    let p2 := fillRanks p1 (rest p1 (freeIn s true (order.filter (warmCluster s))))
    let p3 := fillRanks p2 (rest p2 all)
    p3.mapM id

/-- A job that the next dispatch may take: no check fails it, nothing holds it, and it can be placed. -/
def canPlace (s : State) (j : Job) : Bool :=
  recordsClosed s j && !imagoHolds s j && (placeJob s j).isSome

/-- An LC job before another in the order of R401. -/
def lcBefore (a b : Job) : Bool :=
  if a.deadlineUs = 0 then b.deadlineUs = 0 && a.arrival < b.arrival
  else if b.deadlineUs = 0 then true
  else deadlineNs a < deadlineNs b || (deadlineNs a = deadlineNs b && a.arrival < b.arrival)

def waitingJobs (s : State) (lc : Bool) : List (Nat × Job) :=
  s.jobs.filter fun j => j.2.state = .waiting && j.2.lc = lc

/-- The head of a partition's queue that is not set aside. -/
def headOf (s : State) (p : Nat) : Option (Nat × Job) :=
  ((waitingJobs s false).filter fun j => j.2.part = p && !isAside s j.2).foldl
    (fun (b : Option (Nat × Job)) j => match b with
      | none => some j
      | some a => if j.2.arrival < a.2.arrival then some j else some a) none

/-- The BE job that freed cores go to (R402). -/
def bePick (s : State) : Option Nat :=
  let kept := s.sched.pick.bind fun n => match tget s.jobs n with
    | some j => if j.state = .waiting ∧ !isAside s j then some n else none
    | none => none
  match kept with
  | some n => some n
  | none =>
    ((List.range 64).filterMap fun p => (headOf s p).map fun j => (p, j.1)).foldl
      (fun (b : Option (Nat × Nat)) x => match b with
        | none => some x
        | some a => if vLess (vtimeOf s x.1) (vtimeOf s a.1) then some x else some a) none |>.map (·.2)

/-- The job's turn has come (R401, R402). -/
def isTurn (s : State) (jn : Nat) (j : Job) : Bool :=
  if j.lc then
    !(waitingJobs s true).any fun k => lcBefore k.2 j && !isAside s k.2
      && ((dispatchCheck s k.2).isSome || canPlace s k.2)
  else bePick s = some jn

/-! ### Dispatch -/

/-- A wake request reaches a cluster (R405, R406, R492). -/
def wakeCluster (s : State) (k : Nat) : State :=
  match (getCluster s k).power with
  | .cold => bump (updCluster s k fun x => { x with power := .waking, wakeNs := s.nowNs }) 0xE07A (k / 16 + 1) 1
  | .drying => updCluster s k fun x => { x with pendingWake := true }
  | _ => s

/-- Set the records of a carried-state table SWAPPED and bind the slots of one rank (R297). -/
def bindSlots (s : State) (j : Job) (rank : Nat) : List Slot × State :=
  (List.range j.cstCount).foldl (fun (acc : List Slot × State) i =>
    match readCst acc.2 j.asid j.cstTable i with
    | .error _ => acc
    | .ok e =>
      if field e 112 16 ≠ rank then acc else
        match readRecord acc.2 j.asid (field e 94 18) (field e 46 48) with
        | .error _ => acc
        | .ok sl => (acc.1 ++ [sl], slotControl acc.2 j.asid rank sl)) ([], s)

/-- Put a job's task on a core. -/
def placeTask (s : State) (jn : Nat) (j : Job) (c rank : Nat) : State :=
  let b := bindSlots s j rank
  let s := wakeCluster b.2 (c / 32)
  let t : Task := { job := jn, lc := j.lc, rank := rank, states := b.1, waiting := !warmCluster s (c / 32)
                    chargeNs := s.nowNs, reserve := setting s (0x4020 + 0x400 * (c / 512)) 1 }
  setTask s c j.lc (some t)

/-- The group's batch at dispatch: handles and layer-0 lengths (R468). -/
def batchLens (g : Group) : List (Nat × Nat) :=
  g.batch.map fun h => (h, ((tget g.futures (handleIndex h)).map fun f => f.lens.getD 0 0).getD 0)

/-- Dispatch a job to its cores. -/
def dispatch (s : State) (jn : Nat) (j : Job) (cores : List Nat) : State :=
  let g := j.group.bind fun n => (tget s.groups n).map fun g => (n, g)
  let s := match g with
    | some (n, gr) => setGroup s n { gr with owner := some jn }
    | none => s
  let j := { j with state := .placed, cores := cores, startNs := s.nowNs
                    share := setting s (0x3040 + j.part) 1
                    boundaries := (g.map fun g => g.2.stepIndex).getD 0
                    lens := (g.map fun g => batchLens g.2).getD [], forked := [], dropped := false, lostHit := false
                    barriers := [], barNeed := [], failed := none, okRank := 0, detached := [] }
  let s := { s with jobs := tset s.jobs jn j
                    sched := { s.sched with pick := if s.sched.pick = some jn then none else s.sched.pick } }
  let s := cores.zipIdx.foldl (fun s p => placeTask s jn j p.1 p.2) s
  if j.lc then bump s 0xE078 (jobHome s j + 1) 1 else s

/-- JOB_DISPATCH (R398): the job whose turn has come is checked, and placed on all its cores at once. -/
def execJobDispatch (jn : Nat) (s : State) : Host.Outcome State Fault Refusal :=
  .next <|
    match tget s.jobs jn with
    | none => s
    | some j =>
      if j.state ≠ .waiting ∨ s.hub.pause ∨ ringHeld s j.ring then s
      else
        match dispatchCheck s j with
        | some f => if isAside s j || isTurn s jn j then endWaiting s jn f else s
        | none =>
          if isAside s j || !isTurn s jn j || !recordsClosed s j || imagoHolds s j then s else
            match placeJob s j with
            | some cores => dispatch s jn j cores
            | none => if j.lc then s else { s with sched := { s.sched with pick := some jn } }

/-! ### Job start -/

/-- The check of a SPLIT field (R172). -/
def splitOk (sp : Nat × Nat × Nat) : Bool :=
  sp = (0, 0, 0) || (0 < sp.1 && 0 < sp.2.1 && 0 < sp.2.2 && sp.1 + sp.2.1 + sp.2.2 = 16)

/-- The group table (R181, R182). -/
def readGroups (s : State) (j : Job) : Res (Tab GroupEntry) := do
  if j.mcgTable = 0 then return [] else
    (List.range 63).foldlM (init := ([] : Tab GroupEntry)) fun t (n : Nat) => do
      let e := BitVec.ofNat 128 (leNat (← jobReads s j.asid ((j.mcgTable + 16 * n : Nat) : Int) 16))
      let g : GroupEntry := { kind := field e 124 4, first := field e 108 16, count := field e 92 16
                              stride := field e 76 16 }
      need (g.kind ≤ 2 && field e 0 76 = 0) 0x02
      if g.kind = 0 then return tset t (n + 1) g else
        need ((if g.kind = 1 then 2 else 1) ≤ g.count && g.count ≤ 2048 && 1 ≤ g.stride
          && g.first + (g.count - 1) * g.stride < j.ncores) 0x06
        return tset t (n + 1) g

/-- One entry of the carried-state table with its record (R296). -/
def checkCst (s : State) (j : Job) (reserve : Nat) (e : BitVec 128) : Res (Nat × Slot) := do
  let rank := field e 112 16
  let sbase := field e 94 18
  let rec0 := field e 46 48
  need (field e 0 46 = 0) 0x02
  need (rank < j.ncores && sbase % 16 = 0 && rec0 % 128 = 0) 0x06
  let head ← jobReads s j.asid rec0 0x80
  let nat (o n : Nat) : Nat := leNat ((head.drop o).take n)
  need (nat 0x1D 1 = 0 && nat 0x30 16 = 0 && nat 0x48 56 = 0 && nat 0 8 / 2 ^ 32 = 0 && nat 0 8 / 2 ^ 8 % 2 ^ 8 = 0
    && nat 0 8 / 2 ^ 4 % 2 = 0) 0x02
  let sl ← readRecord s j.asid sbase rec0
  need (sl.ns % 8 = 0 && 8 ≤ sl.ns && sl.ns ≤ 64 && 1 ≤ sl.channels && sl.channels ≤ 3072
    && (sl.anchorN = 0 || (sl.anchorN % 256 = 0 && 4096 ≤ sl.anchorN && sl.anchorN ≤ 1048576))
    && (sl.anchorN = 0 || (sl.hist % 64 = 0 && sl.anchor % 64 = 0))) 0x06
  if !(List.range (planeLen sl / 16)).all fun i =>
      (match scratchMap j.lc reserve j.footKib sbase, scratchMap j.lc reserve j.footKib (sbase + 16 * i) with
       | some a, some b => b = a + 16 * i
       | _, _ => false) then throw failBounds
  if !mapped s j.asid rec0 (0x80 + planeLen sl)
      ∨ (sl.anchorN ≠ 0 ∧ (!mapped s j.asid sl.hist ((sl.anchorN + 2048) * sl.channels * 4)
        ∨ !mapped s j.asid sl.anchor (planeLen sl))) then throw failBounds
  return (rank, sl)

/-- Two slots of one core overlap. -/
def slotsMeet (a b : Nat × Slot) : Bool :=
  a.1 = b.1 && a.2.sbase < b.2.sbase + planeLen b.2 && b.2.sbase < a.2.sbase + planeLen a.2

/-- Some pair of a list is related. -/
def anyPair {α : Type} (r : α → α → Bool) : List α → Bool
  | [] => false
  | a :: t => t.any (r a) || anyPair r t

/-- The carried-state table's checks (R296). -/
def checkSlots (s : State) (j : Job) : Res (List CstEntry) := do
  let es ← (List.range j.cstCount).mapM fun i => readCst s j.asid j.cstTable i
  let ss ← es.mapM fun e =>
    let c := j.cores.getD (field e 112 16) 0
    checkCst s j (((getTask s c j.lc).map (·.reserve)).getD 24) e
  need (!(anyPair slotsMeet ss) && !(anyPair (fun a b => a.2.record = b.2.record) ss)
    && (List.range j.ncores).all fun r => ss.countP (fun p => p.1 = r) ≤ 16) 0x06
  return ss.map fun p => { rank := p.1, sbase := p.2.sbase, record := p.2.record }

/-- The tile descriptors of a sequencer image (R101). -/
def imageTds (img : List Byte) : Vector (BitVec 256) 64 :=
  Vector.ofFn fun (i : Fin 64) => BitVec.ofNat 256 (leNat ((img.drop (0x40 + 32 * i.val)).take 32))

/-- The index registers at job start (R100). -/
def startIx (j : Job) (rank : Nat) (img : List Byte) : Vector Word32 16 :=
  Vector.ofFn fun (i : Fin 16) =>
    if i.val = 0 then 0
    else if i.val = 1 then BitVec.ofNat 32 rank
    else if i.val = 2 then BitVec.ofNat 32 j.ncores
    else if i.val < 12 then BitVec.ofNat 32 (leNat ((img.drop (4 * i.val)).take 4))
    else j.rt.getD (i.val - 12) 0

/-- The checks of every valid descriptor (R102, R105, R194, R223). -/
def tdsOk (tds : Vector (BitVec 256) 64) : Bool := tds.toList.all fun d => !tdValid d || tdCheck windowOk d

/-- What a job's start reads and checks before its first instruction issues. -/
def startCheck (s : State) (j : Job) (img : List Byte) : Res (Tab GroupEntry × List CstEntry) := do
  need (splitOk j.split) 0x02
  need (tdsOk (imageTds img)) 0x06
  let g ← readGroups s j
  let c ← checkSlots s j
  return (g, c)

/-- The LC program cache of a core holds a job's program (R413). -/
def cacheHit (k : Core) (j : Job) : Option (List Byte) :=
  match k.lcCache with
  | some (a, p, q, img) => if j.lc ∧ a = j.asid ∧ p = j.progBase ∧ q = j.seqImage then some (img.take 2112) else none
  | none => none

/-- The sequencer image that a core loads: from its program cache, else from job memory (R101, R413). -/
def loadImage (s : State) (c : Nat) (j : Job) : Res (List Byte) :=
  match cacheHit (getCore s c) j with
  | some img => .ok img
  | none => jobReads s j.asid j.seqImage 2112

/-- An LC job fits a core of a die (R407). -/
def fits (j : Job) (t : Task) : Bool := 2 * j.footKib ≤ t.reserve

/-- The task of a core may start: its cluster is warm, an LC task has its core and any spill is complete, a
best-effort task's core is not with an LC job (R405, R407, R408). -/
def coreReady (s : State) (jn : Nat) (j : Job) (c : Nat) : Bool :=
  match getTask s c j.lc with
  | none => false
  | some t =>
    let k := getCore s c
    t.job = jn && !t.started && !t.ended && !t.waiting && !k.idleReq
      && (if j.lc then k.be.isNone || (k.lcHas && (fits j t || ((k.spill.map (·.done)).getD false)))
          else !k.lcHas)

/-- The slots of a core's split for a job (R172). -/
def splitOf (s : State) (j : Job) (d : Nat) : Nat × Nat × Nat :=
  if j.split = (0, 0, 0) then
    let r := setting s (0x4030 + 0x400 * d) 1
    let w := setting s (0x4030 + 0x400 * d) 2
    (r, w, 16 - r - w)
  else j.split

/-- Load a core's sequencer state (R100) and seed its generator of stochastic rounding (R52). -/
def startTask (s : State) (c : Nat) (j : Job) (img : List Byte) : State :=
  let sp := splitOf s j (c / 512)
  let s := updTask s c j.lc fun t =>
    { t with ix := startIx j t.rank img, sem := Vector.replicate 16 0, td := imageTds img, pc := 0, started := true
             ctxs := Vector.replicate 8 {}, slotsR := sp.1, slotsW := sp.2.1, slotsX := sp.2.2
             timeout := setting s 0x3080 1
             chargeNs := if (getCore s c).spill.isSome then t.chargeNs else s.nowNs }
  let n := s.free
  updCore { s with free := n + 1 } c fun k => { k with lcHas := k.lcHas || j.lc, rng := Config.entropy n }

/-- An LC core keeps the image and the first 64 instructions of its program (R413). -/
def fillCache (s : State) (c : Nat) (j : Job) (img : List Byte) : State :=
  if !j.lc ∨ (cacheHit (getCore s c) j).isSome then s else
    match jobReads s j.asid j.progBase (16 * min 64 j.progLen) with
    | .ok code => updCore s c fun k => { k with lcCache := some (j.asid, j.progBase, j.seqImage, img ++ code) }
    | .error _ => s

/-- Start the ready cores of a job, in rank order; each checks the descriptors of the image it loads (R102). -/
def startCores (s : State) (jn : Nat) (j : Job) : Res State :=
  j.cores.foldlM (init := s) fun s c => do
    if !coreReady s jn j c then return s else
      let img ← loadImage s c j
      need (tdsOk (imageTds img)) 0x06
      return startTask (fillCache s c j img) c j img

/-- The first snapshot of index registers holds each core's values of R100, taken as the core starts (R415). -/
def startSnap (before after : State) (j : Job) (old : List (Vector Word32 16)) : List (Vector Word32 16) :=
  j.cores.zipIdx.map fun (c, r) =>
    let was := ((getTask before c j.lc).map (·.started)).getD false
    match getTask after c j.lc with
    | some t => if t.started ∧ !was then t.ix else old.getD r t.ix
    | none => old.getD r (Vector.replicate 16 0)

/-- JOB_START (R100): the cores of a dispatched job that are ready load their sequencer state; with the first of them
the descriptors and tables are checked. -/
def execJobStart (jn : Nat) (s : State) : Host.Outcome State Fault Refusal :=
  .next <|
    match tget s.jobs jn with
    | none => s
    | some j =>
      if (j.state ≠ .placed ∧ j.state ≠ .running) ∨ j.failed.isSome ∨ !(j.cores.any (coreReady s jn j)) then s else
        let c0 := (j.cores.find? (coreReady s jn j)).getD 0
        let first := j.state = .placed
        match (do
          let s ← (if first then do
              let img ← loadImage s c0 j
              let (g, c) ← startCheck s j img
              pure (updJob s jn fun j => { j with groups := g, cst := c, state := .running })
            else pure s : Res State)
          let s' ← startCores s jn j
          return updJob s' jn fun j => { j with snapIx := startSnap s s' j j.snapIx } : Res State) with
        | .ok s => s
        | .error f => failJob s jn c0 0 f

end Sys2Proof.Machine
end

