-- ==== Sys2Proof/Machine/Cores.lean ====
section
/-! DEFINITION. Cores and clusters under the scheduler: preemption and resumption (R79 to R81, R168), the ramp (R72,
R73), warm and cold clusters (R404 to R406, R491, R492), the spill (R408 to R412), the fall-back switch and deadlines
(R415 to R419). -/

namespace Sys2Proof.Machine

/-! ### Preemption -/

/-- The segments of a queue that hold slots of a class: the first `n` in the order their instructions started. -/
def landClass (cls : SlotClass) : Nat → List Seg → Nat × List Seg
  | n, [] => (n, [])
  | n, g :: gs =>
    if g.cls = cls && !g.waiting then
      let k := min n g.left
      let r := landClass cls (n - k) gs
      (r.1, { g with landing := k } :: r.2)
    else
      let r := landClass cls n gs
      (r.1, g :: r.2)

/-- Queue entries of both engines in the order in which their instructions issued. -/
def byUid : List QEntry → List QEntry
  | [] => []
  | e :: t => insertUid e (byUid t)
where
  insertUid (e : QEntry) : List QEntry → List QEntry
    | [] => [e]
    | x :: t => if e.uid < x.uid then e :: x :: t else x :: insertUid e t

/-- Record the segments in flight of a task: those that hold a transfer slot (R168). -/
def landTask (t : Task) : Task :=
  let step (cls : SlotClass) (n : Nat) (q : List QEntry) : List QEntry :=
    (q.foldl (fun (acc : Nat × List QEntry) e =>
      let r := landClass cls acc.1 e.segs
      (r.1, acc.2 ++ [{ e with segs := r.2 }])) (n, [])).2
  let all := step .remote t.slotsX (step .write t.slotsW (step .read t.slotsR (byUid (t.fq ++ t.eq))))
  let put (e : QEntry) : QEntry := ((all.find? fun x => x.uid = e.uid).map fun x => { e with segs := x.segs }).getD e
  { t with fq := t.fq.map put, eq := t.eq.map put, landing := true }

/-- LC_PREEMPT (R79, R168): the LC job placed on a busy core takes it. -/
def execLcPreempt (c : CoreNo) (s : State) : Host.Outcome State Fault Refusal :=
  .next <|
    let k := getCore s c
    match k.lc, k.be with
    | some l, some _ =>
      if k.lcHas ∨ l.started ∨ l.waiting ∨ k.ramp then s else
        let s := chargeTask s c false
        updTask (updCore s c fun k => { k with lcHas := true }) c false landTask
    | _, _ => s

/-- The LC job has left the core, or its last instruction has retired there (R81). -/
def lcGone (k : Core) : Bool := match k.lc with
  | none => true
  | some t => t.ended && quiet t

/-- The best-effort task goes on where it stood (R81), and what a multicast of its job waits for (R168, R185). -/
def resumeBe (s : State) (c : Nat) : State :=
  let s := updCore s c fun k => { k with lcHas := false }
  let s := updTask s c false fun t => { t with landing := false, chargeNs := s.nowNs }
  let s := goOnBoth s c false
  match getTask s c false with
  | none => s
  | some t =>
    match catchUpAll s t.job with
    | .ok s => s
    | .error f => failJob s t.job c t.pc f

/-- LC_RESUME_BE (R81, R168). -/
def execLcResumeBe (c : CoreNo) (s : State) : Host.Outcome State Fault Refusal :=
  .next <|
    let k := getCore s c
    if !k.lcHas ∨ k.be.isNone ∨ k.spill.isSome ∨ !lcGone k then s else resumeBe s c

/-- RAMP_END (R72, R73): the core is warm and takes the work that waited. -/
def execRampEnd (c : CoreNo) (s : State) : Host.Outcome State Fault Refusal :=
  .next <|
    let k := getCore s c
    if !k.ramp then s else
      let s := setCore s c { k with ramp := false, warm := true }
      goOnBoth (goOnBoth s c true) c false

/-! ### Clusters -/

/-- A reset source is asserted on a cluster, or a core of it: the RESET_CAUSE bit of the cluster and of its die, and the
record (R487). -/
def clusterCause (s : State) (k src : Nat) : State :=
  let s := updCluster s k fun x => { x with cause := x.cause ||| 2 ^ src }
  let s := updDie s (k / 16) fun x => { x with cause := x.cause ||| 2 ^ src }
  sillage s 0x0200 (k / 16) noJob (packItems [(8, src), (16, k / 16 * 256 + k % 16)])

/-- A cluster has an in-service core (R19, R399). -/
def clusterAlive (s : State) (k : Nat) : Bool := (clusterCores k).any (inService s)

/-- Clusters of a die in a given power state. -/
def countPower (s : State) (d : Nat) (ps : List ClusterPower) : Nat :=
  (dieClusters d).countP fun k => ps.contains (getCluster s k).power

/-- CLUSTER_WAKE (R404, R405): a cluster that holds a task, or the lowest-numbered cold one while the die has fewer
warm than WARM_RESERVE, is woken. -/
def execClusterWake (k : ClusterNo) (s : State) : Host.Outcome State Fault Refusal :=
  .next <|
    let d := k.val / 16
    let lower := (dieClusters d).any fun q => q < k.val && clusterAlive s q && (getCluster s q).power = .cold
    let short := countPower s d [.warm, .waking] < setting s 0x3010 (d + 1)
    if dieUp s d ∧ clusterAlive s k ∧ (clusterHolds s k ∨ (short ∧ !lower)) then wakeCluster s k else s

/-- The reset of a core is released: a fence clears if the function unit passes its self-test (R88). -/
def releaseFence (s : State) (c : Nat) : State :=
  if !(getCore s c).fenced then s else
    updCore { s with free := s.free + 1 } c fun k => { k with fenced := !Config.selfTest c s.free }

/-- WAKE_DONE (R405): the resets of the cluster's cores are released, the cluster is warm and its waiting tasks may start.
Their ramps end, but on a core where a quench cut it short (R73). -/
def execWakeDone (k : ClusterNo) (s : State) : Host.Outcome State Fault Refusal :=
  .next <|
    if (getCluster s k).power ≠ .waking then s else
      let s := clusterCause s k 6
      let s := updCluster s k fun x => { x with power := .warm, since := s.nowNs }
      (clusterCores k).foldl (fun s c => updCore (releaseFence s c) c fun x =>
        { x with warm := !x.rampDue, ramp := false
                 be := x.be.map fun t => { t with waiting := false }
                 lc := x.lc.map fun t => { t with waiting := false } }) s

/-- COLD_AFTER_EXPIRY (R404): a warm cluster that has held no task for COLD_AFTER_US is dried down, if the die keeps
WARM_RESERVE warm clusters. -/
def execColdAfterExpiry (k : ClusterNo) (s : State) : Host.Outcome State Fault Refusal :=
  .next <|
    let d := k.val / 16
    let x := getCluster s k
    if x.power ≠ .warm ∨ clusterHolds s k ∨ s.nowNs - x.since < setting s 0x3011 (d + 1) * 1000
        ∨ countPower s d [.warm] ≤ setting s 0x3010 (d + 1) ∨ x.swap.isSome then s
    else
      let s := updCluster s k fun x => { x with power := .drying, wakeNs := s.nowNs }
      (clusterCores k).foldl (fun s c => if (tget s.cores c).isSome then updCore s c fun x => { x with warm := false }
        else s) s

/-- Contents that a core loses in a reset or when its cluster goes cold: its scratchpad, accumulators, weight and rounding
registers hold undefined data, its program cache is empty. An uncorrectable word stays one (R74). -/
def undefCore (s : State) (c : Nat) : State :=
  let s := undefScratch s c 0 0x30000
  if (tget s.cores c).isNone then s else
    let n := s.free
    updCore { s with free := n + 5 } c fun k =>
      { k with acc := memUndef k.acc 0 0x10000 n, lcAcc := memUndef k.lcAcc 0 0x4000 (n + 1)
               live := memUndef k.live 0 0x10000 (n + 2), shadow := memUndef k.shadow 0 0x10000 (n + 3)
               rng := Config.entropy (n + 4), lcCache := none, warm := false, ramp := false, rampDue := false }

/-- A core goes cold: what it held is undefined, with valid check bits (R74, R491). -/
def loseCore (s : State) (c : Nat) : State :=
  undefCore { s with scratchUE := s.scratchUE.filter fun w => w * 8 / 2 ^ 18 ≠ c } c

/-- CLUSTER_DRYDOWN_DONE (R491, R492): the cluster is cold; a wake that was pending starts. -/
def execClusterDrydownDone (k : ClusterNo) (s : State) : Host.Outcome State Fault Refusal :=
  .next <|
    let x := getCluster s k
    if x.power ≠ .drying then s else
      let s := (clusterCores k).foldl loseCore s
      let s := clusterCause s k 6
      let s := updCluster s k fun x => { x with power := .cold, pendingWake := false }
      if x.pendingWake then wakeCluster s k else s

/-! ### Spill -/

/-- What a spill writes: the scratchpad outside the slice and outside the slot regions (R408). -/
def spillRanges (t : Task) : List (Nat × Nat) :=
  t.states.foldl (fun rs sl => rs.flatMap fun r => cutRange r (sl.sbase, planeLen sl))
    (scratchRanges false t.reserve 0)

/-- The first spill page of a core (R409). -/
def spillVpn (c : Nat) : Nat := 0xFF0000000000 / 65536 + 3 * c

/-- The spill pages that cover some ranges. -/
def spillPages (c : Nat) (rs : List (Nat × Nat)) : List Nat :=
  [0, 1, 2].filterMap fun i =>
    if rs.any fun r => 0 < r.2 && r.1 < 65536 * (i + 1) && 65536 * i < r.1 + r.2 then some (spillVpn c + i) else none

/-- Tile boundary (R408): no best-effort instruction runs on the execute engine and none of its segments is in flight. -/
def atBoundary (t : Task) : Bool :=
  t.eq.all (fun e => !e.started) && t.fq.all fun e => e.segs.all fun g => g.landing = 0

/-- Write the spilled ranges to their pages. -/
def spillData (s : State) (c : Nat) (p : Spilled) : State :=
  p.ranges.foldl (fun s r =>
    (List.range r.2).foldl (fun s i =>
      let a := r.1 + i
      match getPte s p.asid (p.vpn + a / 65536) with
      | some e => physWrite s (pteAddr e (a % 65536)) (memRead s.scratch (scratchBase c + a))
      | none => s) s) s

/-- The accesses of a spill or of its restore pass the regulators of the dies that hold its pages, in the partition of the LC
job, and are never held (R327, R329, R408). -/
def paySpill (s : State) (p : Spilled) : State :=
  [0, 1, 2].foldl (fun s i =>
    let bytes := (p.ranges.map fun r => min (r.1 + r.2) (65536 * (i + 1)) - max r.1 (65536 * i)).sum
    match getPte s p.asid (p.vpn + i) with
    | some e => if e.tier ≤ 3 ∧ 0 < bytes then admitReq s e.die p.part true bytes else s
    | none => s) s

/-- SPILL (R408, R409): a core whose LC job does not fit puts its best-effort data away: first its slots are asked to
swap out, then each page is mapped in a frame, then the data is written. -/
def execSpill (c : CoreNo) (frame : Nat) (s : State) : Host.Outcome State Fault Refusal :=
  .next <|
    let k := getCore s c
    match k.lc, k.be with
    | some l, some t =>
      match tget s.jobs l.job, tget s.jobs t.job with
      | some lj, some bj =>
        if !k.lcHas ∨ l.started ∨ fits lj l ∨ !atBoundary t then s
        else if t.states.any fun sl => sl.state ≠ .swapped then
          (List.range t.states.length).foldl (fun s n =>
            match t.states[n]? with
            | some sl =>
              if sl.state ≠ .resident then s else
                let adds := addsReady t sl
                askOut (updSlot s c false n fun sl => { sl with landedIn := sl.landed + sl.landedIn - adds }) c false n adds
            | none => s) s
        else
          let s := if k.spill.isSome then s else
            let rs := spillRanges t
            let p : Spilled := { ranges := rs, vpn := spillVpn c, asid := bj.asid, need := spillPages c rs, part := lj.part }
            let s := updCore (bump s 0xE079 (coreDie c + 1) 1) c fun k => { k with spill := some p }
            updTask s c true fun l => { l with chargeNs := s.nowNs }
          match (getCore s c).spill with
          | none => s
          | some p =>
            match p.need with
            | [] => s
            | v :: rest =>
              match placeFor s (coreDie c) 3 2 false with
              | none => s
              | some (tier, die) =>
                if !frameFits s tier die frame then s else
                  let e : Pte := { tier := tier, die := die, writable := false, kind := 2, floor := 3, frame := frame,
                                   home := coreDie c, used := s.nowNs }
                  let s := setPte { s with free := s.free + 1 } p.asid v e
                  let s := updCore s c fun k => { k with spill := some { p with need := rest } }
                  if rest.isEmpty then paySpill (spillData s c p) p else s
      | _, _ => s
    | _, _ => s

/-- SPILL_DONE (R408): the spill's writes are complete; the LC job may start on the core. -/
def execSpillDone (c : CoreNo) (s : State) : Host.Outcome State Fault Refusal :=
  .next <|
    match (getCore s c).spill with
    | some p => if p.need = [] ∧ !p.done then updCore s c fun k => { k with spill := some { p with done := true } } else s
    | none => s

/-- Read a spill back into the scratchpad. -/
def spillBack (s : State) (c : Nat) (p : Spilled) : Res State :=
  p.ranges.foldlM (init := s) fun s r => do
    let bs ← (List.range r.2).mapM fun i =>
      match getPte s p.asid (p.vpn + (r.1 + i) / 65536) with
      | some e =>
        let q := pteAddr e ((r.1 + i) % 65536)
        if e.lost then (.error (failDieLost e.die) : Res Byte) else if isUe s q then .error failMemUe else .ok (physRead s q)
      | none => .error failMemUe
    return padWrite s c r.1 bs

/-- The restore is charged to the LC job that caused the spill, or to its partition once it has completed (R403). -/
def chargeBack (s : State) (c : Nat) (p : Spilled) : State :=
  match (getCore s c).lc with
  | some t => chargeJob s t.job ((s.nowNs - (t.endNs).getD s.nowNs) * clusterMhz s (c / 32) / 1000)
  | none => bumpIf s (0x3040 + p.part) 2 ((s.nowNs - (p.backNs).getD s.nowNs) * clusterMhz s (c / 32) / 1000)

/-- SPILL_RESTORE (R412): the spill is read back, its pages are unmapped and the best-effort task resumes; a read that
fails ends the best-effort job with FAIL_MEM_UE. -/
def execSpillRestore (c : CoreNo) (failed : Bool) (s : State) : Host.Outcome State Fault Refusal :=
  .next <|
    let k := getCore s c
    match k.spill, k.be with
    | some p, some t =>
      if !p.done ∨ !lcGone k then s else
        match (if failed then (.error failMemUe : Res State) else spillBack s c p) with
        | .error f =>
          let s := updCore (dropSpill s c) c fun k => { k with lcHas := false }
          failJob s t.job c t.pc f
        | .ok s => resumeBe (dropSpill (chargeBack (paySpill s p) c p) c) c
    | _, _ => s

/-! ### The fall-back switch and deadlines -/

/-- A core continues at FB_ENTRY (R418). -/
def switchTask (fb : Nat) (ix : Vector Word32 16) (t : Task) : Task :=
  { t with pc := fb, ix := ix, sem := Vector.replicate 16 0, fq := [], eq := [], sigAdds := [], blocked := none
           waitDone := 0, skips := [], ended := false, endNs := none, ctxs := Vector.replicate 8 {} }

/-- The fall-back imago of a job, when its imago names one (R418). -/
def fallbackSlot (s : State) (j : Job) : Option Nat :=
  match j.imago with
  | none => none
  | some n => match fallbackOf (getImago s n) with
    | some d => findImago s d fun st => st = .resident
    | none => none

/-- The switch (R418): `ixs` are the index registers with which the cores continue. -/
def switchJob (s : State) (jn : Nat) (j : Job) (ixs : List (Vector Word32 16)) : State :=
  let s := j.cores.zipIdx.foldl (fun s (c, r) =>
    updTask s c true fun t => if t.job = jn ∧ t.started then switchTask j.fbEntry (ixs.getD r t.ix) t else t) s
  let s := updJob s jn fun j => { j with fallback := true, switched := true, switchDue := false, armed := false
                                         barriers := [], barNeed := [], imagoFb := fallbackSlot s j }
  let s := bump (raiseOk s jn 3) 0xE07B 1 1
  sillage s 0x0003 (jobHome s j) (jobField j) (packItems [(64, j.projUs), (64, deadlineNs j / 1000)])

/-- FALLBACK_SWITCH (R418): the armed switch takes effect at the step boundary, with the index registers as they
stand. -/
def execFallbackSwitch (jn : Nat) (s : State) : Host.Outcome State Fault Refusal :=
  .next <|
    match tget s.jobs jn with
    | none => s
    | some j => if j.state ≠ .running ∨ j.failed.isSome ∨ !j.switchDue then s else switchJob s jn j (jobIx s j)

/-- FORCED_SWITCH (R417, R418): the armed switch is forced near the deadline or by a late read; the index registers
come from the last snapshot and what the job could write is undefined. -/
def execForcedSwitch (jn : Nat) (s : State) : Host.Outcome State Fault Refusal :=
  .next <|
    match tget s.jobs jn with
    | none => s
    | some j =>
      let near := j.armed ∧ deadlineNs j < s.nowNs + setting s 0x3020 1 * 1000
      if j.state ≠ .running ∨ j.failed.isSome ∨ !j.lc ∨ j.fbEntry = 0 ∨ j.switched ∨ !(decide near || j.late) then s
      else undefJobData (switchJob s jn j j.snapIx) j

/-- DEADLINE_EXPIRY (R419): an LC job at its deadline ends with FAIL_TIMEOUT, running or not. -/
def execDeadlineExpiry (jn : Nat) (s : State) : Host.Outcome State Fault Refusal :=
  .next <|
    match tget s.jobs jn with
    | none => s
    | some j =>
      if !j.lc ∨ j.deadlineUs = 0 ∨ j.failed.isSome ∨ s.nowNs < deadlineNs j ∨ j.state = .done then s else
        let s := bump s 0xE07C 1 1
        let s := sillage s 0x0004 (jobHome s j) (jobField j) (packItems [(64, j.projUs), (64, deadlineNs j / 1000)])
        if j.state = .waiting then endWaiting s jn failTimeout else failJobService s jn failTimeout

/-- The deadline monitor's evaluation between boundaries (R416). -/
def deadlineEval (s : State) (jn : Nat) : State :=
  match tget s.jobs jn with
  | none => s
  | some j =>
    if j.state ≠ .running ∨ j.failed.isSome ∨ !monitored j then s else
      let b := (j.lastB).getD j.startNs
      let p := projection b (stepsToRun j.snapIx) (max j.stepNs (s.nowNs - b))
      updJob s jn fun j => { j with projUs := p / 1000, armed := j.armed || deadlineNs j < p }

end Sys2Proof.Machine
end

