-- ==== Sys2Proof/Machine/Groups.lean ====
section
/-! DEFINITION. Rollout groups: creation and destruction (R242, R243), joins and leaves (R264), the step boundary (R263),
eviction (R265, R266), prefix adoption (R238), and the page service's events (R219, R237, R260, R267). -/

namespace Sys2Proof.Machine

/-! ### The page service's events -/

/-- The page service of a die works: the die is in the accord and not restarting under an update (R476). -/
def serviceUp (s : State) (d : Nat) : Bool := inAccord s d && role s d ≠ 2

def groupUp (s : State) (g : Nat) : Bool :=
  match tget s.groups g with
  | some gr => serviceUp s gr.home && !gr.stopped
  | none => false

/-- COMMIT (R219). -/
def execCommit (g : GroupNo) (idx : Fin 4096) (layer : Nat) (n : Int) (s : State) : Host.Outcome State Fault Refusal :=
  .next (if groupUp s g then retryCommits (commitStep (serving s) g idx layer n s) else s)

/-- APPEND_DONE (R219). -/
def execAppendDone (g : GroupNo) (idx : Fin 4096) (layer : Nat) (s : State) : Host.Outcome State Fault Refusal :=
  .next (if groupUp s g then retryCommits (appendDoneStep g idx layer s) else s)

/-- COMMIT_RESUME (R267): the next waiting commit of a die tries again for its slot. -/
def execCommitResume (d : Die) (s : State) : Host.Outcome State Fault Refusal :=
  .next <|
    match nextWaiting s d with
    | some q => if groupUp s q.group ∧ commitTurn s q then retryCommits (runCommit (serving s) s q) else s
    | none => s

/-- PREFIX_OFFER (R237). -/
def execPrefixOffer (g : GroupNo) (idx : Fin 4096) (block : Nat) (s : State) : Host.Outcome State Fault Refusal :=
  .next (if groupUp s g then offerStep g idx block s else s)

/-- MIRROR_FILL (R260). -/
def execMirrorFill (d : Die) (page : Nat) (s : State) : Host.Outcome State Fault Refusal :=
  .next (if serviceUp s d then mirrorFillStep (serving s) d page s else s)

/-! ### GROUP_CREATE -/

/-- The layout record's fields (R214). -/
def layoutOf (r : BitVec 512) : Layout :=
  { fmt := field r 504 8, nlayers := field r 496 8, heads := field r 488 8, dim32 := field r 480 8
    stageFmt := field r 476 4, stageBase := field r 400 48, stageStride := field r 368 32
    domain := field r 336 32, imagoTag := field r 272 64 }

/-- Bytes of a staging block (R218). -/
def stageLen (L : Layout) : Nat := 0x1000 + L.nlayers * (32 * L.heads * headDim L * (fmtBits (stageFmt L) / 8))

/-- A record of 64 bytes as a word. -/
def word512 (bs : List Byte) : BitVec 512 := BitVec.ofNat 512 (leNat bs)

/-- What GROUP_CREATE finds in its two records (R214, R242, R243). -/
def groupCheck (s : State) (asid pb : Nat) : Res (BitVec 512 × Layout) := do
  if !mapped s asid pb 64 then throw failBounds
  let p := word512 (← jobReads s asid pb 64)
  let la := field p 352 48
  let lr := if mapped s asid la 64 then (match jobReads s asid la 64 with
    | .ok bs => some (word512 bs)
    | .error _ => none) else none
  let L := layoutOf (lr.getD 0)
  need (field p 501 2 < 2 && field p 496 5 = 0 && field p 448 19 = 0 && field p 0 352 = 0
    && (match lr with
        | none => true
        | some r => (L.fmt = 6 || L.fmt = 7) && L.stageFmt < 3 && field r 448 28 = 0 && field r 0 272 = 0)) 0x02
  let gcb := field p 400 48
  need (field p 504 8 ≤ 3 && (bit p 503 || 1 ≤ field p 480 16) && 1 ≤ field p 467 13 && field p 467 13 ≤ 4096
    && gcb % 4096 = 0 && la % 64 = 0
    && (lr.isNone || (1 ≤ L.nlayers && L.nlayers ≤ 255 && 1 ≤ L.heads && L.heads ≤ 64 && 1 ≤ L.dim32 && L.dim32 ≤ 8
        && payloadBytes L ≤ 65536 && L.stageBase % 4096 = 0 && L.stageStride % 4096 = 0
        && stageLen L ≤ L.stageStride))) 0x06
  if lr.isNone ∨ !mapped s asid gcb 0x8040 ∨ !inAccord s (field p 504 8) then throw failBounds
  return (p, L)

/-- GROUP_CREATE (R243): `slot` is the free group slot of the home die that the part takes. -/
def execGroupCreate (id : Nat) (slot : Fin 256) (s : State) : Host.Outcome State Fault Refusal :=
  .next <|
    match cmdReady s id 0x10 with
    | none => s
    | some c =>
      let asid := field c.entry 470 10
      match groupCheck s asid (field c.entry 428 42 * 64) with
      | .error f => finishCmd s id f 0
      | .ok (p, L) =>
        let home := field p 504 8
        if (List.range 256).all fun i => (tget s.groups (home * 256 + i)).isSome then interimCmd s id
        else if (tget s.groups (home * 256 + slot.val)).isSome then s else
          let n := home * 256 + slot.val
          let g : Group := { home := home, lc := bit p 503, prot := field p 501 2 = 1, share := field p 480 16
                             maxF := field p 467 13, asid := asid, gcb := field p 400 48, layout := L
                             second := successor s home, copyFresh := (successor s home).isSome }
          let s := jobWritesD s asid g.gcb (List.replicate 0x8040 0)
          finishCmd (setGroup s n g) id okStatus n

/-! ### GROUP_DESTROY -/

/-- Drop every future of a group and free its slot (R243); its pending JOINs and LEAVEs complete FAIL_BOUNDS, those too that a
boundary paused for an eviction has handled. -/
def destroyGroup (s : State) (n : Nat) : State :=
  match tget s.groups n with
  | none => s
  | some g =>
    let s := (g.joins.filter fun j => j.rejoin.isNone).foldl (fun s j => finishCmd s j.cmd failBounds 0) s
    let s := g.leaves.foldl (fun s l => finishCmd s l.cmd failBounds 0) s
    let s := g.oks.foldl (fun s p => finishCmd s p.1 failBounds 0) s
    let s := g.futures.foldl (fun s f => dropFuture s n f.1) s
    { s with groups := tdel s.groups n, commits := s.commits.filter fun c => c.group ≠ n }

/-- GROUP_DESTROY (R243). A group that does not exist gives FAIL_BOUNDS. -/
def execGroupDestroy (id : Nat) (s : State) : Host.Outcome State Fault Refusal :=
  .next <|
    match cmdReady s id 0x11 with
    | none => s
    | some c =>
      let n := field c.entry 470 10
      if (tget s.groups n).isNone then finishCmd s id failBounds 0
      else if groupUp s n then finishCmd (destroyGroup s n) id okStatus 0 else s

/-! ### JOIN and LEAVE -/

/-- JOIN (R264): queued for the group's next boundary. -/
def execJoin (id : Nat) (s : State) : Host.Outcome State Fault Refusal :=
  .next <|
    match cmdReady s id 0x12 with
    | none => s
    | some c =>
      let e := c.entry
      let n := field e 470 10
      if c.started then s else
        match tget s.groups n with
        | none => finishCmd s id failBounds 0
        | some g =>
          if 1048576 < field e 421 21 then finishCmd s id failBounds 0 else
            let j : JoinReq := { cmd := id, kind := field e 468 2, prot := field e 466 2, priority := field e 458 8
                                 reserve := field e 442 16, ncodes := field e 421 21, source := field e 384 32
                                 codes := field e 338 46 * 4, boundary := g.stepIndex, seq := s.seq }
            let s := setGroup { s with seq := s.seq + 1 } n { g with joins := g.joins ++ [j] }
            updCmd s id fun c => { c with started := true }

/-- LEAVE (R264): queued for the group's next boundary. -/
def execLeave (id : Nat) (s : State) : Host.Outcome State Fault Refusal :=
  .next <|
    match cmdReady s id 0x13 with
    | none => s
    | some c =>
      let h := field c.entry 448 32
      let n := handleGroup h
      if c.started then s else
        match (if h < 2 ^ 31 then tget s.groups n else none) with
        | none => finishCmd s id failBounds 0
        | some g =>
          let s := setGroup s n { g with leaves := g.leaves ++ [{ cmd := id, handle := h, drop := bit c.entry 447 }] }
          updCmd s id fun c => { c with started := true }

/-! ### The boundary -/

/-- Put a list in the order of a relation, keeping the order of equals. -/
def isort {α : Type} (lt : α → α → Bool) : List α → List α
  | [] => []
  | a :: t => ins a (isort lt t)
where
  ins (a : α) : List α → List α
    | [] => [a]
    | b :: t => if lt b a then b :: ins a t else a :: b :: t

/-- Set a future's fields and its state word. -/
def putFuture (s : State) (g i : Nat) (u : Future → Future) : State := writeFstate (updFuture s g i u) g i

/-- The mirror slots of a reserve, as many as the mirror die's pool gives from sources 2 and 3: a shortfall holds nothing back
(R262). -/
def takeMirrorReserve (s : State) (g i n size : Nat) : State :=
  match (tget s.groups g).bind fun gr => (tget gr.futures i).map fun f => (gr, f) with
  | none => s
  | some (gr, f) =>
    match (if f.mirror then mirrorDie (serving s) gr.home else none) with
    | none => s
    | some d =>
      let s := releaseFor ((treeOf s d).length + 1) s d size n
      let k := min n (poolAvail (getPool s d) size)
      updFuture (addReserved s d size k) g i fun f => { f with mirrorReserve := k, mirrorOn := d }

/-- Take a reserve of `r` blocks for a future (R262): from sources 2 and 3. None where the pool cannot give it. -/
def takeReserve (s : State) (g i r : Nat) : Option State :=
  match tget s.groups g with
  | none => none
  | some gr =>
    let size := pageSlot gr.layout
    let n := r * gr.layout.nlayers
    let s := releaseFor ((treeOf s gr.home).length + 1) s gr.home size n
    if poolAvail (getPool s gr.home) size < n then none else
      some (takeMirrorReserve (updFuture (addReserved s gr.home size n) g i fun f => { f with reserve := r, resSlots := n })
        g i n size)

/-- A block's node is adopted in every layer (R238). -/
def adoptBlock (s : State) (g i b : Nat) (n : TreeNode) : Option State :=
  n.pages.zipIdx.foldlM (fun s (p : Nat × Nat) =>
    (ownChunk s g i p.2 b).map fun (k, s) =>
      updPage (updChunk s k fun c => { c with pages := tset c.pages (b % 64) p.1 }) p.1 fun q =>
        { q with refcnt := q.refcnt + 1 }) s

/-- The adoption walk (R238): by blocks, from block `b` with the hash of its parent. None where a table chunk cannot
be had. -/
def adoptWalk (g i : Nat) : List (List Nat) → Nat → Nat → State → Option (Nat × State)
  | [], b, _, s => some (b, s)
  | cs :: rest, b, prev, s =>
    match (tget s.groups g).map (·.home) with
    | none => some (b, s)
    | some d =>
      let h := hashBlock prev cs
      match (treeOf s d).find? fun n => n.hash = h with
      | none => some (b, s)
      | some n =>
        if !nodePasses n prev cs b then some (b, bump s 0xE052 (d + 1) 1) else
          match adoptBlock s g i b n with
          | none => none
          | some s =>
            let s := setTree s d ((treeOf s d).map fun m => if m.hash = h then { m with adopted := uptimeUs s } else m)
            let s := updFuture s g i fun f =>
              { f with offered := b :: f.offered, codes := cs.zipIdx.foldl (fun t (v, k) => tset t (16 * b + k) v) f.codes }
            adoptWalk g i rest (b + 1) h s

/-- A list cut into blocks of 16, leaving out what is over (R238). -/
def blocks16 : Nat → List Nat → List (List Nat)
  | 0, _ => []
  | k + 1, l => if l.length < 16 then [] else l.take 16 :: blocks16 k (l.drop 16)

/-- What trying a JOIN gives. -/
inductive JoinTry where
  | failed
  | noRoom
  | joined (handle : Nat) (s : State)

/-- Bring a demoted page back to its home die (R266). -/
def bringBack (s : State) (home key : Nat) : Option State :=
  match getPage s key with
  | none => some s
  | some p =>
    if kvDie key = home then some s else
      (allocKv s home p.slotBytes false).map fun (k, s) => rekeyPage (freeSlotAt s key) key k { p with tier := 2, place := home, frame := 0 }

/-- Bring a demoted table chunk back to the home die (R266). -/
def bringChunk (s : State) (home key : Nat) : Option State :=
  match tget s.chunks key with
  | none => some s
  | some c => if c.away.isNone then some s else
      (allocKv s home 256 false).map fun (k, s) => rekeyChunk s key k { c with away := none }

/-- The table chunks of a future. -/
def futureChunks (f : Future) : List Nat := f.dirs.flatMap fun d => d.map (·.2)

/-- The rejoin of an evicted future: every demoted page needs a slot (R266). -/
def tryRejoin (s : State) (g i : Nat) : JoinTry :=
  match (tget s.groups g).bind fun gr => (tget gr.futures i).map fun f => (gr, f) with
  | none => .failed
  | some (gr, f) =>
    if f.state ≠ .evicted then .failed else
      match ((futurePages s f).foldlM (fun s k => bringBack s gr.home k) s).bind fun s =>
          (futureChunks f).foldlM (fun s k => bringChunk s gr.home k) s with
      | none => .noRoom
      | some s => .joined (mkHandle g i f.gen) (putFuture s g i fun f => { f with state := .inBatch })

/-- Try one JOIN (R251, R262 to R264). -/
def tryJoin (s : State) (g : Nat) (j : JoinReq) : JoinTry :=
  match j.rejoin with
  | some i => tryRejoin s g i
  | none =>
    match tget s.groups g with
    | none => .failed
    | some gr =>
      let src := if j.kind = 1 then liveFuture s j.source else none
      let codes := if j.kind = 2 then
          (if mapped s gr.asid j.codes (4 * j.ncodes) then
            (match jobReads s gr.asid j.codes (4 * j.ncodes) with
             | .ok bs => some ((List.range j.ncodes).map fun k => leNat ((bs.drop (4 * k)).take 4))
             | .error _ => none) else none)
        else some []
      match codes with
      | none => .failed
      | some codes =>
        if !(match src with
            | some r => r.1 = g
            | none => j.kind ≠ 1) then .failed
        else
          let mirror := if j.prot = 0 then gr.prot else j.prot = 2
          let made : Option (Nat × State) := match src with
            | some (_, _, _, f) => forkFuture s g gr f (if mirror then 2 else 1)
            | none => (freeIndex gr).map fun i =>
                let old := tgetD gr.futures i {}
                (i, setFuture { s with seq := s.seq + 1 } g i
                  { gen := (old.gen + 1) % 512, mirror := mirror, born := s.seq
                    dirs := List.replicate gr.layout.nlayers [], lens := List.replicate gr.layout.nlayers 0 })
          match made with
          | none => .noRoom
          | some (i, s) =>
            let walked := if j.kind = 2 ∧ gr.layout.domain ≠ 0 then
                adoptWalk g i (blocks16 (codes.length / 16) codes) 0 (hashSeed gr.layout) s
              else some (0, s)
            match walked with
            | none => .noRoom
            | some (n, s) =>
              let s := if j.kind = 2 then
                  bumpIf (updFuture s g i fun f => { f with lens := f.lens.map fun _ => 16 * n }) 0xE051 (gr.home + 1) n
                else s
              match takeReserve s g i j.reserve with
              | none => .noRoom
              | some s =>
                let s := setLag (updFuture s g i fun f => { f with state := .inBatch, priority := j.priority }) g i
                let gen := (((tget s.groups g).bind fun gr => tget gr.futures i).map (·.gen)).getD 0
                .joined (mkHandle g i gen) s

/-- The order in which JOINs are tried (R263): oldest boundary, then priority, then arrival. -/
def joinBefore (a b : JoinReq) : Bool :=
  a.boundary < b.boundary || (a.boundary = b.boundary && (b.priority < a.priority
    || (a.priority = b.priority && a.seq < b.seq)))

/-! ### Eviction -/

/-- Pages in the pools that no other future reaches: of chunks with count 1, with one reference beside the tree's (R265). -/
def exclusivePages (s : State) (f : Future) : List Nat :=
  f.dirs.flatMap fun dir => dir.flatMap fun e => match tget s.chunks e.2 with
    | some c => if c.count ≤ 1 then (c.pages.map (·.2)).filter fun k =>
        kvDie k < 4 && ((getPage s k).map fun p => decide (p.refcnt ≤ (if p.inTree then 2 else 1))).getD false else []
    | none => []

def exclusiveChunks (s : State) (f : Future) : List Nat :=
  f.dirs.flatMap fun dir => (dir.map (·.2)).filter fun k =>
    decide (kvDie k < 4) && ((tget s.chunks k).map fun c => decide (c.count ≤ 1)).getD false

/-- A free frame of a tier: its first one, or the one after a used one (DESIGN CHOICE, log 154: no rule orders them). -/
def freeFrame (s : State) (tier die : Nat) : Option Nat :=
  ((if tier = 4 then (grant s).1 else 0) :: (usedFrames s).map fun f => f.2.2 + 1).find? (frameFits s tier die)

/-- Where a slot of some bytes is packed in a tier (R342): in a tier page of its size with room, else in a new one. -/
def packSlot (s : State) (tier die size : Nat) : Option Nat :=
  let here := (awaySlots s).filter fun a => a.1.1 = tier && a.1.2.1 = die && a.2 = size
  match (here.map fun a => a.1.2.2).find? fun f => (here.countP fun a => a.1.2.2 = f) < perPage size with
  | some f => some f
  | none => freeFrame s tier die

/-- Move one page of a die's pool to the next tier with room (R265, R342). -/
def demoteKv (s : State) (key : Nat) : Option State :=
  match getPage s key with
  | none => some s
  | some p =>
    (placeFor s (kvDie key) 5 3 false).bind fun (tier, die) => (packSlot s tier die p.slotBytes).map fun frame =>
      let k := awayKey s
      rekeyPage { freeSlotAt s key with seq := s.seq + 1, free := s.free + 1 } key k { p with tier := tier, place := die, frame := frame }

/-- Move one table chunk of a die's pool to the next tier with room (R265, R342). -/
def demoteChunk (s : State) (key : Nat) : Option State :=
  match tget s.chunks key with
  | none => some s
  | some c =>
    (placeFor s (kvDie key) 5 3 false).bind fun (tier, die) => (packSlot s tier die 256).map fun frame =>
      let k := awayKey s
      rekeyChunk { freeSlotAt s key with seq := s.seq + 1, free := s.free + 1 } key k { c with away := some (tier, die, frame) }

/-- Evict one victim (R265, R266). -/
def evictFuture (s : State) (g i : Nat) : Option State :=
  match (tget s.groups g).bind fun gr => (tget gr.futures i).map fun f => (gr, f) with
  | none => some s
  | some (gr, f) =>
    let pages := exclusivePages s f
    ((pages.foldlM demoteKv s).bind fun s => (exclusiveChunks s f).foldlM demoteChunk s).map fun s =>
      let s := releaseReserve s gr f
      let s := putFuture s g i fun f => { f with state := .evicted, reserve := 0, resSlots := 0, mirrorReserve := 0 }
      sillage (bump s 0xE058 (gr.home + 1) 1) 0x000F gr.home noJob
        (packItems [(16, g), (32, mkHandle g i f.gen), (32, pages.length)])

/-- The candidates for eviction on a die in the order of R265. -/
def victims (s : State) (home : Nat) : List (Nat × Nat) :=
  let cands := s.groups.flatMap fun (g, gr) =>
    if gr.lc ∨ gr.home ≠ home then [] else
      gr.futures.filterMap fun (i, f) =>
        let live := f.state = .inBatch ∨ f.state = .offBatch ∨ f.state = .joining
        if live ∧ (exclusivePages s f ≠ [] ∨ exclusiveChunks s f ≠ [] ∨ f.resSlots ≠ 0) then
          some (gr.share, (((futurePages s f).filterMap (getPage s)).map (·.lastUse)).foldl max 0, mkHandle g i f.gen, g, i)
        else none
  (isort (fun (a b : Nat × Nat × Nat × Nat × Nat) => a.1 < b.1 || (a.1 = b.1 && (a.2.1 < b.2.1
    || (a.2.1 = b.2.1 && b.2.2.1 < a.2.2.1)))) cands).map fun a => a.2.2.2

/-- The fewest victims, in order, whose eviction lets a JOIN in (R265). -/
def coverJoin (g : Nat) (j : JoinReq) : List (Nat × Nat) → List (Nat × Nat) → State → Option (List (Nat × Nat))
  | [], _, _ => none
  | v :: vs, taken, s =>
    match evictFuture s v.1 v.2 with
    | none => none
    | some s =>
      match tryJoin s g j with
      | .joined _ _ => some (taken ++ [v])
      | _ => coverJoin g j vs (taken ++ [v]) s

/-! ### Carrying out a boundary -/

/-- A JOIN is over: its command completes, or joins those that complete with the boundary. -/
def noteJoin (s : State) (g : Nat) (j : JoinReq) (h : Nat) : State :=
  updGroup s g fun gr => { gr with
    joins := gr.joins.filter fun k => k.seq ≠ j.seq
    admitted := gr.admitted ++ [h]
    oks := if j.rejoin.isSome then gr.oks else gr.oks ++ [(j.cmd, h)] }

def dropJoin (s : State) (g : Nat) (j : JoinReq) : State :=
  let s := updGroup s g fun gr => { gr with joins := gr.joins.filter fun k => k.seq ≠ j.seq }
  if j.rejoin.isSome then s else finishCmd s j.cmd failBounds 0

/-- Step 4 of R263: JOINs in order until one fails its allocation. The answer says whether an eviction has begun. -/
def runJoins (g : Nat) : List JoinReq → State → State × Bool
  | [], s => (s, false)
  | j :: js, s =>
    match tryJoin s g j with
    | .failed => runJoins g js (dropJoin s g j)
    | .joined h s' => runJoins g js (noteJoin s' g j h)
    | .noRoom =>
      match tget s.groups g with
      | none => (s, false)
      | some gr =>
        if !gr.lc ∨ (freeIndex gr).isNone ∧ j.rejoin.isNone then (s, false) else
          match coverJoin g j (victims s gr.home) [] s with
          | none => (s, false)
          | some vs => (updGroup s g fun gr => { gr with evicting := vs, boundary := true }, true)

/-- JOINs that stay pending post their interim completion at their first boundary (R264). -/
def deferJoins (s : State) (g : Nat) : State :=
  match tget s.groups g with
  | none => s
  | some gr =>
    let new := gr.joins.filter fun j => !j.deferred && j.rejoin.isNone
    let s := new.foldl (fun s j => interimCmd s j.cmd) s
    let s := bumpIf s 0xE057 (gr.home + 1) new.length
    updGroup s g fun gr => { gr with joins := gr.joins.map fun j => if j.rejoin.isNone then { j with deferred := true } else j }

/-- Bytes of job memory that hold undefined data from now on. -/
def undefJob (s : State) (asid va len : Nat) : State :=
  (List.range ((va + len + 65535) / 65536 - va / 65536)).foldl (fun s i =>
    let lo := max va ((va / 65536 + i) * 65536)
    let hi := min (va + len) ((va / 65536 + i + 1) * 65536)
    match getPte s asid (va / 65536 + i) with
    | some p => let q := pteAddr p (lo % 65536); undefSpace s q.sp q.a (hi - lo)
    | none => s) s

/-- Steps 5 and 6 of R263. -/
def closeBoundary (s : State) (g : Nat) : State :=
  let s := deferJoins s g
  match tget s.groups g with
  | none => s
  | some gr =>
    let batch := gr.batch ++ gr.admitted
    let idx := (gr.stepIndex + 1) % 2 ^ 32
    let s := setGroup s g { gr with batch := batch, stepIndex := idx, admitted := [], oks := [], boundary := false
                                    evicting := [] }
    let s := jobWritesD s gr.asid (gr.gcb + 0x40) (batch.flatMap (leBytes 4))
    let s := undefJob s gr.asid (gr.gcb + 0x40 + 4 * batch.length) (4 * (4096 - batch.length))
    let s := jobWritesD s gr.asid (gr.gcb + 8) (leBytes 4 batch.length ++ leBytes 4 idx
      ++ leBytes 4 (poolAvail (getPool s gr.home) (pageSlot gr.layout))
      ++ leBytes 4 (gr.joins.countP (·.deferred)))
    let s := match add32 s gr.asid (gr.gcb + 4) 1 with
      | .ok (_, s) => s
      | .error _ => s
    gr.oks.foldl (fun s p => finishCmd s p.1 okStatus p.2) s

/-- Go on with the joins of a boundary, and close it unless an eviction has begun. -/
def joinsAndClose (s : State) (g : Nat) : State :=
  match tget s.groups g with
  | none => s
  | some gr =>
    let r := runJoins g (isort joinBefore gr.joins) s
    if r.2 then r.1 else closeBoundary r.1 g

/-- Step 2 of R263: LEAVE commands. -/
def runLeave (s : State) (g : Nat) (l : LeaveReq) : State :=
  match liveFuture s l.handle with
  | none => finishCmd s l.cmd failBounds 0
  | some (n, _, i, _) =>
    if n ≠ g then finishCmd s l.cmd failBounds 0 else
      let s := if l.drop then dropFuture s g i else putFuture s g i fun f => { f with state := .offBatch }
      updGroup s g fun gr => { gr with oks := gr.oks ++ [(l.cmd, 0)] }

/-- Futures of the batch that no longer live, left, or are evicted leave it; every evicted one is requeued at its group's next
boundary (R263, R266). -/
def sweepBatch (s : State) (g : Nat) : State :=
  match tget s.groups g with
  | none => s
  | some gr =>
    let inB (h : Nat) : Bool := match liveFuture s h with
      | some (_, _, _, f) => f.state = .inBatch
      | none => false
    let ev := gr.futures.filterMap fun (i, f) =>
      if f.state = .evicted ∧ gr.joins.all (fun j => j.rejoin ≠ some i) then some (i, f.priority) else none
    let s := ev.foldl (fun s p =>
      let j : JoinReq := { cmd := 0, kind := 0, prot := 0, priority := p.2, reserve := 0, ncodes := 0, source := 0
                           codes := 0, boundary := gr.stepIndex, seq := s.seq, rejoin := some p.1 }
      updGroup { s with seq := s.seq + 1 } g fun gr => { gr with joins := gr.joins ++ [j] }) s
    updGroup s g fun gr => { gr with batch := gr.batch.filter inB }

/-- Step 3 of R263: JOINING futures in the order of their creation. -/
def admitJoining (s : State) (g : Nat) : State :=
  match tget s.groups g with
  | none => s
  | some gr =>
    let js := isort (fun (a b : Nat × Future) => a.2.born < b.2.born) (gr.futures.filter fun f => f.2.state = .joining)
    js.foldl (fun s f =>
      updGroup (putFuture s g f.1 fun f => { f with state := .inBatch }) g fun gr =>
        { gr with admitted := gr.admitted ++ [mkHandle g f.1 f.2.gen] }) s

/-- A commit to a future of the batch landed before a moment and has not completed (R263 step 1), or one to a future that a
LEAVE is to drop, unless it waits (R254). -/
def batchCommits (s : State) (g : Nat) (gr : Group) (before : Nat) : Bool :=
  s.commits.any fun c => c.group = g && c.seq < before && ((gr.batch.any fun h => handleIndex h = c.idx)
    || (!c.waiting && gr.leaves.any fun l => l.drop && handleIndex l.handle = c.idx))

/-- STEP_BOUNDARY (R263): the boundary that the oldest add on STEP asks for. -/
def execStepBoundary (g : GroupNo) (s : State) : Host.Outcome State Fault Refusal :=
  .next <|
    match tget s.groups g with
    | none => s
    | some gr =>
      match gr.steps with
      | [] => s
      | t :: rest =>
        if gr.boundary ∨ !groupUp s g ∨ batchCommits s g gr t then s else
          let s := setGroup s g { gr with steps := rest, leaves := [], admitted := [], oks := [] }
          let s := gr.leaves.foldl (fun s l => runLeave s g l) s
          let s := admitJoining (sweepBatch s g) g
          joinsAndClose s g

/-- EVICTION_DONE (R265): the last moved page has left the die; the JOIN is admitted and the boundary goes on. -/
def execEvictionDone (g : GroupNo) (s : State) : Host.Outcome State Fault Refusal :=
  .next <|
    match tget s.groups g with
    | none => s
    | some gr =>
      if !gr.boundary ∨ gr.evicting = [] ∨ !groupUp s g then s else
        match gr.evicting.foldlM (fun s v => evictFuture s v.1 v.2) s with
        | none => joinsAndClose (updGroup s g fun gr => { gr with evicting := [], boundary := false }) g
        | some s => joinsAndClose (updGroup s g fun gr => { gr with evicting := [], boundary := false }) g

end Sys2Proof.Machine
end

