-- ==== Sys2Proof/Machine/Dram.lean ====
section
/-! DEFINITION. Bonded DRAM: the channel map (R306 to R308), requests with error correction (R309 to R311, R460 to R462),
write-back and patrol scrub (R310, R312), the regulators (R327 to R329), the adders (R324, R325) and the migration of
channels (R313 to R318). -/

namespace Sys2Proof.Machine

/-! ### Channels -/

/-- The line at an offset of a logical channel (R308). -/
def lineAt (l off : Nat) : Nat := (off / 256 * 120 + l) * 256 + off % 256

def chanCode : ChanState → Nat
  | .active => 0
  | .spare => 1
  | .copySource => 2
  | .copyTarget => 3
  | .retraining => 4
  | .retired => 5

/-- A channel changes its state; the sillage records it (R333). -/
def setChan (s : State) (d n : Nat) (st : ChanState) : State :=
  let s := updDie s d fun x => { x with chans := tset x.chans n st }
  sillage s 0x0023 d noJob (packItems [(8, n), (8, chanCode st), (8, (logicalOf (getDie s d) n).getD 0xFF)])

def sparesLeft (s : State) (d : Nat) : Nat := (List.range 128).countP fun n => chanState (getDie s d) n = .spare

/-- An automatic request that finds no spare is recorded once for each channel (R314). -/
def noteNoSpare (s : State) (d n : Nat) : State :=
  let x := getDie s d
  if x.noSpare.contains n then s
  else sillage (setDie s d { x with noSpare := n :: x.noSpare }) 0x0024 d noJob (packItems [(8, n)])

/-- Put a migration in the die's queue (R314): one for each channel, at most 8; an automatic one that finds no spare is
dropped. -/
def queueMig (s : State) (d n prio : Nat) (auto : Bool) : State :=
  let x := getDie s d
  let under := match x.mig with
    | some m => m.source = n
    | none => false
  if x.queue.any (fun q => q.channel = n) || under || chanState x n ≠ .active then s
  else if sparesLeft s d = 0 then (if auto then noteNoSpare s d n else s)
  else if 8 ≤ x.queue.length then s
  else setDie { s with seq := s.seq + 1 } d { x with queue := x.queue ++ [{ channel := n, prio := prio, seq := s.seq }] }

/-! ### Errors in codewords -/

/-- One corrected error of a channel (R310, R314): it counts, is to be written back, and at the threshold of the last
60 minutes asks for a migration. -/
def noteCe (s : State) (d dpa : Nat) : State :=
  let n := dpaChannel s d dpa
  let s := bump s (dramIx d + 0x12) (n + 1) 1
  let x := getDie s d
  let hour := 3600 * 10 ^ 9
  let ts := s.nowNs :: (tgetD x.ceTimes n []).filter fun t => s.nowNs - t < hour
  let s := setDie s d { x with ceTimes := tset x.ceTimes n ts
                               wbacks := x.wbacks ++ [{ channel := n, dpa := dpa / 128 * 128 }] }
  if setting s (dramIx d + 0x21) 1 ≤ ts.length then queueMig s d n 1 true else s

/-- The package DPA of a die address. -/
def pkgDpa (d dpa : Nat) : Nat := d * dieSpan + dpa

/-- An uncorrectable codeword is found (R311): it counts and is recorded. In a protected page whose stripe can serve
it, it is rebuilt, written back and recorded (R461); the answer says whether data can be served. -/
def noteUe (s : State) (d dpa : Nat) : State × Bool :=
  let cw := pkgDpa d dpa / 128
  let s := { s with dramUE := if s.dramUE.contains cw then s.dramUE else cw :: s.dramUE }
  if repairable s (pkgDpa d dpa) then (repairUe s cw, true) else (countUe s cw, false)

/-- A codeword is read in which some bytes are found wrong (R309): up to 8 are corrected, more cannot be. -/
def judge (s : State) (d dpa errs : Nat) : State × Bool :=
  if 9 ≤ errs ∨ s.dramUE.contains (pkgDpa d dpa / 128) then noteUe s d dpa
  else (if 0 < errs then noteCe s d dpa else s, true)

/-! ### Requests -/

/-- The job that pays for what a request meets (R311). -/
def failReq (s : State) (src : DramSource) (f : Fail) : State :=
  match src with
  | .job n => failJobService s n f
  | _ => s

/-- What a request that met a codeword that cannot be served ends its job with (R311, R462); the codeword has counted. -/
def unserved (s : State) (d dpa : Nat) : Fail :=
  match lostUnit s (pkgDpa d dpa) with
  | some e => failDieLost e
  | none => failMemUe

/-- The codewords that `len` bytes touch. -/
def cwCount (dpa len : Nat) : Nat := if len = 0 then 0 else (dpa + len - 1) / 128 - dpa / 128 + 1

/-- The die address of the `i`-th codeword that a request touches. -/
def cwDpa (dpa i : Nat) : Nat := (dpa / 128 + i) * 128

/-- Serve the part of a request in its `i`-th codeword (R309 to R311): a write of the whole codeword replaces it; any other
access reads it first, and a write is not applied to a codeword that cannot be read. -/
def serveCw (d : Nat) (r : DramReq) (acc : State × Option Fail) (i : Nat) : State × Option Fail :=
  let a := cwDpa r.dpa i
  let lo := max r.dpa a
  let hi := min (r.dpa + r.len) (a + 128)
  let cw := pkgDpa d a / 128
  let whole := r.write.isSome && hi - lo = 128
  let found := if whole then (clearUe acc.1 cw, true) else judge acc.1 d a (r.errs.getD i 0)
  if !found.2 then (found.1, acc.2.or (some (unserved found.1 d a)))
  else match r.write with
    | none => (found.1, acc.2)
    | some bs =>
      let part := ((bs ++ List.replicate (r.len - bs.length) 0).drop (lo - r.dpa)).take (hi - lo)
      (dropWbacks { found.1 with dram := memWrites found.1.dram (pkgDpa d lo) part } (· = cw), acc.2)

/-- What a host read returned. -/
def readFill (s : State) (bs : List Byte) : State := sendHostMem { s with hub := { s.hub with readData := bs } } 2

/-- A host access is answered (R392): a read of a line with a UE returns 0xFF in every byte, with the event and the record;
a write to one has been dropped. -/
def hostAnswer (s : State) (d : Nat) (r : DramReq) (bad : Bool) : State :=
  match r.write with
  | some _ => sendHostMem s 1
  | none =>
    if bad then
      let p := pkgDpa d r.dpa
      readFill (sillage (postEvent (bump s 0xE070 1 1) 3 p) 0x0026 4 noJob (packItems [(40, p)])) (List.replicate r.len 0xFF)
    else readFill s (memReads s.dram (pkgDpa d r.dpa) r.len)

/-- Serve a request at its channel controllers (R309 to R311, R392, R460 to R462). -/
def serve (s : State) (d : Nat) (r : DramReq) : State :=
  let x := (List.range (cwCount r.dpa r.len)).foldl (serveCw d r) (s, none)
  match r.src, x.2 with
  | .host, f => hostAnswer x.1 d r f.isSome
  | _, some f => failReq x.1 r.src f
  | _, none => x.1

/-- A channel is being swapped (R315 step 4), and the bytes touch it. -/
def swapTouches (s : State) (d dpa len : Nat) : Bool :=
  match (getDie s d).mig with
  | some m => m.phase = 2 && (List.range (ceilDiv (dpa % 256 + len) 256)).any fun i => dpaChannel s d (dpa + 256 * i) = m.source
  | none => false

/-- The address mapper passes an admitted request on, or holds it while its channel is swapped (R315 step 4). -/
def atMapper (s : State) (d : Nat) (r : DramReq) : State :=
  if swapTouches s d r.dpa r.len then updDie s d fun x => { x with swapHeld := x.swapHeld ++ [.req r] } else serve s d r

/-! ### Regulators (R327 to R329) -/

/-- The values that the objects of a partition hold (R331). -/
def partSet (s : State) (d p : Nat) : Nat × Nat × Nat :=
  (setting s (dramIx d + 0x40 + p) 1, setting s (dramIx d + 0x40 + p) 2, setting s (dramIx d + 0x40 + p) 3)

/-- A tick takes the objects' values into force (R331). -/
def takeParts (s : State) (d : Nat) : State :=
  let ps := (List.range 64).filterMap fun p => if partSet s d p = (0, 0, 64) then none else some (p, partSet s d p)
  updDie s d fun x => { x with parts := ps }

/-- The job that a request is for: a job's own, or of a page-service operation the one that owns the group. -/
def reqJob (s : State) (src : DramSource) : Option Job :=
  match src with
  | .job n => tget s.jobs n
  | .group g => ((tget s.groups g).bind (·.owner)).bind fun n => tget s.jobs n
  | _ => none

/-- The partition of a request (R327). -/
def reqPart (s : State) (d : Nat) (src : DramSource) : Nat :=
  match src with
  | .host => setting s (dramIx d + 0x30) 1
  | _ => ((reqJob s src).map (·.part)).getD 0

/-- A request of an LC job (R329). -/
def reqLc (s : State) (src : DramSource) : Bool := ((reqJob s src).map (·.lc)).getD false

/-- A request arrives at a die's ingress: it is admitted, or held by its partition's regulator (R328, R329). -/
def arriveReq (s : State) (d : Nat) (r : DramReq) : State :=
  let p := reqPart s d r.src
  let behind := (getDie s d).held.any fun h => h.part = p
  if partMode s d p = 0 ∨ reqLc s r.src ∨ (64 ≤ tokensOf s d p ∧ !behind) then
    atMapper (admitReq s d p (reqLc s r.src) r.len) d r
  else updDie s d fun x => { x with held := x.held ++ [{ req := r, part := p, at0 := s.nowNs }] }

/-- The node that a request comes from: a die, or 4 for the hub. -/
def reqNode (r : DramReq) : Nat := match r.src with
  | .host => 4
  | _ => r.reader

/-- A request crosses the links between the dies (R24): a read as a request, with its data on the way back; a write as
data. -/
def crossing (s : State) (n d : Nat) (r : DramReq) : State :=
  let page := r.dpa / 65536
  if n = d then s
  else if r.write.isSome then send s .data n d page (flitsOf r.len)
  else send (send s .req n d page 1) .data d n page (flitsOf r.len)

/-- A read of a page on a die that does not answer is served from the stripe's other units (R460). -/
def degradedServe (s : State) (d : Nat) (r : DramReq) : State :=
  let n := r.reader.val
  let others := match imagoAt s d (r.dpa / 65536) with
    | some (_, m, _) => m.dies.filter fun e => e ≠ d && e ≠ n
    | none => []
  bumpIf (others.foldl (fun s e => crossing s n e r) s) 0xE091 (n + 1) r.len

/-- A request does not reach the die's memory (R12, R392, R460, R462). -/
def outOfReach (s : State) (d : Nat) (r : DramReq) : State :=
  match r.src with
  | .host => (match r.write with
      | some _ => bump s 0xE071 1 1
      | none => readFill (bump s 0xE071 1 1) (List.replicate r.len 0xFF))
  | src =>
    if r.write.isNone && !dieAnswers s d
        && (List.range (cwCount r.dpa r.len)).all (fun i => repairable s (pkgDpa d (cwDpa r.dpa i))) then degradedServe s d r
    else failReq s src (failDieLost d)

/-- A request for a die's DRAM goes to the die and arrives there. -/
def requestDram (s : State) (d : Nat) (r : DramReq) : State :=
  if !reaches s (reqNode r) d (r.dpa / 65536) then outOfReach s d r
  else arriveReq (crossing s (reqNode r) d r) d r

/-- DRAM_REQUEST (R308): a request for a die's DRAM. -/
def execDramRequest (d : Die) (r : DramReq) (s : State) : Host.Outcome State Fault Refusal :=
  .next (if diePages * 65536 < r.dpa + r.len then s else requestDram s d r)

/-- The first held request of a partition. -/
def heldOf (x : DieHw) (p : Nat) : Option HeldReq := x.held.find? fun h => h.part = p

/-- Release a held request. -/
def releaseHeld (s : State) (d : Nat) (h : HeldReq) : State :=
  let s := updDie s d fun x => { x with held := x.held.erase h, turn := (h.part + 1) % 64 }
  let s := bumpIf s (dramIx d + 0x40 + h.part) 5 (s.nowNs - h.at0)
  atMapper (admitReq s d h.part (reqLc s h.req.src) h.req.len) d h.req

/-- Admit held requests round-robin across partitions, in arrival order within one, while their buckets hold 64
tokens, or their mode has become OPEN (R329). -/
def releaseRound : Nat → State → Nat → State
  | 0, s, _ => s
  | n + 1, s, d =>
    let x := getDie s d
    let ready (p : Nat) : Bool := partMode s d p = 0 || 64 ≤ tokensOf s d p
    match ((List.range 64).map fun i => (x.turn + i) % 64).find? fun p => (heldOf x p).isSome && ready p with
    | none => s
    | some p => match heldOf x p with
      | some h => releaseRound n (releaseHeld s d h) d
      | none => s

/-- REGULATOR_TICK (R328, R329): every bucket gains 100 ns of its rate, up to BURST; held requests are admitted; a
CAPPED_BORROW partition's request is admitted in a tick in which no other request waits that could be. -/
def execRegulatorTick (d : Die) (s : State) : Host.Outcome State Fault Refusal :=
  .next <|
    let s := takeParts s d
    let s := updDie s d fun x => { x with buckets := x.buckets.map fun b =>
      (b.1, { tokens := min (partBurst s d b.1) (b.2.tokens + 100 * partRate s d b.1) }) }
    let s := releaseRound (getDie s d).held.length s d
    let x := getDie s d
    match ((List.range 64).map fun i => (x.turn + i) % 64).find? fun p => (heldOf x p).isSome && partMode s d p = 2 with
    | some p => match heldOf x p with
      | some h => releaseHeld s d h
      | none => s
    | none => s

/-! ### Write-back, scrub -/

/-- CE_WRITEBACK (R310): the controller writes a corrected codeword back in an idle cycle. -/
def execCeWriteback (d : Die) (channel : Fin 128) (dpa : Nat) (s : State) : Host.Outcome State Fault Refusal :=
  .next (updDie s d fun x => { x with wbacks := x.wbacks.erase { channel := channel.val, dpa := dpa } })

/-- The scrub may read a channel's next line: a pass starts once per SCRUB_PERIOD_H (R312). -/
def scrubDue (s : State) (d channel : Nat) : Bool :=
  let x := getDie s d
  tgetD x.scrubAt channel 0 ≠ 0 || (match tget x.scrubNs channel with
    | none => true
    | some t => t + setting s (dramIx d + 0x21) 3 * (3600 * 10 ^ 9) ≤ s.nowNs)

/-- PATROL_SCRUB (R312): the next line of a channel is read, with the erroneous bytes of its two codewords; a CE is written
back, a UE is logged, and repaired in a protected page (R461). -/
def execPatrolScrub (d : Die) (channel : Fin 128) (errBytes : Nat × Nat) (s : State) : Host.Outcome State Fault Refusal :=
  .next <|
    let x := getDie s d
    match logicalOf x channel with
    | none => s
    | some l =>
      if !dieUp s d ∨ !scrubDue s d channel then s else
        let line := tgetD x.scrubAt channel 0
        let dpa := lineAt l (line * 256)
        let s := setDie s d { x with
          scrubAt := tset x.scrubAt channel ((line + 1) % 4194304)
          scrubNs := if line = 0 then tset x.scrubNs channel s.nowNs else x.scrubNs }
        (judge (judge s d dpa errBytes.1).1 d (dpa + 128) errBytes.2).1

/-! ### Adders -/

/-- One adder operation on the bytes of a word (R54, R324). A format code that is none of INT32, INT64, BF16 and FP32 acts
as INT32 (DESIGN CHOICE, log 149). -/
def adderValue (fmt : BitVec 4) (op : AdderKind) (old : Nat) (v cmp : Word64) (n : Nat) : Nat :=
  match op with
  | .cswap => if old = cmp.toNat then v.toNat else old
  | _ =>
    match fmtOfCode fmt.toNat with
    | some .fp32 => fp32Bits (fAdd .rne (decodeNum .fp32 old) (decodeNum .fp32 (v.toNat % 2 ^ 32)))
    | some .bf16 => (convertNum .bf16 .rne false 0
        (numAdd (decodeNum .bf16 old) (decodeNum .bf16 (v.toNat % 2 ^ 16)))).code
    | _ => (old + v.toNat) % 2 ^ (8 * n)

/-- Bytes of an adder operation's word (R324; other format codes as INT32, log 149). -/
def adderBytes (fmt : BitVec 4) (op : AdderKind) : Nat :=
  match op with
  | .cswap => 8
  | _ => match fmtOfCode fmt.toNat with
    | some .int64 => 8
    | some .bf16 => 2
    | _ => 4

/-- Apply an adder operation (R54, R311, R325): not to a codeword that holds a UE. A fetch-add and a compare-swap return
what the word held; an add that has landed is passed on to the watches and the page service (R326). -/
def applyAdd (s : State) (d : Nat) (q : AddReq) : State :=
  let n := adderBytes q.fmt q.op
  let a := pkgDpa d q.dpa
  let found := judge s d (q.dpa / 128 * 128) 0
  if !found.2 then failReq found.1 q.src (unserved found.1 d q.dpa)
  else
    let s := found.1
    let old := leNat (memReads s.dram a n)
    let s := dropWbacks { s with dram := memWrites s.dram a (leBytes n (adderValue q.fmt q.op old q.v q.cmp n)) } (· = a / 128)
    match q.op with
    | .cswap => updDie s d fun x => { x with adderRet := some old }
    | .fetchAdd => landAt (updDie s d fun x => { x with adderRet := some old }) a (toSigned 32 (q.v.toNat % 2 ^ 32))
    | .add => landAt s a (toSigned 32 (q.v.toNat % 2 ^ 32))

/-- An operation comes to the adder of its word's channel (R324): one that is not naturally aligned ends its job with SHAPE.
It waits while the channel is swapped (R315 step 4). -/
def requestAdd (s : State) (d : Nat) (q : AddReq) : State :=
  let n := adderBytes q.fmt q.op
  if q.dpa % n ≠ 0 then failReq s q.src (failIllegal 0x04)
  else if diePages * 65536 < q.dpa + n then failReq s q.src failBounds
  else if !dieAnswers s d then failReq s q.src (failDieLost d)
  else if swapTouches s d q.dpa n then updDie s d fun x => { x with swapHeld := x.swapHeld ++ [.add q] }
  else applyAdd s d q

/-- ADDER_OP (R324, R325): an operation is applied, whole, at the adder of the word's channel. -/
def execAdderOp (d : Die) (dpa : Nat) (fmt : BitVec 4) (op : AdderOp) (v cmp : Word64) (s : State) :
    Host.Outcome State Fault Refusal :=
  .next (requestAdd s d { dpa := dpa, fmt := fmt, op := op.kind, v := v, cmp := cmp, src := op.src })

/-! ### Migration of channels -/

/-- MIGRATE_REQUEST (R314): a write of a physical channel number, accepted when the channel is ACTIVE, a spare remains
and the queue has room. -/
def migrateOk (s : State) (d n : Nat) : Bool :=
  n < 128 && chanState (getDie s d) n = .active && sparesLeft s d ≠ 0 && (getDie s d).queue.length < 8

/-- RECAL_EXPIRY (R314): RECAL_INTERVAL_H has passed since the channel was last trained. -/
def execRecalExpiry (d : Die) (channel : Fin 128) (s : State) : Host.Outcome State Fault Refusal :=
  .next <|
    let h := setting s (dramIx d + 0x21) 2
    let last := tgetD (getDie s d).trained channel (getDie s d).trainNs
    if h = 0 ∨ s.nowNs < last + h * (3600 * 10 ^ 9) then s else queueMig s d channel 3 true

/-- The next queued migration: by priority, then arrival (R314). -/
def nextMig (x : DieHw) : Option MigReq :=
  x.queue.foldl (fun (b : Option MigReq) q => match b with
    | none => some q
    | some a => if q.prio < a.prio ∨ (q.prio = a.prio ∧ q.seq < a.seq) then some q else some a) none

/-- A request whose copy a reset abandoned is queued again, once the die is out of reset and there is room (R318). -/
def requeueMig (s : State) (d : Nat) : State :=
  let x := getDie s d
  match x.again with
  | some q => if 8 ≤ x.queue.length then s
      else setDie { s with seq := s.seq + 1 } d { x with again := none, queue := x.queue ++ [{ q with seq := s.seq }] }
  | none => s

/-- MIGRATION_START (R314, R315 step 1): the next request's source is copied to the lowest-numbered spare. With no spare left
an automatic request is recorded and dropped, a written one waits. -/
def execMigrationStart (d : Die) (s : State) : Host.Outcome State Fault Refusal :=
  .next <|
    let x := getDie s d
    if !dieUp s d then s else
      match x.mig, nextMig x with
      | none, some q =>
        let taken := { x with queue := x.queue.erase q }
        if chanState x q.channel ≠ .active then requeueMig (setDie s d taken) d
        else match (List.range 128).find? fun n => chanState x n = .spare with
          | none => if q.prio = 2 then s else requeueMig (noteNoSpare (setDie s d taken) d q.channel) d
          | some t =>
            let s := setDie s d { taken with mig := some { source := q.channel, target := t, prio := q.prio } }
            requeueMig (setChan (setChan s d t .copyTarget) d q.channel .copySource) d
      | _, _ => s

/-- The copy moves on to an offset of the channel (R315 step 2, R317): the lines with a UE that it passes count once each
for the source. The requests of the channel that come meanwhile apply at the source; the target's copy of them is in no
request's sight before the swap. At the end of the channel the swap is due. -/
def copyTo (s : State) (d : Nat) (m : Migration) (new : Nat) : State :=
  let passed (cw : Nat) : Bool :=
    let dpa := cw * 128 % dieSpan
    let off := dpa / 256 / 120 * 256
    dpaDie (cw * 128) = d && dpaChannel s d dpa = m.source && m.copied ≤ off + 255 && off + 255 < new
  let lines := ((s.dramUE.filter passed).map (· / 2)).eraseDups
  let s := lines.foldl (fun s l => countUe s (2 * l)) s
  updDie s d fun x => { x with mig := some { m with copied := new, phase := if 2 ^ 30 ≤ new then 2 else 1 } }

/-- 100 ns of a die's migration: the copy takes the cycles that the source channel leaves idle, all of them where no request
comes (R316): 13,440 bytes at R305's rate. -/
def copyTick (s : State) (d : Nat) : State :=
  match (getDie s d).mig with
  | some m => if m.phase ≠ 1 ∨ !dieUp s d then s else copyTo s d m (min (2 ^ 30) (m.copied + 13440))
  | none => s

/-- What 100 ns do of themselves: the links carry flits, the copies of migrations move on. -/
def passTime (s : State) : State := [0, 1, 2, 3].foldl copyTick (hostTick (linksTick s))

/-- What a swap held goes on (R315 step 4). -/
def releaseSwap (s : State) (d : Nat) : State :=
  let held := (getDie s d).swapHeld
  held.foldl (fun s q => match q with
    | .req r => serve s d r
    | .add a => applyAdd s d a) (updDie s d fun x => { x with swapHeld := [] })

/-- The map entry changes, in the Cocoon's store too (R307, R315 step 4): the target serves the logical channel, with its watches and commit ranges, which
the model keeps by address. -/
def swapMap (s : State) (d : Nat) (m : Migration) : State :=
  let x := getDie s d
  match logicalOf x m.source with
  | none => s
  | some l =>
    let map := tset x.map l m.target
    let s := setDie s d { x with map := map, mig := some { m with phase := 3, copied := 2 ^ 30 } }
    let s := { s with coc := { s.coc with chanMaps := tset s.coc.chanMaps d map } }
    bump (setChan (setChan s d m.target .active) d m.source .retraining) 0xE065 (d + 1) 1

/-- MIGRATION_SWAP (R315 steps 2 to 5): the copy is complete, or is completed now; the map entry changes, what the swap held
is released, the old channel is retrained. -/
def execMigrationSwap (d : Die) (s : State) : Host.Outcome State Fault Refusal :=
  .next <|
    match (getDie s d).mig with
    | none => s
    | some m =>
      if m.phase = 3 ∨ !dieUp s d then s
      else
        let s := if m.phase = 1 then copyTo s d m (2 ^ 30) else s
        releaseSwap (swapMap s d m) d

/-- The die controller measures the trims of its clusters' rails again (R493). -/
def measureTrims (s : State) (d : Nat) : State :=
  (dieClusters d).foldl (fun s k => updCluster s k fun x => { x with trimNo := x.trimNo + 1 }) s

/-- RETRAIN_DONE (R315 step 5): the old channel becomes a spare, or is retired. A retraining is a recalibration, at which
the die measures its clusters' trims again (R493, DEDUCED, log 159). -/
def execRetrainDone (d : Die) (pass : Bool) (s : State) : Host.Outcome State Fault Refusal :=
  .next <|
    let x := getDie s d
    match x.mig with
    | none => s
    | some m =>
      if m.phase ≠ 3 ∨ !dieUp s d then s else
        let s := setDie s d { x with mig := none, trained := tset x.trained m.source s.nowNs }
        setChan (measureTrims s d) d m.source (if pass then .spare else .retired)

/-- A reset that reaches the die abandons a copy under way (R318): the target is a spare again, and the request waits for
the die's release. A retraining starts again after it. -/
def abandonMig (s : State) (d : Nat) : State :=
  let x := getDie s d
  match x.mig with
  | some m =>
    if m.phase = 3 then s else
      let s := setDie s d { x with mig := none, swapHeld := [], again := some { channel := m.source, prio := m.prio, seq := 0 } }
      setChan (setChan s d m.target .spare) d m.source .active
  | none => s

end Sys2Proof.Machine
end

