-- ==== Sys2Proof/Machine/Thermal.lean ====
section
/-! DEFINITION. The control period and its loops: refresh and temperature (R320 to R322), the operating points (R493 to
R495), the junction, power and current loops (R496 to R498). Temperatures are in units of 0.5 °C. -/

namespace Sys2Proof.Machine

/-! ### Operating points (R493 to R495) -/

/-- The limits of a cluster in the order of R495: HOST_CAP, POWER, CURRENT, JUNCTION, DRAM. -/
def pointLimits (x : Cluster) : List Nat := [x.cap9, x.power9, x.current9, x.junction9, x.dram9]

/-- The lowest of the limits. -/
def lowestLimit (x : Cluster) : Nat := (pointLimits x).foldl min 9

/-- CLUSTER_LIMITER (R495): NONE at point 9 and for a cold cluster, else the first of the equal lowest limits. -/
def limiterOf (x : Cluster) (point : Nat) : Nat :=
  if point = 9 ∨ x.power = .cold then 0 else ((pointLimits x).idxOf (lowestLimit x)) + 1

/-- A cluster goes to the lowest of its limits (R494): a lower point at once, a higher one after its rail ramp; a cold
cluster only changes the point at which it will be woken. -/
def applyPoint (s : State) (k : Nat) : State :=
  let s := chargeCluster s k
  updCluster s k fun x =>
    let p := lowestLimit x
    if x.power = .cold ∨ p ≤ x.point then { x with point := p, target := none, limiter := limiterOf x p }
    else { x with target := some p, limiter := limiterOf x p }

/-- POINT_RAMP_DONE (R494): the rail has risen and the clock follows. -/
def execPointRampDone (k : ClusterNo) (s : State) : Host.Outcome State Fault Refusal :=
  .next <|
    match (getCluster s k).target with
    | none => s
    | some p => updCluster (chargeCluster s k) k fun x => { x with point := p, target := none }

/-- HOST_CAP as a point (R503: 600 to 1,050 MHz in steps of 50). -/
def capPoint (s : State) (d : Nat) : Nat := (setting s 0x6004 (d + 1) - 600) / 50

/-! ### Refresh and temperature (R320 to R322) -/

def dramThrottle (s : State) : Int := 2 * (setting s 0x6010 1 : Int)

/-- The reading of the sensor of a layer under a region. -/
def dramSensor (s : State) (d layer region : Nat) : Int := (getDie s d).dramT.getD (16 * layer + region) 0

/-- hot_n: the highest of the eight layer sensors under a cluster region (R320). -/
def hotAt (s : State) (k : Nat) : Int :=
  ((List.range 8).map fun l => dramSensor s (k / 16) l (k % 16)).foldl max (dramSensor s (k / 16) 0 (k % 16))

/-- A layer's sensors in one period: at or above the threshold it goes to the doubled rate; below threshold − 2 °C the
period is cool (R320). -/
def layerPeriod (s : State) (d l : Nat) : State :=
  let t := dramThrottle s
  let r := (List.range 16).map (dramSensor s d l)
  let x := getDie s d
  let cool := if r.all (· < t - 4) then x.cool.getD l 0 + 1 else 0
  let hot := r.any (t ≤ ·)
  let new := hot && !(x.refresh.getD l false)
  let s := setDie s d { x with cool := x.cool.setIfInBounds l cool
                               refresh := if hot then x.refresh.setIfInBounds l true else x.refresh }
  if new then sillage s 0x0025 d noJob (packItems [(8, d), (8, l), (8, 1)]) else s

/-- The period is cool for a cluster's DRAM limit (R321): by its own reading, or where R322 lowered it by the reading
of the cluster that did (DEDUCED, log 33: "judged on hot_n", the hot_n of R322). -/
def coolFor (s : State) (x : Cluster) (k : Nat) : Bool :=
  let t := dramThrottle s
  if x.hotBy = [] then hotAt s k < t - 4 else x.hotBy.all fun q => hotAt s q < t - 4

/-- A cluster's DRAM and JUNCTION limits in one period (R321, R322, R496). -/
def clusterPeriod (s : State) (k : Nat) : State :=
  let d := k / 16
  let t := dramThrottle s
  let hot := hotAt s k
  let junc := (getDie s d).compT.getD (k % 16) 0
  let jt := 2 * (setting s 0x6003 1 : Int)
  let x := getCluster s k
  let s := setCluster s k { x with
    hotD := if t + 3 ≤ hot then x.hotD + 1 else 0
    dram9 := if t ≤ hot then x.dram9 - 1 else x.dram9
    coolD := if t ≤ hot then 0 else if coolFor s x k then x.coolD + 1 else 0
    junction9 := if jt ≤ junc then x.junction9 - 1 else x.junction9
    coolJ := if junc < jt - 4 then x.coolJ + 1 else 0
    cap9 := capPoint s d }
  if t ≤ hot ∧ 0 < x.dram9 then updDie s d fun y => { y with lowered := true } else s

/-- DRAM_LIMIT_RAISE (R321): ten cool periods have ended. -/
def execDramLimitRaise (k : ClusterNo) (s : State) : Host.Outcome State Fault Refusal :=
  .next <|
    let x := getCluster s k
    if x.coolD < 10 then s else
      let p := min 9 (x.dram9 + 1)
      applyPoint (setCluster s k { x with dram9 := p, coolD := x.coolD - 10, hotBy := if p = 9 then [] else x.hotBy }) k

/-- JUNCTION_RAISE (R496). -/
def execJunctionRaise (k : ClusterNo) (s : State) : Host.Outcome State Fault Refusal :=
  .next <|
    let x := getCluster s k
    if x.coolJ < 10 then s else
      applyPoint (setCluster s k { x with junction9 := min 9 (x.junction9 + 1), coolJ := x.coolJ - 10 }) k

/-- The clusters next to a cluster in the same row or column of its die's 4 × 4 grid (01 R16). -/
def neighbours (k : Nat) : List Nat :=
  (dieClusters (k / 16)).filter fun q =>
    (q / 4 = k / 4 && (q + 1 = k || q = k + 1)) || (q + 4 = k || q = k + 4)

/-- A period in which a die's DRAM limit is lowered counts once (R333). -/
def countLowered (s : State) (d : Nat) : State :=
  if (getDie s d).lowered then s
  else bump (updDie s d fun x => { x with lowered := true }) 0xE064 (d + 1) 1

/-- NEIGHBOUR_THROTTLE (R322): once a period, while the condition holds. -/
def execNeighbourThrottle (k : ClusterNo) (s : State) : Host.Outcome State Fault Refusal :=
  .next <|
    let x := getCluster s k
    if x.hotD < 10 ∨ x.dram9 ≠ 0 then s else
      let s := setCluster s k { x with hotD := 9 }
      let s := if (neighbours k.val).any fun q => 0 < (getCluster s q).dram9 then countLowered s (k / 16) else s
      (neighbours k.val).foldl (fun s q => applyPoint (updCluster s q fun y =>
        { y with dram9 := y.dram9 - 1, coolD := 0
                 hotBy := if y.hotBy.contains k.val then y.hotBy else k.val :: y.hotBy }) q) s

/-- REFRESH_RESTORE (R320): a hundred periods below threshold − 2 °C. -/
def execRefreshRestore (d : Die) (layer : Fin 8) (s : State) : Host.Outcome State Fault Refusal :=
  .next <|
    let x := getDie s d
    if !(x.refresh.getD layer.val false) ∨ x.cool.getD layer.val 0 < 100 then s else
      sillage (setDie s d { x with refresh := x.refresh.setIfInBounds layer.val false }) 0x0025 d noJob
        (packItems [(8, d), (8, layer), (8, 0)])

/-! ### The power loop (R497) -/

/-- A cluster comes before another in the ranking for lowering. -/
def lowerBefore (s : State) (a b : Nat) : Bool :=
  let la := clusterHoldsLc s a
  let lb := clusterHoldsLc s b
  if la ≠ lb then !la
  else
    let pa := (getCluster s a).point
    let pb := (getCluster s b).point
    if pa ≠ pb then pb < pa else b < a

def insertRank (s : State) (k : Nat) : List Nat → List Nat
  | [] => [k]
  | a :: t => if lowerBefore s k a then k :: a :: t else a :: insertRank s k t

/-- Clusters ranked for lowering; raising takes the reverse order. -/
def rankLower (s : State) (ks : List Nat) : List Nat := ks.foldl (fun l k => insertRank s k l) []

/-- Clusters of the dies whose release sequence is done. -/
def liveClusters (s : State) : List Nat := (List.range 64).filter fun k => dieUp s (k / 16)

/-- The power-ceiling loop in one period. -/
def powerPeriod (s : State) : State :=
  let p := s.pow.watts
  let lim := setting s 0x6000 1
  if lim < p then
    let s := { s with pow := { s.pow with coolP := 0 } }
    let ks := (rankLower s ((liveClusters s).filter fun k => 0 < (getCluster s k).point)).take (min 64 (ceilDiv (p - lim) 3))
    if ks = [] then
      (match s.pow.sillUs with
        | some t => if uptimeUs s - t < 1000000 then s else
            sillage { s with pow := { s.pow with sillUs := some (uptimeUs s) } } 0x0201 4 noJob (packItems [(8, 2), (16, lim)])
        | none => sillage { s with pow := { s.pow with sillUs := some (uptimeUs s) } } 0x0201 4 noJob
            (packItems [(8, 2), (16, lim)]))
    else bump (ks.foldl (fun s k => updCluster s k fun x => { x with power9 := x.power9 - 1 }) s) 0xE0A0 1 1
  else { s with pow := { s.pow with coolP := if 100 * p < 98 * lim then s.pow.coolP + 1 else 0 } }

/-- POWER_RAISE (R497): ten periods below 98 % of the limit. -/
def execPowerRaise (s : State) : Host.Outcome State Fault Refusal :=
  .next <|
    if s.pow.coolP < 10 then s else
      let n := min 64 ((98 * setting s 0x6000 1 - 100 * s.pow.watts) / 300)
      let ks := ((rankLower s ((liveClusters s).filter fun k => (getCluster s k).power9 < 9)).reverse).take n
      let s := { s with pow := { s.pow with coolP := 0 } }
      ks.foldl (fun s k => applyPoint (updCluster s k fun x => { x with power9 := min 9 (x.power9 + 1) }) k) s

/-! ### The current limit (R498) -/

def dieAmps (s : State) (d : Nat) : Nat := (getDie s d).vinA
def pkgAmps (s : State) : Nat := ((List.range 4).map (dieAmps s)).sum
def dieAmpLimit (s : State) (d : Nat) : Nat := setting s 0x6001 (d + 1)
def pkgAmpLimit (s : State) : Nat := setting s 0x6001 5

/-- Half-rate issue starts on a die (R498). -/
def startHalf (s : State) (d : Nat) : State :=
  if (getDie s d).half then s else bump (updDie s d fun x => { x with half := true }) 0xE0A2 (d + 1) 1

/-- HALF_RATE_START (R498): a current over its limit, of a die or of the package. -/
def execHalfRateStart (d : Option Die) (amps : Nat) (s : State) : Host.Outcome State Fault Refusal :=
  .next <|
    match d with
    | some d => if dieAmpLimit s d < amps then startHalf s d else s
    | none => if pkgAmpLimit s < amps then ([0, 1, 2, 3].filter (dieUp s)).foldl startHalf s else s

/-- The current limit in one period. -/
def currentPeriod (s : State) : State :=
  let pkgOver := pkgAmpLimit s < pkgAmps s
  let s := (List.range 4).foldl (fun s d =>
    let excess := dieAmpLimit s d < dieAmps s d
    let s := if excess ∨ pkgOver then
        (dieClusters d).foldl (fun s k => if clusterHolds s k then
          updCluster s k fun x => { x with current9 := x.current9 - 1 } else s) s
      else s
    let s := if dieAmps s d < dieAmpLimit s d ∧ pkgAmps s < pkgAmpLimit s then updDie s d fun x => { x with half := false }
      else s
    let n := if 100 * dieAmps s d < 98 * dieAmpLimit s d then s.pow.coolC.getD d 0 + 1 else 0
    { s with pow := { s.pow with coolC := s.pow.coolC.setIfInBounds d n } }) s
  let n := if 100 * pkgAmps s < 98 * pkgAmpLimit s then s.pow.coolC.getD 4 0 + 1 else 0
  { s with pow := { s.pow with coolC := s.pow.coolC.setIfInBounds 4 n } }

/-- How many clusters a current loop raises: the room below 98 % of its limit in equivalents of 3 W at the measured
VIN_CORE. -/
def raiseRoom (s : State) (lim amps : Nat) : Nat := min 64 ((98 * lim - 100 * amps) * s.pow.vinMv / 300000)

/-- CURRENT_LIMIT_RAISE (R498): clusters are raised in the reverse order of R497, as far as their die's current and the
package's both leave room (DEDUCED, log 35: one CURRENT limit serves both). -/
def execCurrentLimitRaise (s : State) : Host.Outcome State Fault Refusal :=
  .next <|
    let due := (List.range 4).filter fun d => 10 ≤ s.pow.coolC.getD d 0
    if due = [] ∨ s.pow.coolC.getD 4 0 < 10 then s else
      let room := due.map fun d => (d, raiseRoom s (dieAmpLimit s d) (dieAmps s d))
      let ks := (rankLower s ((liveClusters s).filter fun k => due.contains (k / 16) && (getCluster s k).current9 < 9)).reverse
      let pick := ks.foldl (fun (acc : List Nat) k =>
        if acc.length < raiseRoom s (pkgAmpLimit s) (pkgAmps s)
            ∧ acc.countP (fun q => q / 16 = k / 16) < tgetD room (k / 16) 0 then acc ++ [k] else acc) []
      let cc := due.foldl (fun (c : Vector Nat 5) d => c.setIfInBounds d 0) (s.pow.coolC.setIfInBounds 4 0)
      let s := { s with pow := { s.pow with coolC := cc } }
      pick.foldl (fun s k => applyPoint (updCluster s k fun x => { x with current9 := min 9 (x.current9 + 1) }) k) s

/-! ### The period -/

/-- Sensors at or above their trip on consecutive readings, for the comparators of R507: the count of readings by
sensor number. -/
def tripCounts (old : Tab Nat) (rs : List Int) (trip : Nat) : Tab Nat :=
  rs.zipIdx.foldl (fun t p => if 2 * (trip : Int) ≤ p.1 then tset t p.2 (tgetD old p.2 0 + 1) else t) []

/-- The readings of the period: readings that did not come stay as they were. -/
def takeReadings (s : State) (r : Readings) : State :=
  let s := (List.range 4).foldl (fun s d => updDie s d fun x =>
    { x with compT := if r.compute.length = 68 then (r.compute.drop (17 * d)).take 17 else x.compT
             dramT := if r.dram.length = 512 then (r.dram.drop (128 * d)).take 128 else x.dramT
             vinA := r.dieA.getD d x.vinA
             lowered := false }) s
  let streak (limit : Nat) (v old : Nat) : Nat := if limit < v then old + 1 else 0
  let amps := (List.range 4).map fun d => (getDie s d).vinA
  { s with hub := { s.hub with sensors := if r.hub.length = 2 then r.hub else s.hub.sensors }, pow := { s.pow with
      watts := r.powerW, vinMv := r.vinCoreMv
      overP := if 105 * s.coc.powerCeil < 100 * r.powerW then s.pow.overP + 1 else 0
      overC := Vector.ofFn fun (i : Fin 5) =>
        if i.val < 4 then streak (s.coc.dieCeil.getD i.val 320) (amps.getD i.val 0) s.pow.overC[i]
        else streak s.coc.pkgCeil amps.sum s.pow.overC[i]
      hotJ := if r.compute.length = 68 then tripCounts s.pow.hotJ r.compute s.coc.juncTrip else s.pow.hotJ
      hotM := if r.dram.length = 512 then tripCounts s.pow.hotM r.dram s.coc.dramTrip else s.pow.hotM } }

/-- CONTROL_PERIOD (R320 to R322, R416, R495 to R498): the sensors are read, the loops set every limit, each cluster
goes to the lowest of its limits, and the deadline monitor evaluates each monitored job. ALERT_MASK takes effect (R534). -/
def execControlPeriod (r : Readings) (s : State) : Host.Outcome State Fault Refusal :=
  .next <|
    let s := takeReadings s r
    let up := (List.range 4).filter (dieUp s)
    let s := up.foldl (fun s d =>
      let s := (List.range 8).foldl (fun s l => layerPeriod s d l) s
      let s := (dieClusters d).foldl clusterPeriod s
      let s := if (getDie s d).lowered then bump s 0xE064 (d + 1) 1 else s
      if (dieClusters d).any fun k => (getCluster s k).junction9 < 9 then bump s 0xE0A1 (d + 1) 1 else s) s
    let s := currentPeriod (powerPeriod s)
    let s := (liveClusters s).foldl applyPoint s
    let s := { s with pins := { s.pins with alertMask := setting s 0x2400 2 } }
    s.jobs.foldl (fun s j => deadlineEval s j.1) s

end Sys2Proof.Machine
end

