-- ==== Sys2Proof/Machine/Tiers.lean ====
section
/-! DEFINITION. Address spaces (R336), placing and moving pages (R339 to R344, R409), bias (R391) and late reads
(R355). -/

namespace Sys2Proof.Machine

/-! ### Address spaces -/

/-- ASPACE_CREATE (R336): `asid` is the free number that the part takes; the second copy of the tables lies on the
successor (R463). -/
def execAspaceCreate (id : Nat) (asid : Fin 1024) (s : State) : Host.Outcome State Fault Refusal :=
  .next <|
    match cmdReady s id 0x20 with
    | none => s
    | some c =>
      let d := field c.entry 478 2
      if !inAccord s d then finishCmd s id failBounds 0
      else if 1024 ≤ s.aspaces.length then interimCmd s id
      else if (tget s.aspaces asid).isSome then s
      else
        let a : ASpace := { tableDie := d, copyDie := successor s d, copyFresh := (successor s d).isSome }
        finishCmd { s with aspaces := tset s.aspaces asid a } id okStatus asid

/-- Some running job names the address space. -/
def spaceRuns (s : State) (asid : Nat) : Bool :=
  s.jobs.any fun j => j.2.asid = asid && j.2.state ≠ .waiting && j.2.state ≠ .done

/-- The program cache was filled from an address space (R413). -/
def cacheOf (asid : Nat) : Option (Nat × Nat × Nat × List Byte) → Bool
  | some (a, _, _, _) => a = asid
  | none => false

/-- Every page is unmapped and the address space ends (R336). -/
def endSpace (s : State) (asid : Nat) : State :=
  imagoSettle (dropCaches { s with aspaces := tdel s.aspaces asid } (cacheOf asid))

/-- ASPACE_DESTROY (R336): held while a job that names it runs or a page of it is under a move. -/
def execAspaceDestroy (id : Nat) (s : State) : Host.Outcome State Fault Refusal :=
  .next <|
    match cmdReady s id 0x21 with
    | none => s
    | some c =>
      let asid := field c.entry 470 10
      match tget s.aspaces asid with
      | none => finishCmd s id failBounds 0
      | some a =>
        if spaceRuns s asid ∨ a.pages.any fun p => p.2.moving then
          updCmd (updSpace s asid fun a => { a with destroy := some id }) id fun c => { c with started := true }
        else finishCmd (endSpace s asid) id okStatus 0

/-! ### MAP -/

/-- First page, pages and address space of a MAP, UNMAP or PLACE (R383). -/
def cmdVpn (c : Cmd) : Nat := field c.entry 416 32
def cmdPages (c : Cmd) : Nat := field c.entry 384 32
def cmdAsid (c : Cmd) : Nat := field c.entry 470 10

/-- The range reserved for spills (R409), in pages. -/
def spillLo : Nat := 0xFF0000000000 / 65536
def spillHi : Nat := 0xFF0018000000 / 65536

/-- The pages that a MAP of an imago maps: page, die and frame (R340, R352). -/
def imagoMap (s : State) (c : Cmd) : List (Nat × Nat × Nat) :=
  ((getImago s (field c.entry 454 6)).pages.filter fun p => !p.parity).map fun p => (cmdVpn c + p.va, p.die, p.frame)

/-- The checks of a MAP (R339, R409). -/
def mapCheck (s : State) (c : Cmd) : Option Fail :=
  let e := c.entry
  let kind := field e 468 2
  let floor := field e 465 3
  let n := cmdPages c
  let lo := cmdVpn c
  let im := imagoMap s c
  let hits (v : Nat) : Bool := (getPte s (cmdAsid c) v).isSome || (spillLo ≤ v && v < spillHi)
  if kind = 3 ∨ floor < 2 ∨ 5 < floor ∨ (kind ≠ 1 ∧ n = 0) ∨ (bit e 462 ∧ (!bit e 463 ∨ kind ≠ 0)) then
    some (failIllegal 2)
  else
    match tget s.aspaces (cmdAsid c) with
    | none => some failBounds
    | some a =>
      if kind = 1 then
        (if (getImago s (field e 454 6)).state ≠ .resident ∨ im.any (fun p => hits p.1 || 2 ^ 32 ≤ p.1)
            ∨ !inAccord s (field e 460 2) then some failBounds else none)
      else if 2 ^ 32 < lo + n ∨ a.pages.any (fun p => lo ≤ p.1 && p.1 < lo + n) ∨ (lo < spillHi ∧ spillLo < lo + n)
          ∨ !inAccord s (field e 460 2) then some failBounds
      else none

/-- A run of `n` free frames on a die starts at a frame. -/
def runFree (s : State) (d n frame : Nat) : Bool :=
  frame + n ≤ diePages && !(usedFrames s).any fun f => f.1 ≤ 3 && f.2.1 = d && frame ≤ f.2.2 && f.2.2 < frame + n

/-- Some run of `n` free frames exists on a die. -/
def someRun (s : State) (d n : Nat) : Bool :=
  (0 :: ((usedFrames s).filter fun f => f.1 ≤ 3 && f.2.1 = d).map fun f => f.2.2 + 1).any (runFree s d n)

/-- The entry of a page that a MAP places. -/
def mapPte (s : State) (c : Cmd) (tier die frame : Nat) : Pte :=
  { tier := tier, die := die, writable := bit c.entry 464, pin := bit c.entry 463, kind := field c.entry 468 2
    floor := field c.entry 465 3, frame := frame, home := field c.entry 460 2, used := s.nowNs }

/-- The final completion of a MAP: with CONTIG, the package DPA of its first page (R383). -/
def finishMap (s : State) (id : Nat) (c : Cmd) : State :=
  let first := (getPte s (cmdAsid c) (cmdVpn c)).map fun p => p.die * dieSpan + p.frame * 65536
  finishCmd s id okStatus (if bit c.entry 462 then first.getD 0 else 0)

/-- Place one page of a MAP at a frame (R339, R340). -/
def mapOne (s : State) (id : Nat) (c : Cmd) (v : Nat) (rest : List Nat) (frame : Nat) : State :=
  match placeFor s (field c.entry 460 2) (field c.entry 465 3) 2 (bit c.entry 463) with
  | none => interimCmd s id
  | some (tier, die) =>
    if !frameFits s tier die frame then s else
      let s := setPte { s with free := s.free + 1 } (cmdAsid c) v (mapPte s c tier die frame)
      let s := updCmd s id fun c => { c with need := rest, held := c.held ++ [v] }
      if rest.isEmpty then finishMap s id c else s

/-- Place every page of a CONTIG MAP in one run of frames. -/
def mapRun (s : State) (id : Nat) (c : Cmd) (frame : Nat) : State :=
  let d := field c.entry 460 2
  let n := cmdPages c
  if freePages s d < n ∨ !someRun s d n then interimCmd s id
  else if !runFree s d n frame then s
  else
    let s := (List.range n).foldl (fun s i => setPte s (cmdAsid c) (cmdVpn c + i) (mapPte s c 2 d (frame + i))) s
    finishMap (updCmd s id fun c => { c with need := [] }) id c

/-- MAP (R339, R340): each event places one page of it at `frame`, or all in the run from `frame` with CONTIG. -/
def execMap (id : Nat) (frame : Nat) (s : State) : Host.Outcome State Fault Refusal :=
  .next <|
    match cmdReady s id 0x22 with
    | none => s
    | some c =>
      match (if c.started then none else mapCheck s c) with
      | some f => finishCmd s id f 0
      | none =>
        if field c.entry 468 2 = 1 then
          let slot := field c.entry 454 6
          let s := (imagoMap s c).foldl (fun s (p : Nat × Nat × Nat) => setPte s (cmdAsid c) p.1
            { tier := 2, die := p.2.1, writable := false, pin := true, kind := 1, floor := 2, frame := p.2.2
              home := p.2.1, used := s.nowNs, slot := slot }) s
          finishCmd (updImago s slot fun m => { m with used := s.nowNs }) id okStatus 0
        else if (tget s.aspaces (cmdAsid c)).isNone then finishCmd s id failBounds 0
        else
          let s := if c.started then s else updCmd s id fun x =>
            { x with started := true, need := (List.range (cmdPages c)).map (cmdVpn c + ·) }
          if bit c.entry 462 then mapRun s id c frame
          else match (tget s.cmds id).map (·.need) with
            | some (v :: rest) => mapOne s id c v rest frame
            | _ => s

/-- UNMAP (R339). -/
def execUnmap (id : Nat) (s : State) : Host.Outcome State Fault Refusal :=
  .next <|
    match cmdReady s id 0x23 with
    | none => s
    | some c =>
      let lo := cmdVpn c
      let n := cmdPages c
      if n = 0 then finishCmd s id (failIllegal 2) 0
      else match tget s.aspaces (cmdAsid c) with
        | none => finishCmd s id failBounds 0
        | some a =>
          if 2 ^ 32 < lo + n then finishCmd s id failBounds 0 else
            let vs := (a.pages.filter fun p => lo ≤ p.1 && p.1 < lo + n).map (·.1)
            finishCmd (imagoSettle (vs.foldl (fun s v => unmapPage s (cmdAsid c) v) s)) id okStatus 0

/-! ### Moving pages (R344) -/

/-- A move of a page begins: MOVING is set and its destination taken. -/
def beginMove (s : State) (asid vpn : Nat) (p : Pte) (tier die frame : Nat) : State :=
  setPte { s with free := s.free + 1 } asid vpn { p with moving := true, dest := some (tier, die, frame) }

/-- Copy a page of 64 KiB between memories: listed bytes and undefined ranges alike. -/
def copyPage (s : State) (a b : PAddr) : State :=
  (List.range 65536).foldl (fun s i => physWrite s ⟨b.sp, b.a + i⟩ (physRead s ⟨a.sp, a.a + i⟩)) s

/-- The commands that wait for a page's move: PLACE completes when the last of its pages has moved (R341). -/
def settlePlaces (s : State) (asid vpn : Nat) : State :=
  s.cmds.foldl (fun s (id, c) =>
    if c.op = 0x24 ∧ c.started ∧ cmdAsid c = asid ∧ c.held.contains vpn then
      let held := c.held.filter (· ≠ vpn)
      let s := updCmd s id fun c => { c with held := held }
      if held.isEmpty ∧ c.need.isEmpty then finishCmd s id okStatus 0 else s
    else s) s

/-- A segment after a change of its page's place (R170, R344): once the page is resident it is classed by where that
lies, and it is held no longer once the page's move has ended. -/
def freshSeg (s : State) (core : Nat) (g : Seg) : Seg :=
  if !g.waiting && !g.held then g else
    let put (tier die : Nat) (moving : Bool) : Seg :=
      { g with
        waiting := tier = 5
        held := tier ≠ 5 && moving
        cls := if g.waiting ∧ tier ≠ 5 ∧ (tier = 4 ∨ die ≠ core / 512) then .remote else g.cls }
    match g.vpn, g.kv with
    | some v, _ => match findPte s g.asid (v * 65536) with
      | some p => put p.tier p.die p.moving
      | none => { g with waiting := false, held := false }
    | none, some k => match getPage s k with
      | some p => put p.tier p.place false
      | none => { g with waiting := false, held := false }
    | none, none => g

/-- The waiting and held segments of every task, after a change of pages' places. -/
def freshSegs (s : State) : State :=
  let entry (c : Nat) (e : QEntry) : QEntry := { e with segs := e.segs.map (freshSeg s c) }
  let task (c : Nat) (t : Task) : Task := { t with fq := t.fq.map (entry c), eq := t.eq.map (entry c) }
  { s with cores := tmap (fun c k => { k with be := k.be.map (task c), lc := k.lc.map (task c) }) s.cores }

/-- The node a page lies at: a die, or 4 for the hub, which holds the paths to host memory and to the NAND (R7). -/
def placeNode (tier die : Nat) : Nat := if tier ≤ 3 then die else 4

/-- The accesses of a page's copy (R344 step 2): bytes read and written in partition 0 (R327), data over the links where it
goes from one node to another (R24). -/
def movePaid (s : State) (bytes t0 d0 t1 d1 page : Nat) : State :=
  let s := if t0 ≤ 3 then admitReq s d0 0 false bytes else s
  let s := if t1 ≤ 3 then admitReq s d1 0 false bytes else s
  if placeNode t0 d0 = placeNode t1 d1 then s else send s .data (placeNode t0 d0) (placeNode t1 d1) page (flitsOf bytes)

/-- A page of DRAM holds an uncorrectable codeword that no parity repairs. -/
def pageUe (s : State) (a : PAddr) : Bool := (List.range 512).any fun i => isUe s ⟨a.sp, a.a + 128 * i⟩

/-- PAGE_MOVE_DONE (R344 steps 2 to 5): the copy is complete, the entry is rewritten and the source freed. A page with an
uncorrectable codeword cannot be copied: it stays where it is (R465; DEDUCED, log 41). -/
def execPageMoveDone (asid : Fin 1024) (vpn : Nat) (s : State) : Host.Outcome State Fault Refusal :=
  .next <|
    match getPte s asid vpn with
    | none => s
    | some p =>
      match p.dest with
      | none => s
      | some (tier, die, frame) =>
        let new : Pte := { p with tier := tier, die := die, frame := frame, moving := false, dest := none, lost := false }
        let stay := pageUe s (pteAddr p 0)
        let s := if stay then s
          else movePaid (copyPage s (pteAddr p 0) (pteAddr new 0)) 65536 p.tier p.die tier die vpn
        let s := if p.freeing then delPte s asid vpn
          else setPte s asid vpn (if stay then { p with moving := false, dest := none } else new)
        let s := if stay then s
          else if p.tier < tier then bump s 0xE068 (p.home + 1) 1
          else if tier < p.tier then bump s 0xE069 (p.home + 1) 1 else s
        imagoSettle (settlePlaces (freshSegs s) asid vpn)

/-- The page is in a tier, in tier 2 on its home die. -/
def inTier (p : Pte) (tier : Nat) : Bool := p.tier = tier && (tier ≠ 2 || p.die = p.home)

/-- The pages of a PLACE that have to move: mapped, unpinned, allowed by FLOOR and not yet there; a lost page, pinned or not,
only to tier 2 (R341, R344, R465). -/
def placeNeeds (s : State) (c : Cmd) : List Nat :=
  let tier := field c.entry 467 3
  match tget s.aspaces (cmdAsid c) with
  | none => []
  | some a => (a.pages.filter fun p => cmdVpn c ≤ p.1 && p.1 < cmdVpn c + cmdPages c && (!p.2.pin || p.2.lost) && p.2.kind ≠ 1
      && !p.2.freeing && tier ≤ p.2.floor && (if p.2.lost then tier = 2 else !inTier p.2 tier)).map (·.1)

/-- The place in one named tier for a page (R340, R341). -/
def placeIn (s : State) (p : Pte) (tier : Nat) : Option (Nat × Nat) :=
  if tier = 2 then (if 0 < freePages s p.home ∧ inAccord s p.home then some (2, p.home) else none)
  else if tier = 3 then (lender s p.home).map fun d => (3, d)
  else if tier = 4 then (if (usedFrames s).countP (fun f => f.1 = 4) < (grant s).2 then some (4, 0) else none)
  else some (5, 0)

/-- One page of a PLACE begins its move to `frame`; a lost page is allocated afresh with undefined contents (R465). -/
def placeOne (s : State) (id : Nat) (c : Cmd) (v : Nat) (rest : List Nat) (frame : Nat) : State :=
  match getPte s (cmdAsid c) v with
  | none => updCmd s id fun c => { c with need := rest }
  | some p =>
    if p.moving then s
    else if !p.lost ∧ inTier p (field c.entry 467 3) then updCmd s id fun c => { c with need := rest }
    else if p.lost then
      (match placeFor s (if inAccord s p.home then p.home else (successor s p.home).getD p.home) p.floor 2 p.pin with
       | none => interimCmd s id
       | some (tier, die) =>
        if !frameFits s tier die frame then s else
          let new : Pte := { p with tier := tier, die := die, frame := frame, lost := false }
          let s := setPte s (cmdAsid c) v new
          let s := undefSpace s (pteAddr new 0).sp (pteAddr new 0).a 65536
          updCmd s id fun c => { c with need := rest })
    else
      match placeIn s p (field c.entry 467 3) with
      | none => interimCmd s id
      | some (tier, die) =>
        if !frameFits s tier die frame then s else
          updCmd (beginMove s (cmdAsid c) v p tier die frame) id fun c => { c with need := rest, held := c.held ++ [v] }

/-- PLACE (R341): each event begins the move of one page to `frame`; it completes when the last has moved. -/
def execPlace (id : Nat) (frame : Nat) (s : State) : Host.Outcome State Fault Refusal :=
  .next <|
    match cmdReady s id 0x24 with
    | none => s
    | some c =>
      let tier := field c.entry 467 3
      if !c.started ∧ (tier < 2 ∨ 5 < tier ∨ cmdPages c = 0) then finishCmd s id (failIllegal 2) 0
      else if (tget s.aspaces (cmdAsid c)).isNone ∨ 2 ^ 32 < cmdVpn c + cmdPages c then finishCmd s id failBounds 0
      else
        let s := if c.started then s else updCmd s id fun x => { x with started := true, need := placeNeeds s c }
        let s := match (tget s.cmds id).map (·.need) with
          | some (v :: rest) => placeOne s id c v rest frame
          | _ => s
        match tget s.cmds id with
        | some x => if x.need.isEmpty ∧ x.held.isEmpty then finishCmd s id okStatus 0 else s
        | none => s

/-! ### Demotion and promotion -/

/-- The tier service of a die works (R476, R477). -/
def tierUp (s : State) (d : Nat) : Bool := serviceUp s d && !s.hub.pause

/-- The pages that demotion may take from a die, oldest last access first (R341). -/
def demotable (s : State) (d : Nat) : List (Nat × Nat × Pte) :=
  let lcSpace (asid : Nat) : Bool := s.jobs.any fun j => j.2.lc && j.2.asid = asid && j.2.state = .running
  isort (fun a b => a.2.2.used < b.2.2.used) <|
    s.aspaces.flatMap fun (asid, a) => if lcSpace asid then [] else
      (a.pages.filter fun p => p.2.home = d && p.2.tier = 2 && p.2.die = d && !p.2.pin && p.2.kind ≠ 1 && !p.2.moving
        && !p.2.freeing && !p.2.lost && 2 < p.2.floor).map fun p => (asid, p.1, p.2)

/-- The pages homed on a die that lie with a die which has lent more than its TIER3_LEND_GIB, oldest last access first
(R345). -/
def overLent (s : State) (d : Nat) : List (Nat × Nat × Pte) :=
  isort (fun a b => a.2.2.used < b.2.2.used) <|
    s.aspaces.flatMap fun (asid, a) =>
      (a.pages.filter fun p => p.2.home = d && p.2.tier = 3 && lendCap s p.2.die < lentPages s p.2.die && !p.2.pin
        && !p.2.moving && !p.2.freeing && !p.2.lost && 3 < p.2.floor).map fun p => (asid, p.1, p.2)

/-- A page begins its move to the first tier from `from0` down that has room (R342). -/
def demotePage (s : State) (d from0 frame : Nat) (l : List (Nat × Nat × Pte)) : State :=
  match l with
  | [] => s
  | (asid, vpn, p) :: _ =>
    match placeFor s d p.floor from0 false with
    | none => s
    | some (tier, die) => if frameFits s tier die frame then beginMove s asid vpn p tier die frame else s

/-- DEMOTION (R341, R342, R345): from the moment the free pages of a die fall below the low water until they exceed the high
water, the oldest page begins its move to the first lower tier with room; else a page of the die's that lies in an excess
loan does. -/
def execDemotion (d : Die) (frame : Nat) (s : State) : Host.Outcome State Fault Refusal :=
  .next <|
    let free := freePages s d
    let low := setting s 0x5800 (d.val + 1) * gibPages
    let high := setting s 0x5801 (d.val + 1) * gibPages
    let on := free < low ∨ ((getDie s d).demoting ∧ free ≤ high)
    if !tierUp s d then s else
      let s := updDie s d fun x => { x with demoting := decide on }
      if on then demotePage s d 3 frame (demotable s d) else demotePage s d 4 frame (overLent s d)

/-- A segment waits for a page in the NAND tier (R170). -/
def segWaits (s : State) (asid vpn : Nat) : Bool :=
  s.cores.any fun (_, k) => (coreTasks k).any fun t => (t.fq ++ t.eq).any fun e =>
    e.segs.any fun g => g.waiting && g.asid = asid && g.vpn = some vpn

/-- The page is the most recently accessed of those that could be promoted to its home die (R343). -/
def newest (s : State) (asid vpn : Nat) (p : Pte) : Bool :=
  s.aspaces.all fun (a, x) => x.pages.all fun (v, q) =>
    (a = asid && v = vpn) || q.home ≠ p.home || q.kind = 1 || q.moving || q.freeing || q.lost
      || !(q.tier = 3 || q.tier = 4) || q.used ≤ p.used

/-- A segment waits for a key-value page in the NAND tier (R224). -/
def segWaitsKv (s : State) (key : Nat) : Bool :=
  s.cores.any fun (_, k) => (coreTasks k).any fun t => (t.fq ++ t.eq).any fun e =>
    e.segs.any fun g => g.waiting && g.kv = some key

/-- The home die of a key-value page: that of a group whose futures reach it. -/
def kvHome (s : State) (key : Nat) : Option Nat :=
  (s.groups.find? fun g => g.2.futures.any fun f => (futurePages s f.2).contains key).map (·.2.home)

/-- A key-value page in the NAND tier that a segment needs is made resident where R340 places it (R170, R224, R343), packed
into a tier page (R342). Its copy is one step (log 155). -/
def promoteKv (s : State) (key : Nat) : State :=
  match getPage s key, kvHome s key with
  | some p, some home =>
    if p.tier ≠ 5 ∨ s.flash.spillBad.contains p.frame ∨ !segWaitsKv s key ∨ !tierUp s home then s else
      match placeFor s home 4 2 false with
      | none => s
      | some (tier, die) => match packSlot s tier die p.slotBytes with
        | none => s
        | some frame =>
          let s := { s with kvPages := tset s.kvPages key { p with tier := tier, place := die, frame := frame }, free := s.free + 1 }
          freshSegs (movePaid s p.slotBytes 5 0 tier die key)
  | _, _ => s

/-- A page of tier 3 or 4 goes home while its home die has room above the high water, newest first;
a page of tier 5 goes where R340 places it, when a segment needs it (R343). -/
def promotePage (s : State) (asid vpn frame : Nat) : State :=
    match getPte s asid vpn with
    | none => s
    | some p =>
      if p.moving ∨ p.freeing ∨ p.lost ∨ p.kind = 1 ∨ !tierUp s p.home then s
      else if p.tier = 5 then
        (if !segWaits s asid vpn ∨ s.flash.spillBad.contains p.frame then s else
          match placeFor s p.home (min 4 p.floor) 2 p.pin with
          | none => s
          | some (tier, die) => if frameFits s tier die frame then beginMove s asid vpn p tier die frame else s)
      else if p.tier = 2 ∨ !newest s asid vpn p ∨ freePages s p.home ≤ setting s 0x5801 (p.home + 1) * gibPages then s
      else if frameFits s 2 p.home frame then beginMove s asid vpn p 2 p.home frame else s

/-- PROMOTION (R343, R170, R224): of the page `vpn` of an address space to `frame`, or, with no address space, of the
key-value page with the key `vpn`. -/
def execPromotion (asid : Option (Fin 1024)) (vpn frame : Nat) (s : State) : Host.Outcome State Fault Refusal :=
  .next <|
    match asid with
    | some a => promotePage s a vpn frame
    | none => promoteKv s vpn

/-! ### Bias, late reads, NOP -/

/-- A block range without some blocks. -/
def cutBias (l : List (Nat × Nat)) (lo n : Nat) : List (Nat × Nat) := l.flatMap fun r => cutRange r (lo, n)

/-- BIAS (R391): the blocks switch. Blocks beyond the package's 512 GiB give FAIL_BOUNDS. -/
def execBias (id : Nat) (s : State) : Host.Outcome State Fault Refusal :=
  .next <|
    match cmdReady s id 0x25 with
    | none => s
    | some c =>
      let lo := field c.entry 459 21
      let n := field c.entry 438 21
      if n = 0 then finishCmd s id (failIllegal 2) 0
      else if 2 ^ 21 < lo + n then finishCmd s id failBounds 0
      else
        let rest := cutBias s.hub.hostBias lo n
        finishCmd { s with hub := { s.hub with hostBias := if bit c.entry 437 then (lo, n) :: rest else rest } } id okStatus 0

/-- A job has a read that waits for a page; with `since`, for TIER_LATE_US. -/
def readWaits (s : State) (jn : Nat) (since : Bool) : Bool :=
  s.cores.any fun k => (coreTasks k.2).any fun t => t.job = jn && (t.fq ++ t.eq).any fun e => e.segs.any fun g =>
    g.waiting && (!since || g.born + 1000 * setting s 0x5820 1 ≤ s.nowNs)

/-- The imago of a job is still loading; with `late`, its remaining bytes at 9.0 GB/s take longer than TIER_LATE_US. -/
def loadingFor (s : State) (j : Job) (late : Bool) : Bool :=
  match j.imago with
  | none => false
  | some n =>
    let m := getImago s n
    m.state = .loading && (!late ||
      1000 * setting s 0x5820 1 < (((m.image.map (·.total)).getD 0) - 9 * (s.nowNs - m.startNs)) / 9)

/-- A page read of a job is late (R355): the tier service's estimate for a page that is no imago's is its own. -/
def isLate (s : State) (jn : Nat) (j : Job) (why : LateWhy) : Bool :=
  match why with
  | .timeout => readWaits s jn true || loadingFor s j true
  | .failed => readWaits s jn false || loadingFor s j false
  | .estimate => readWaits s jn false || loadingFor s j true

/-- LATE_READ (R355): a page read of a job is late, or failed in every copy. It is reported to the deadline monitor of an
LC job; a failed read ends a best-effort job, and an LC job that has no cheaper path (R417). -/
def execLateRead (jn : Nat) (why : LateWhy) (s : State) : Host.Outcome State Fault Refusal :=
  .next <|
    match tget s.jobs jn with
    | none => s
    | some j =>
      let failed := why = .failed
      if j.state ≠ .running ∨ j.failed.isSome ∨ !isLate s jn j why then s
      else if !j.lc then (if failed then failJobService s jn failMemUe else s)
      else
        let s := bump s 0xE06A (jobHome s j + 1) 1
        if j.fbEntry ≠ 0 ∧ !j.switched then updJob s jn fun j => { j with late := true }
        else if failed then failJobService s jn failMemUe else s

/-- NOP (R379): it does nothing but complete. -/
def execNop (id : Nat) (s : State) : Host.Outcome State Fault Refusal :=
  .next <|
    match cmdReady s id 0x00 with
    | none => s
    | some _ => finishCmd s id okStatus 0

end Sys2Proof.Machine
end

