-- ==== Sys2Proof/Machine/Flash.lean ====
section
/-! DEFINITION. The flash translation layer (R348 to R350), the model library (R351, R354) and the imago cache (R352,
R353). -/

namespace Sys2Proof.Machine

/-! ### Measurement (R522) -/

/-- Eight bytes of an event label. -/
def label8 (t : String) : List Byte := ((t.toList.map fun (c : Char) => BitVec.ofNat 8 c.toNat) ++ List.replicate 8 32).take 8

/-- MR := SHAKE256(MR ‖ D ‖ T). -/
def extendMr (s : State) (i : Nat) (digest : List Byte) (t : String) : State :=
  { s with coc := { s.coc with mr := s.coc.mr.setIfInBounds i (shake256 (s.coc.mr.getD i [] ++ digest ++ label8 t) 32) } }

/-! ### Images (R351) -/

/-- A number in an image's bytes. -/
def imgNat (bs : List Byte) (o n : Nat) : Nat := leNat ((bs.drop o).take n)

def segOf (e : List Byte) : ImageSeg :=
  { offset := imgNat e 0 8, len := imgNat e 8 8, va := imgNat e 16 8, kind := imgNat e 24 1, die := imgNat e 25 1
    layer := imgNat e 26 2, expert := imgNat e 28 2 }

/-- The header is one of R351, and every segment lies in the image, on a 64 KiB boundary and a die. -/
def imageOk (bs : List Byte) : Bool :=
  let n := imgNat bs 6 2
  let total := imgNat bs 8 8
  bs.take 4 = [0x4A, 0x59, 0x49, 0x4D] && imgNat bs 4 2 = 1 && 1 ≤ n && n ≤ 4096 && 0x80 + 32 * n ≤ total
    && imgNat bs 0x50 1 ≤ 1 && imgNat bs 0x51 47 = 0
    && (List.range n).all fun i =>
      let g := segOf ((bs.drop (0x80 + 32 * i)).take 32)
      g.offset % 65536 = 0 && g.va % 65536 = 0 && g.offset + g.len ≤ total && g.kind ≤ 2 && g.die ≤ 3
        && imgNat bs (0x80 + 32 * i + 30) 2 = 0

/-- A library entry from the bytes of an image. -/
def imageOf (bs : List Byte) : Image :=
  let n := imgNat bs 6 2
  { digest := (bs.drop 0x10).take 32, fallback := (bs.drop 0x30).take 32, parity := imgNat bs 0x50 1 = 1
    total := imgNat bs 8 8, segs := (List.range n).map fun i => segOf ((bs.drop (0x80 + 32 * i)).take 32)
    data := bs, dataB := bs }

/-- The digest of an image: over its bytes with the DIGEST field zeroed. -/
def imageDigest (bs : List Byte) : List Byte := shake256 (bs.take 0x10 ++ zeroDigest ++ bs.drop 0x30) 32

/-- The bytes as read for a load: even tier pages from half A, odd ones from half B (R352). -/
def imageRead (m : Image) (o n : Nat) : List Byte :=
  if o / 65536 % 2 = 0 then (m.data.drop o).take n else (m.dataB.drop o).take n

/-! ### LIBRARY_STORE (R354) -/

/-- Bytes that the library holds in each half, but for the entry that a store replaces. -/
def libraryUsed (s : State) (digest : List Byte) : Nat :=
  ((s.flash.library.filter fun m => m.digest ≠ digest).map (·.total)).sum

/-- The image of a LIBRARY_STORE, read from job memory. A header that R351 does not allow is a broken record, reason
DESCRIPTOR (DEDUCED). -/
def storeImage (s : State) (asid va : Nat) : Res Image := do
  if !mapped s asid va 128 then throw failBounds
  let head ← jobReads s asid va 128
  let total := imgNat head 8 8
  need (128 ≤ total && total ≤ 2 ^ 48) 6
  if !mapped s asid va total then throw failBounds
  let bs ← jobReads s asid va total
  need (imageOk bs) 6
  return imageOf bs

/-- LIBRARY_STORE (R354): the image goes into both copies as a new entry; while the library area has no room the command
stays pending. -/
def execLibraryStore (id : Nat) (s : State) : Host.Outcome State Fault Refusal :=
  .next <|
    match cmdReady s id 0x32 with
    | none => s
    | some c =>
      if !s.flash.up ∨ s.hub.pause then s else
        match storeImage s (field c.entry 470 10) (field c.entry 438 32 * 65536) with
        | .error f => finishCmd s id f 0
        | .ok m =>
          if s.flash.area < libraryUsed s m.digest + m.total then interimCmd s id
          else
            let lib := m :: s.flash.library.filter fun x => x.digest ≠ m.digest
            finishCmd { s with flash := { s.flash with library := lib } } id okStatus 0

/-! ### IMAGO_LOAD (R352, R353) -/

def findImage (s : State) (digest : List Byte) : Option Image := s.flash.library.find? fun m => m.digest = digest

/-- The data pages of an image: VA page, die, offset in the image. -/
def imagePages (m : Image) : List (Nat × Nat × Nat) :=
  m.segs.flatMap fun g => (List.range (ceilDiv g.len 65536)).map fun j => (g.va / 65536 + j, g.die, g.offset + 65536 * j)

/-- The stripes of a layout over `n` dies that holds `counts` data pages on each (R459): the least number with which
every data page lies in one. -/
def stripeCount (n : Nat) (counts : List Nat) : Nat :=
  ((List.range n).map fun i => match counts.getD i 0 with
    | 0 => 0
    | k + 1 => stripeOf i n k + 1).foldl max 0

/-- The pages that a layout over some dies needs, without frames: data, then parity pages by stripe (R459). -/
def layoutPages (data : List (Nat × Nat)) (dies : List Nat) (parity : Bool) : List (Nat × Nat × Bool) :=
  let counts := dies.map fun d => data.countP fun p => p.2 = d
  (data.map fun p => (p.1, p.2, false))
    ++ (if parity then (List.range (stripeCount dies.length counts)).map fun st => (st, dies.getD (st % dies.length) 0, true)
        else [])

/-- Frames for pages: on each die the first free ones from `from0` upward (R340 for pinned pages; the part's own
choice). -/
def takeFrames (s : State) (from0 : Nat) : List (Nat × Nat × Bool) → List ImagoPage → Option (List ImagoPage)
  | [], got => some got
  | (va, d, par) :: t, got =>
    let used (f : Nat) : Bool := frameUsed s (2, d, f) || got.any fun p => p.die = d && p.frame = f
    match ((List.range (got.length + (usedFrames s).length + 1)).map (from0 + ·)).find? fun f => f < diePages && !used f with
    | none => none
    | some f => takeFrames s from0 t (got ++ [{ va := va, die := d, frame := f, parity := par }])

/-- Every die has room for its pages. -/
def roomFor (s : State) (ps : List (Nat × Nat × Bool)) : Bool :=
  [0, 1, 2, 3].all fun d => ps.countP (fun p => p.2.1 = d) ≤ freePages s d || !ps.any fun p => p.2.1 = d

/-- The slot that a load frees next: RESIDENT, unreferenced, not IMAGO_PINNED, least recently referenced (R353). -/
def freeable (s : State) : Option Nat :=
  ((s.imagos.filter fun p => p.2.state = .resident && imagoRefs s p.1 = 0 && setting s (0x8100 + p.1) 4 = 0).foldl
    (fun (b : Option (Nat × Imago)) p => match b with
      | none => some p
      | some a => if p.2.used < a.2.used then some p else some a) none).map (·.1)

def noSlot (s : State) : Bool := 64 ≤ s.imagos.length

/-- Free slots until a load has a slot and its pages have room, or none is left to free (R353). -/
def makeRoom : Nat → State → List (Nat × Nat × Bool) → State
  | 0, s, _ => s
  | n + 1, s, ps =>
    if !noSlot s && roomFor s ps then s else
      match freeable s with
      | some k => makeRoom n (freeImago s k) ps
      | none => s

/-- The image whose turn it is in a load: the deepest fall-back that is not resident comes first (R352 step 1). -/
def firstToLoad (s : State) : Nat → Image → Option Image
  | 0, m => some m
  | n + 1, m =>
    if m.fallback = zeroDigest ∨ (findImago s m.fallback fun st => st = .resident).isSome then some m else
      match findImage s m.fallback with
      | none => none
      | some f => firstToLoad s n f

/-- The dies that an image's segments name all serve (R471). -/
def segsServe (s : State) (m : Image) : Bool := m.segs.all fun g => serving s g.die

/-- A load of an image begins in a free slot: LOADING, with its pages pinned (R352 step 2). -/
def beginLoad (s : State) (m : Image) (slot frame id : Nat) : State :=
  let ps := layoutPages ((imagePages m).map fun p => (p.1, p.2.1)) [0, 1, 2, 3] m.parity
  let s' := makeRoom 64 s ps
  if noSlot s' ∨ !roomFor s' ps then interimCmd s id
  else if (getImago s' slot).state ≠ .empty then s
  else
    match takeFrames s' frame ps [] with
    | none => s
    | some got =>
      let im : Imago := { state := .loading, image := some m, pages := got, cmds := [id], used := s.nowNs
                          startNs := s.nowNs, mode := if m.parity then 1 else 0 }
      updCmd { s' with imagos := tset s'.imagos slot im } id fun c => { c with started := true }

/-- IMAGO_LOAD (R352): the entry named by DIGEST, its fall-back first, into `slot` with frames from `frame` up. A digest
that the library does not hold is a resource outside what exists (DEDUCED). -/
def execImagoLoad (id : Nat) (slot : Fin 64) (frame : Nat) (s : State) : Host.Outcome State Fault Refusal :=
  .next <|
    match cmdReady s id 0x30 with
    | none => s
    | some c =>
      let digest := leBytes 32 (field c.entry 224 256)
      if !s.flash.up ∨ s.hub.pause then s else
        match findImago s digest fun st => st = .resident with
        | some n => finishCmd (updImago s n fun m => { m with used := s.nowNs }) id okStatus n
        | none =>
          match findImago s digest fun st => st = .loading with
          | some n => updCmd (updImago s n fun m => { m with cmds := if m.cmds.contains id then m.cmds else m.cmds ++ [id] })
              id fun c => { c with started := true }
          | none =>
            match (findImage s digest).bind fun m => firstToLoad s s.flash.library.length m with
            | none => finishCmd s id failBounds 0
            | some m =>
              if !segsServe s m then finishCmd s id failBounds 0
              else match findImago s m.digest fun st => st = .loading with
                | some n => updCmd (updImago s n fun x => { x with cmds := if x.cmds.contains id then x.cmds else x.cmds ++ [id] })
                    id fun c => { c with started := true }
                | none => beginLoad s m slot frame id

/-- Write an imago's data pages. -/
def landPages (s : State) (m : Image) (ps : List ImagoPage) : State :=
  (imagePages m).foldl (fun s p =>
    match ps.find? fun q => !q.parity && q.va = p.1 && q.die = p.2.1 with
    | some q => { s with dram := memWrites s.dram (q.die * dieSpan + q.frame * 65536) (imageRead m p.2.2 65536) }
    | none => s) s

/-- A byte of a unit of a stripe, 0 where the unit is not stored. -/
def unitByte (s : State) (u : Option ImagoPage) (i : Nat) : Byte := match u with
  | some p => memRead s.dram (p.die * dieSpan + p.frame * 65536 + i)
  | none => 0

/-- Form the parity page of a stripe: the XOR of its data units (R459). -/
def formParity (s : State) (m : Imago) (p : ImagoPage) : State :=
  let others := m.dies.filter (· ≠ p.die)
  let bs := (List.range 65536).map fun i => others.foldl (fun b d => b ^^^ unitByte s (stripeUnit m p.va d) i) 0
  { s with dram := memWrites s.dram (p.die * dieSpan + p.frame * 65536) bs }

/-- Commands that wait for a load complete: all with a failure; with success, those that named this image. -/
def endLoad (s : State) (m : Imago) (slot : Nat) (f : Fail) : State :=
  m.cmds.foldl (fun s id =>
    let named := ((tget s.cmds id).map fun c => leBytes 32 (field c.entry 224 256)) = m.image.map (·.digest)
    if f = okStatus then (if named then finishCmd s id f slot else s) else finishCmd s id f 0) s

/-- The writes of a load pass the regulators of the dies in partition 0 (R327). -/
def payLoad (s : State) (m : Imago) : State :=
  [0, 1, 2, 3].foldl (fun s d =>
    let n := m.pages.countP fun p => p.die = d
    if n = 0 then s else admitReq s d 0 false (n * 65536)) s

/-- IMAGO_LOAD_DONE (R352 steps 4 and 5): the last page has landed; the digest decides. -/
def execImagoLoadDone (slot : Fin 64) (s : State) : Host.Outcome State Fault Refusal :=
  .next <|
    let m := getImago s slot
    match m.image with
    | none => s
    | some img =>
      if m.state ≠ .loading ∨ s.hub.pause then s
      else match m.bad with
      | some v => endLoad (freeImago s slot) m slot (v % 256, v / 256)
      | none =>
        let bs := (List.range (ceilDiv img.total 65536)).flatMap fun i => imageRead img (65536 * i) 65536
        if imageDigest bs ≠ img.digest then endLoad (freeImago s slot) m slot (0x26, 0)
        else
          let s := landPages s img m.pages
          let s := (m.pages.filter (·.parity)).foldl (fun s p => formParity s m p) s
          let s := payLoad s m
          let s := updImago s slot fun m => { m with state := .resident, cmds := [], used := s.nowNs }
          let s := extendMr (bump s 0xE06E 1 1) 7 img.digest "IMAGO"
          endLoad s m slot okStatus

/-- IMAGO_RETIRE (R353). An empty slot is no imago: FAIL_BOUNDS; a slot that loads is retired when its load has ended
(DEDUCED). -/
def execImagoRetire (id : Nat) (s : State) : Host.Outcome State Fault Refusal :=
  .next <|
    match cmdReady s id 0x31 with
    | none => s
    | some c =>
      let n := field c.entry 474 6
      match (getImago s n).state with
      | .empty => finishCmd s id failBounds 0
      | .loading => s
      | _ => finishCmd (imagoSettle (updImago s n fun m => { m with state := .retiring })) id okStatus 0

/-! ### Reads and maintenance of NAND (R349, R350) -/

def nandKey (channel block : Nat) : Nat := channel * 2 ^ 24 + block

def getBlock (s : State) (k : Nat) : NandBlock := tgetD s.flash.blocks k {}
def setBlock (s : State) (k : Nat) (b : NandBlock) : State :=
  { s with flash := { s.flash with blocks := tset s.flash.blocks k b } }

/-- Where the pages of a block are now. -/
def followBlock (s : State) : Nat → Nat → Nat
  | 0, k => k
  | n + 1, k => match (getBlock s k).movedTo with
    | some q => followBlock s n q
    | none => k

/-- A read of a tier page counts in one block of each channel of its half (R348, R350). -/
def countRead (s : State) (page half : Nat) : State :=
  [0, 1, 2, 3].foldl (fun s i =>
    let ch := 4 * half + i
    let k := followBlock s s.flash.blocks.length (nandKey ch (Config.flashBlock page ch % 2 ^ 24))
    setBlock s k { getBlock s k with reads := (getBlock s k).reads + 1 }) s

/-- A page of the NAND tier could not be read: jobs with a segment waiting for it (R355). -/
def spillFails (s : State) (handle : Nat) : State :=
  let at5 (p : Nat × Pte) : Bool := p.2.tier = 5 && p.2.frame = handle
  let pages := s.aspaces.flatMap fun a => (a.2.pages.filter at5).map fun p => (a.1, p.1)
  let kvs := (s.kvPages.filter fun p => p.2.tier = 5 && p.2.frame = handle).map (·.1)
  let waiting (j : Nat) : Bool := s.cores.any fun k => (coreTasks k.2).any fun t => t.job = j &&
    (t.fq ++ t.eq).any fun e => e.segs.any fun g => g.waiting && ((pages.any fun p => g.asid = p.1 && g.vpn = some p.2) ||
      kvs.any fun k => g.kv = some k)
  let s := { s with flash := { s.flash with spillBad := handle :: s.flash.spillBad } }
  s.jobs.foldl (fun s j => if !waiting j.1 then s
    else if j.2.lc ∧ j.2.fbEntry ≠ 0 ∧ !j.2.switched then
      updJob (bump s 0xE06A (jobHome s j.2 + 1) 1) j.1 fun x => { x with late := true }
    else failJobService (if j.2.lc then bump s 0xE06A (jobHome s j.2 + 1) 1 else s) j.1 failMemUe) s

/-- NAND_READ_DONE (R349): a read of a library page (imago slot × 2²⁰ + tier page of the image) or of a spill page
(handle); `fails` copies failed after read-retry. A library read is served from the other copy and the failed one
repaired; failure in both fails the load; a spill page has one copy. -/
def execNandReadDone (library : Bool) (page : Nat) (fails : Fin 3) (s : State) : Host.Outcome State Fault Refusal :=
  .next <|
    if !s.flash.up ∨ s.hub.pause then s
    else if library then
      let slot := page / 2 ^ 20
      let half := page % 2
      let m := getImago s slot
      if m.state ≠ .loading then s
      else
        let s := countRead s page half
        if fails.val = 0 then s
        else if fails.val = 1 then bump (countRead s page (1 - half)) 0xE06C 1 1
        else updImago (countRead s page (1 - half)) slot fun m => { m with bad := some 0x20 }
    else
      let s := countRead s page (page % 2)
      if fails.val = 0 then s else spillFails s page

/-- A block's valid pages move to a fresh block; the old block is erased and joins the free pool. -/
def rewriteBlock (s : State) (k q : Nat) : State :=
  let b := getBlock s k
  let s := setBlock s k { b with movedTo := some q, reads := 0, erases := b.erases + 1 }
  setBlock s q { getBlock s q with movedTo := none, reads := 0 }

/-- BAD_BLOCK_RETIRE (R350): a program or an erase of a block failed; the block is retired and its valid pages are
rewritten elsewhere, where the part chooses. -/
def execBadBlockRetire (channel : Fin 8) (block : Nat) (s : State) : Host.Outcome State Fault Refusal :=
  .next <|
    let k := nandKey channel block
    if 2 ^ 24 ≤ block ∨ (getBlock s k).bad then s else
      let fresh := nandKey channel (Config.freeNat s.free % 2 ^ 24)
      let s := { s with free := s.free + 1 }
      setBlock s k { getBlock s k with bad := true, movedTo := some fresh, reads := 0 }

/-- The most-erased block's count. -/
def mostErased (s : State) : Nat := (s.flash.blocks.map (·.2.erases)).foldl max 0

/-- A block that a rewrite may take: of the channel, other than the source, not retired. -/
def freshOk (s : State) (channel block fresh : Nat) : Bool :=
  fresh < 2 ^ 24 && block < 2 ^ 24 && fresh ≠ block && !(getBlock s (nandKey channel fresh)).bad
    && !(getBlock s (nandKey channel block)).bad

/-- WEAR_LEVEL_MOVE (R350): a block lags the most-erased one by more than WEAR_SPREAD. -/
def execWearLevelMove (channel : Fin 8) (block fresh : Nat) (s : State) : Host.Outcome State Fault Refusal :=
  .next <|
    if !freshOk s channel block fresh
        ∨ mostErased s ≤ (getBlock s (nandKey channel block)).erases + setting s 0x5840 2 then s
    else rewriteBlock s (nandKey channel block) (nandKey channel fresh)

/-- READ_DISTURB_REFRESH (R350): a block has reached READ_DISTURB_LIMIT reads since its last erase. -/
def execReadDisturbRefresh (channel : Fin 8) (block fresh : Nat) (s : State) : Host.Outcome State Fault Refusal :=
  .next <|
    if !freshOk s channel block fresh ∨ (getBlock s (nandKey channel block)).reads < setting s 0x5840 1 then s
    else bump (rewriteBlock s (nandKey channel block) (nandKey channel fresh)) 0xE06D 1 1

end Sys2Proof.Machine
end

