-- ==== Sys2Proof/Machine/Rings.lean ====
section
/-! DEFINITION. The host link (R360), rings and doorbells (R366 to R372, R380), posting and interrupts (R373 to R377),
events (R384), quenches (R385 to R387, R535), the mailbox's GO (R389) and device memory (R390 to R392). -/

namespace Sys2Proof.Machine

/-! ### The link -/

/-- BAR0 answers: the link is up and the hub out of reset. -/
def barUp (s : State) : Bool := s.hub.linkUp && !s.hub.inReset && !s.pins.perst && !s.por

/-- The hub fetches and posts: full CXL mode, its own firmware, no update pause (R360, R477, R524). -/
def ringsUp (s : State) : Bool := barUp s && s.hub.cxlMode && !s.hub.recovery && !s.hub.pause

/-- CXL_LINK_TRAIN (R360, R489 step 4): below 32 GT/s or narrower than x4 the A4 runs CXL.io only. -/
def execCxlLinkTrain (rate : Fin 3) (width : Nat) (s : State) : Host.Outcome State Fault Refusal :=
  .next <|
    if s.por ∨ s.pins.perst ∨ s.hub.inReset ∨ s.hub.instar < 2 ∨ s.coc.trip then s
    else { s with hub := { s.hub with linkUp := true, linkRate := rate, linkWidth := width
                                      cxlMode := decide (rate.val = 2 ∧ 4 ≤ width) }
                  pins := { s.pins with tx := .active } }

/-! ### Ring contexts -/

def log2Of (v : Nat) : Nat := max 4 (min 16 v)
def sqSize (x : Ring) : Nat := 2 ^ x.sqLog2
def cqSize (x : Ring) : Nat := 2 ^ x.cqLog2

/-- ENABLE := 1 (R367); refused in the CXL.io-only mode (R360). -/
def enableRing (s : State) (r : Nat) : State :=
  let x := getRing s r
  match x.state with
  | .disabled => if s.hub.cxlMode ∧ !s.hub.recovery then setRing s r (freshEnable x) else s
  | .drydown => setRing s r { x with state := .pendingEnable, enable := true }
  | _ => s

/-- ENABLE := 0 (R367). -/
def disableRing (s : State) (r : Nat) : State :=
  let x := getRing s r
  match x.state with
  | .enabled | .error | .pendingEnable => drydownEnd (setRing s r { x with state := .drydown, enable := false }) r
  | _ => s

/-- The fields of a context that may be written only while the ring is DISABLED (R366). -/
def writeFixed (r : Nat) (x : Ring) (ctx : BitVec 512) : Ring :=
  if x.state ≠ .disabled then x else
    { x with sqBase := field ctx 472 40, cqBase := field ctx 432 40, sqLog2 := log2Of (field ctx 427 5)
             cqLog2 := log2Of (field ctx 422 5), priv := r = 0 || bit ctx 400, lcAllowed := bit ctx 399 }

/-- RING_CONTEXT_WRITE (R366): the writable fields, then ENABLE. -/
def execRingContextWrite (r : RingNo) (ctx : BitVec 512) (s : State) : Host.Outcome State Fault Refusal :=
  .next <|
    if !barUp s then s else
      let x := writeFixed r (getRing s r) ctx
      let s := setRing s r { x with vector := field ctx 411 11, holdoff := min 1000 (field ctx 401 10) }
      if bit ctx 398 then enableRing s r else disableRing s r

/-- RING_ENABLE (R367). -/
def execRingEnable (r : RingNo) (s : State) : Host.Outcome State Fault Refusal :=
  .next (if barUp s then enableRing s r else s)

/-- RING_DISABLE (R367). -/
def execRingDisable (r : RingNo) (s : State) : Host.Outcome State Fault Refusal :=
  .next (if barUp s then disableRing s r else s)

/-! ### Doorbells (R369 to R371) -/

/-- A doorbell write that the ring's state does not admit (R371). -/
def discardBell (s : State) : State := bump s 0xE075 1 1

/-- The doorbell of entries `n` from a slot on has arrived. -/
def ringBells (x : Ring) (now : Nat) : Nat → Nat → Tab Nat
  | 0, _ => x.bells
  | n + 1, slot => tset (ringBells x now n slot) ((slot + n) % sqSize x) now

/-- A doorbell is forwarded to the ring's home die in a CTRL flit, over the relay while its hub link is DOWN (R24, R32). -/
def forwardBell (s : State) (r : Nat) : State := send s .ctrl 4 (ringHome s r) 0 1

/-- SQ_TAIL (R369, R371). -/
def execSqTail (r : RingNo) (t : BitVec 16) (s : State) : Host.Outcome State Fault Refusal :=
  .next <|
    if !barUp s then s else
      let x := getRing s r
      if x.state ≠ .enabled then discardBell s
      else if sqSize x ≤ t.toNat then ringError s r 1
      else
        let n := (t.toNat + sqSize x - x.tail) % sqSize x
        setRing (forwardBell s r) r { x with tail := t.toNat, bells := ringBells x s.nowNs n x.tail }

/-- CQ_HEAD (R371). -/
def execCqHead (r : RingNo) (h : BitVec 16) (s : State) : Host.Outcome State Fault Refusal :=
  .next <|
    if !barUp s then s else
      let x := getRing s r
      let size := cqSize x
      if x.state = .disabled then discardBell s
      else if size ≤ h.toNat ∨ (x.cqTail + size - x.cqHead) % size < (h.toNat + size - x.cqHead) % size then
        (if x.state = .enabled then ringError s r 1 else discardBell s)
      else setRing s r { x with cqHead := h.toNat }

/-- PUSH (R370, R371): `entry` is absent when the write was not one aligned write of 64 bytes. -/
def execPush (r : RingNo) (entry : Option (BitVec 512)) (s : State) : Host.Outcome State Fault Refusal :=
  .next <|
    if !barUp s then s else
      let x := getRing s r
      let size := sqSize x
      if x.state ≠ .enabled then discardBell s
      else match entry with
        | none => ringError s r 2
        | some e =>
          if (x.tail + size - x.sqHead) % size = size - 1 then ringError s r 3
          else
            setRing (forwardBell s r) r
              { x with pushed := tset x.pushed x.tail e, bells := tset x.bells x.tail s.nowNs, tail := (x.tail + 1) % size }

/-! ### Fetching (R369, R379, R380) -/

/-- The bits of a submission entry that a command defines, as (lowest bit, width), its opcode's rings and rights
aside (R378, R381, R383). -/
def cmdFields : Nat → Option (List (Nat × Nat))
  | 0x00 => some []
  | 0x01 => some [(479, 1), (150, 326), (0, 128)]
  | 0x10 => some [(428, 52)]
  | 0x11 => some [(470, 10)]
  | 0x12 => some [(421, 59), (338, 78)]
  | 0x13 => some [(447, 33)]
  | 0x20 => some [(478, 2)]
  | 0x21 => some [(470, 10)]
  | 0x22 => some [(454, 26), (384, 64)]
  | 0x23 => some [(470, 10), (384, 64)]
  | 0x24 => some [(467, 13), (384, 64)]
  | 0x25 => some [(437, 43)]
  | 0x30 => some [(224, 256)]
  | 0x31 => some [(474, 6)]
  | 0x32 => some [(438, 42)]
  | 0x40 => some [(448, 32)]
  | _ => none

/-- Every bit of the entry outside its header and its command's fields is zero. -/
def reservedClear (e : BitVec 512) (fs : List (Nat × Nat)) : Bool :=
  field e 496 6 = 0 && (List.range 480).all fun i => !bit e i || fs.any fun f => f.1 ≤ i && i < f.1 + f.2

/-- A reserved value of an enumerated field (R383). -/
def reservedEnum (op : Nat) (e : BitVec 512) : Bool :=
  match op with
  | 0x12 => field e 468 2 = 3 || field e 466 2 = 3
  | 0x22 => field e 468 2 = 3
  | 0x24 => field e 467 3 < 2 || 5 < field e 467 3
  | 0x40 => field e 478 2 = 3
  | _ => false

/-- The checks of R380 at fetch, in their order. -/
def fetchCheck (r : Nat) (x : Ring) (e : BitVec 512) : Option Fail :=
  let op := field e 504 8
  match cmdFields op with
  | none => some (failIllegal 1)
  | some fs =>
    if (op = 0x01 ∧ r = 0) ∨ (op = 0x40 ∧ r ≠ 0) then some (failIllegal 1)
    else if !reservedClear e fs ∨ reservedEnum op e then some (failIllegal 2)
    else if (!x.priv ∧ 0x10 ≤ op ∧ op ≠ 0x12 ∧ op ≠ 0x13) ∨ (op = 0x01 ∧ bit e 479 ∧ !x.lcAllowed) then some (0x26, 0)
    else none

/-- A fetched entry becomes a command, or is completed at once by a check. -/
def takeEntry (s : State) (r : Nat) (e : BitVec 512) : State :=
  let x := getRing s r
  let slot := x.sqHead
  let s := setRing s r { x with sqHead := (slot + 1) % sqSize x, pushed := tdel x.pushed slot, bells := tdel x.bells slot
                                count := x.count + 1 }
  match fetchCheck r x e with
  | some f => post s { ring := r, tag := field e 480 16, status := f.1, detail := f.2, irq := bit e 503 }
  | none =>
    let c : Cmd := { ring := r, tag := field e 480 16, irq := bit e 503, fence := bit e 502, op := field e 504 8, entry := e
                     order := x.count, doorbell := tgetD x.bells slot s.nowNs }
    { s with cmds := tset s.cmds s.seq c, seq := s.seq + 1 }

/-- The admin ring has an entry to fetch: the front end serves it first (R365). -/
def adminWaits (s : State) : Bool := let x := getRing s 0; x.state = .enabled && x.sqHead ≠ x.tail

/-- SQ_FETCH (R365, R369): the next entry returns: from a PUSH, else from the host, or with the host's error. -/
def execSqFetch (r : RingNo) (entry : Option (BitVec 512)) (s : State) : Host.Outcome State Fault Refusal :=
  .next <|
    let x := getRing s r
    if !ringsUp s ∨ x.state ≠ .enabled ∨ ringHeld s r ∨ x.sqHead = x.tail ∨ (r.val ≠ 0 ∧ adminWaits s) then s
    else match tget x.pushed x.sqHead with
      | some e => takeEntry s r e
      | none => match entry with
        | some e => takeEntry (sendHostMem s 1) r e
        | none => ringError (sendHostMem s 1) r 4

/-! ### Posting (R373 to R377) -/

/-- A completion entry (R373). -/
def cqEntry (x : Ring) (p : Post) : BitVec 128 :=
  BitVec.ofNat 128 (packItems [(1, x.phase.toNat), (1, p.interim.toNat), (1, p.event.toNat), (5, 0), (16, p.detail)
                               , (16, x.sqHead), (8, p.status), (16, p.tag), (64, p.result)])

/-- The completion queue has room (R375). -/
def cqRoom (x : Ring) : Bool := (x.cqTail + 1) % cqSize x ≠ x.cqHead

/-- DETAIL as R373 gives it: the reason of FAIL_ILLEGAL_INSTR, the lost die of FAIL_DIE_LOST, an event's code, else 0. -/
def postDetail (p : Post) : Nat := if p.event ∨ p.status = 0x21 ∨ p.status = 0x24 then p.detail else 0

/-- Write an entry at CQ_TAIL: into the device-held line, which goes to the host when it is full (R375, R376); then the
interrupt (R377). An error of the host's on the line drops the entry and sets CQ_WRITE_FAIL. -/
def writeCq (s : State) (r : Nat) (p : Post) (hostError : Bool) : State :=
  let x := getRing s r
  let e := cqEntry x { p with detail := postDetail p }
  let slot := x.cqTail
  let next := (slot + 1) % cqSize x
  let s := setRing s r { x with cqTail := next, phase := if next = 0 then !x.phase else x.phase
                                line := if hostError then x.line else x.line ++ [(slot, e)] }
  let s := if slot % 4 = 3 then flushLine s r else s
  if hostError then ringError s r 5
  else if p.irq ∨ p.event ∨ p.interim then raiseRing s r else s

/-- The first waiting completion of a ring. -/
def firstPost (s : State) (r : Nat) : Option Post := s.posts.find? fun p => p.ring = r

/-- COMPLETION_POST (R375): the ring's next waiting completion is written, if there is room. -/
def execCompletionPost (r : RingNo) (hostError : Bool) (s : State) : Host.Outcome State Fault Refusal :=
  .next <|
    match firstPost s r with
    | none => s
    | some p =>
      if !ringsUp s ∨ (getRing s r).state = .disabled ∨ !cqRoom (getRing s r) then s
      else drydownEnd (writeCq { s with posts := s.posts.erase p } r p hostError) r

/-- HOLDOFF_EXPIRY (R377): the interrupt that completions inside the holdoff share is raised. -/
def execHoldoffExpiry (r : RingNo) (s : State) : Host.Outcome State Fault Refusal :=
  .next <|
    let x := getRing s r
    let due := match x.lastIrq with
      | none => true
      | some t => x.holdoff * 1000 ≤ s.nowNs - t
    if !x.irqDue ∨ !due then s
    else raiseVector (setRing s r { x with irqDue := false, lastIrq := some s.nowNs }) x.vector

/-- HOST_SNOOP (R376): a host read of the device-held line returns every entry written so far. -/
def execHostSnoop (r : RingNo) (s : State) : Host.Outcome State Fault Refusal :=
  .next (if barUp s ∧ s.hub.cxlMode then flushLine s r else s)

/-- EVENT_POST (R384): the oldest held event is written on ring 0, if it is ENABLED and has room; events that were
dropped are then announced by one EVENTS_LOST. -/
def execEventPost (hostError : Bool) (s : State) : Host.Outcome State Fault Refusal :=
  .next <|
    match s.hub.events with
    | [] => s
    | (code, result) :: rest =>
      let x := getRing s 0
      if !ringsUp s ∨ x.state ≠ .enabled ∨ !cqRoom x then s else
        let lost := s.hub.lost
        let s := { s with hub := { s.hub with events := if 0 < lost then rest ++ [(5, lost)] else rest, lost := 0
                                              eventSeq := s.hub.eventSeq + 1 } }
        writeCq s 0 { ring := 0, tag := (s.hub.eventSeq - 1) % 65536, status := 0, detail := code, result := result
                      event := true } hostError

/-! ### Quenches (R385 to R387) -/

/-- A job of the scope: 0 JOB, 1 RING, 2 ALL. -/
def inScope (scope ring tag : Nat) (r t : Nat) : Bool :=
  scope = 2 || (r = ring && (scope = 1 || t = tag))

/-- The next pass on some cores starts with a full ramp; until it has ended they are not warm (R71, R73). -/
def dueRamps (s : State) (cores : List Nat) : State :=
  cores.foldl (fun s c => updCore s c fun k => { k with ramp := false, rampDue := true, warm := false }) s

/-- The ramp of a wake is under way: it starts 17.97 µs after the request (R405). -/
def wakeRamp (s : State) (c : Nat) : Bool :=
  (getCluster s (c / 32)).power = .waking && (getCluster s (c / 32)).wakeNs + 17970 ≤ s.nowNs

/-- A ramp that a quench cuts short is run again before the next pass (R73). -/
def cutRamps (s : State) (cores : List Nat) : State :=
  dueRamps s (cores.filter fun c => (getCore s c).ramp || wakeRamp s c)

/-- Stop the jobs in scope (R386): running jobs end under R147, jobs not yet dispatched and JOB commands not yet started
complete. The answer lists the running jobs and, of all, ring and tag. -/
def stopScope (s : State) (scope ring tag : Nat) : State × List Nat × List Nat :=
  let js := s.jobs.filter fun j => inScope scope ring tag j.2.ring j.2.tag && j.2.failed.isNone
  let run := js.filter fun j => j.2.state ≠ .waiting
  let cs := s.cmds.filter fun c => c.2.op = 0x01 && !c.2.started && inScope scope ring tag c.2.ring c.2.tag
  let s := run.foldl (fun s j => cutRamps (failJobService (updJob s j.1 fun j => { j with interrupted := none }) j.1 failQuenched)
    j.2.cores) s
  let s := (js.filter fun j => j.2.state = .waiting).foldl (fun s j => endWaiting s j.1 failQuenched) s
  let s := cs.foldl (fun s c => finishCmd s c.1 failQuenched 0) s
  (s, run.map (·.1), js.map (fun j => j.2.ring * 65536 + j.2.tag) ++ cs.map fun c => c.2.ring * 65536 + c.2.tag)

/-- A quench (R386) by a path of R449: a stop command goes to every die (R24), jobs stop, with DISABLE the rings in scope are set to ENABLE = 0, and it is
counted and recorded. -/
def quench (s : State) (path scope ring tag : Nat) (disable : Bool) : State × List Nat × List Nat :=
  let (s, run, all) := stopScope s scope ring tag
  let s := if !disable ∨ scope = 0 then s
    else s.rings.foldl (fun s x => if scope = 2 ∨ x.1 = ring then disableRing s x.1 else s) s
  let s := bump { sendCtrlAll s with hub := { s.hub with stopped := all.length } } 0xE072 1 1
  (sillage s 0x0002 4 noJob (packItems [(8, path), (8, scope), (16, ring), (16, tag), (32, all.length)]), run, all)

/-- The completions that a QUENCH command caused have been posted. -/
def quenchPosted (s : State) (c : Cmd) : Bool :=
  c.need.all (fun j => (tget s.jobs j).isNone)
    && !s.posts.any fun p => p.status = 0x25 && !p.event && c.held.contains (p.ring * 65536 + p.tag)

/-- QUENCH (R386): it stops the jobs in scope when it starts, and completes after their completions. -/
def execQuench (id : Nat) (s : State) : Host.Outcome State Fault Refusal :=
  .next <|
    match cmdReady s id 0x40 with
    | none => s
    | some c =>
      let e := c.entry
      let s := if c.started then s else
        let (s, run, all) := quench (updCmd s id fun c => { c with started := true }) 0 (field e 478 2) (field e 464 13)
          (field e 448 16) (bit e 477)
        updCmd s id fun c => { c with need := run, held := all }
      match tget s.cmds id with
      | some c => if quenchPosted s c then finishCmd s id okStatus c.held.length else s
      | none => s

/-- QUENCH_CTRL (R385): an 8-byte write with the key; a wrong key, reserved scope 3 or DISABLE with SCOPE JOB is ignored
and counted. -/
def execQuenchCtrl (v : Word64) (bytes : Nat) (s : State) : Host.Outcome State Fault Refusal :=
  .next <|
    if !barUp s ∨ bytes ≠ 8 then s
    else
      let scope := field v 45 2
      if field v 48 16 ≠ 0xA4A4 ∨ scope = 3 ∨ (bit v 47 ∧ scope = 0) then bump s 0xE073 1 1
      else (quench s 1 scope (field v 32 13) (field v 16 16) (bit v 47)).1

/-- A recognised change of QUENCH_N (R535): pin bit, event and record. -/
def quenchPin (s : State) (level : Bool) : State :=
  let s := { s with pins := { s.pins with quench := level }, hub := { s.hub with quenchPin := level } }
  sillage (postEvent s 6 level.toNat) 0x0029 4 noJob (packItems [(8, level.toNat)])

/-- QUENCH_N_ASSERT (R387, R535): the start of a continuing quench of scope ALL. -/
def execQuenchNAssert (s : State) : Host.Outcome State Fault Refusal :=
  .next (if s.por ∨ s.pins.quench then s else (quench (quenchPin s true) 3 2 0 0 false).1)

/-- QUENCH_N_RELEASE (R535). -/
def execQuenchNRelease (s : State) : Host.Outcome State Fault Refusal :=
  .next (if s.por ∨ !s.pins.quench then s else quenchPin s false)

/-! ### The mailbox (R389) -/

/-- The mailbox's response: BUSY clears and MB_VECTOR is raised. -/
def mbRespond (s : State) (result : Nat) (bytes : List Byte) : State :=
  let s := { s with hub := { s.hub with mb := { s.hub.mb with busy := false, result := result, respLen := bytes.length
                                                              payload := bytes ++ s.hub.mb.payload.drop bytes.length } } }
  raiseVector s s.hub.mb.vector

/-- A request that the mailbox itself rejects counts (R438). -/
def mbReject (s : State) (result : Nat) : State := bump (mbRespond s result []) 0x1200 2 1

/-- MB_GO (R389): the request goes to the dictionary service; while BUSY the write is ignored. -/
def execMbGo (opcode : Word64) (len : Word64) (vector : BitVec 11) (payload : List Byte) (s : State) :
    Host.Outcome State Fault Refusal :=
  .next <|
    if !barUp s ∨ s.hub.instar < 2 ∨ s.hub.pause ∨ s.hub.mb.busy then s else
      let body := (payload ++ List.replicate (3840 - payload.length) 0).take 3840
      let s := { s with hub := { s.hub with mb := { s.hub.mb with vector := vector.toNat, busy := true, opcode := opcode.toNat
                                                                  len := len.toNat, payload := body } } }
      let s := bump s 0x1200 1 1
      if opcode.toNat < 1 ∨ 4 < opcode.toNat then mbReject s 1
      else if 3840 < len.toNat then mbReject s 2
      else { s with svc := { s.svc with reqs := s.svc.reqs ++
        [{ src := .mailbox, op := opcode.toNat, data := body.take len.toNat }] } }

/-! ### Device memory (R390 to R392) -/

def mib256 : Nat := 2 ^ 28

/-- The first package DPA that a decoder maps (R390). -/
def hdmStart (s : State) (i : Nat) : Nat :=
  let d0 := tgetD s.hub.hdm 0 {}
  if i = 0 then d0.skip else d0.skip + d0.size + (tgetD s.hub.hdm 1 {}).skip

/-- HDM_COMMIT (R390): in order, one-way, in multiples of 256 MiB, within 512 GiB of package DPA; a locked decoder keeps
what it has. -/
def execHdmCommit (decoder : Fin 2) (base size skip : Nat) (ways : Nat) (lock : Bool) (s : State) :
    Host.Outcome State Fault Refusal :=
  .next <|
    let old := tgetD s.hub.hdm decoder.val {}
    if !barUp s ∨ (old.committed ∧ old.locked) then s else
      let new : Hdm := { base := base, size := size, skip := skip }
      let put (h : Hdm) : State := { s with hub := { s.hub with hdm := tset s.hub.hdm decoder.val h } }
      let start := hdmStart (put new) decoder.val
      let first := (tgetD s.hub.hdm 0 {}).committed
      if !s.hub.cxlMode ∨ ways ≠ 1 ∨ size = 0 ∨ base % mib256 ≠ 0 ∨ size % mib256 ≠ 0 ∨ skip % mib256 ≠ 0
          ∨ 4 * dieSpan < start + size ∨ (decoder.val = 1 ∧ !first) then put { new with failed := true }
      else put { new with committed := true, locked := lock }

/-- A committed decoder maps the package DPA. -/
def hdmMaps (s : State) (p : Nat) : Bool :=
  [0, 1].any fun i =>
    let h := tgetD s.hub.hdm i {}
    h.committed && hdmStart s i ≤ p && p < hdmStart s i + h.size

/-- A host access reaches memory: its line is backed, on a die that answers over the hub's links (R12, R392). -/
def hostBacked (s : State) (p : Nat) : Bool :=
  p % dieSpan < dieBacked && p / dieSpan < 4 && reaches s 4 (p / dieSpan) (p % dieSpan / 65536)

def hostOk (s : State) (p : Nat) : Bool := barUp s && s.hub.cxlMode && hdmMaps s p

/-- The request of a host access to its line (R308, R327). -/
def hostReq (p : Nat) (write : Option (List Byte)) : DramReq :=
  { dpa := p % dieSpan, len := 64, write := write, src := .host }

/-- HOST_MEM_READ (R392): the 64-byte line, or 0xFF in every byte with a UE, in the unbacked range and on a die outside
the accord. The regulator of HOST_PARTITION may hold it (R327). -/
def execHostMemRead (pdpa : Nat) (s : State) : Host.Outcome State Fault Refusal :=
  .next <|
    let p := pdpa / 64 * 64
    if !hostOk s p then s
    else if !hostBacked s p then readFill (bump s 0xE071 1 1) (List.replicate 64 0xFF)
    else requestDram s (p / dieSpan) (hostReq p none)

/-- HOST_MEM_WRITE (R392): applied, or dropped with a UE in the line's codeword; dropped and counted where nothing
answers. -/
def execHostMemWrite (pdpa : Nat) (line : List Byte) (s : State) : Host.Outcome State Fault Refusal :=
  .next <|
    let p := pdpa / 64 * 64
    if !hostOk s p then s
    else if !hostBacked s p then bump s 0xE071 1 1
    else requestDram s (p / dieSpan) (hostReq p (some ((line ++ List.replicate (64 - line.length) 0).take 64)))

end Sys2Proof.Machine
end

