-- ==== Sys2Proof/Machine/Service.lean ====
section
/-! DEFINITION. Die loss and online service (ch. 17): heartbeats (R454 to R456), what a loss takes (R457, R464 to R466,
R474), re-homing and requeuing (R466, R468, R469), second copies (R463), rejoin (R471), repack (R473), spare cores
(R475) and updates (R476, R477). -/

namespace Sys2Proof.Machine

/-! ### Heartbeats (R454 to R456) -/

/-- The number of a path: a bridge by its peer, 4 the hub link, 5 the always-on link. -/
def pathNo : HbPath → Nat
  | .bridge p => p
  | .hub => 4
  | .alwaysOn => 5

def hbKey (d : Nat) (p : Nat) : Nat := d * 8 + p

/-- HEARTBEAT (R454): received on a path; a die controller's heartbeat ends the wait for its restart (R455), and the
always-on one carries the state of the watchdog. A die controller's is a CTRL flit, relayed where its link is DOWN (R24,
R31, R32). -/
def execHeartbeat (d : Die) (p : HbPath) (watchdogExpired : Bool) (s : State) : Host.Outcome State Fault Refusal :=
  .next <|
    let s := { s with accord := { s.accord with hb := tset s.accord.hb (hbKey d (pathNo p)) s.nowNs } }
    if pathNo p < 5 then updDie (send s .ctrl d (pathNo p) 0 1) d fun x => { x with wdAt := none }
    else if watchdogExpired then updDie s d fun x => { x with silent := false, wdAt := some ((x.wdAt).getD s.nowNs) }
    else updDie s d fun x => { x with silent := false }

/-- A path has missed HB_MISS_PERIODS heartbeats in a row. -/
def stale (s : State) (d p : Nat) : Bool :=
  setting s 0x2203 1 * 100000 ≤ s.nowNs - tgetD s.accord.hb (hbKey d p) 0

/-- The die answers on its always-on link (R27, R30, R457). -/
def answersAlwaysOn (s : State) (d : Nat) : Bool := !(getDie s d).silent && !stale s d 5

/-- The die controller of a die is watched: not in a reset or its release sequence, not UPDATING (R456). -/
def watched (s : State) (d : Nat) : Bool :=
  (getDie s d).phase = .done && !(getDie s d).dieRst && !s.pins.perst && role s d ≤ 3 && role s d ≠ 2

/-- The Cocoon can declare a loss: not during its restart (R506). -/
def mayDeclare (s : State) (d : Nat) : Bool :=
  !s.por && !s.coc.restart && role s d ≤ 3 && (tget s.accord.declared d).isNone

/-- The Cocoon declares a die lost (R455). -/
def declare (s : State) (d cause : Nat) : State :=
  if !mayDeclare s d then s
  else { s with accord := { s.accord with declared := tset s.accord.declared d cause } }

/-- HEARTBEAT_MISS (R455): the always-on heartbeat (cause 1), or every path of the die controller while the always-on
link answers (cause 2). Some but not all paths missing is a link fault, never a loss. -/
def execHeartbeatMiss (d : Die) (p : HbPath) (s : State) : Host.Outcome State Fault Refusal :=
  .next <|
    if pathNo p = 5 then
      (if stale s d 5 then declare (updDie s d fun x => { x with silent := true }) d 1 else s)
    else if watched s d ∧ !stale s d 5
        ∧ ([0, 1, 2, 3, 4].filter fun q => q ≠ d.val).all fun q => stale s d q then declare s d 2
    else s

/-- WATCHDOG_EXPIRY (R455): the die controller restarts; it has 20 ms to bring heartbeats back. -/
def execWatchdogExpiry (d : Die) (s : State) : Host.Outcome State Fault Refusal :=
  .next (if watched s d then updDie s d fun x => { x with wdAt := some ((x.wdAt).getD s.nowNs) } else s)

/-- WATCHDOG_RESTART_TIMEOUT (R455): no heartbeat came back within 20 ms. -/
def execWatchdogRestartTimeout (d : Die) (s : State) : Host.Outcome State Fault Refusal :=
  .next <|
    match (getDie s d).wdAt with
    | none => s
    | some t => if !watched s d ∨ s.nowNs < t + 20000000 then s
        else updDie (declare s d 3) d fun x => { x with wdAt := none }

/-- The bound of a release sequence (R484, R471): its self-test for a rejoin, 152.04 ms with DRAM kept, 480.04 ms
otherwise. -/
def releaseBound (x : DieHw) : Nat :=
  (if x.rejoin then 1500000000 else 0) + (if x.dramKept then 152040000 else 480040000)

/-- RELEASE_SEQUENCE_OVERRUN (R456): a release sequence passes its bounds by more than 20 ms; a rejoin has failed and
leaves the die LOST (R471). -/
def execReleaseSequenceOverrun (d : Die) (s : State) : Host.Outcome State Fault Refusal :=
  .next <|
    let x := getDie s d
    if x.phase ≠ .running ∨ s.nowNs ≤ x.releaseNs + releaseBound x + 20000000 then s
    else if x.rejoin then
      { setDie s d { x with phase := .held, dieRst := true, rejoin := false, autoTried := true } with
          hub := { s.hub with service := none } }
    else declare s d 3

/-! ### What a loss takes -/

/-- An uncommitted move of a page is dropped. -/
def dropMove (p : Pte) : Pte := { p with moving := false, dest := none }

/-- A page-table entry after a loss (R464, R465): a page on the die is lost; a move to the die is dropped. -/
def losePte (s : State) (d : Nat) (p : Pte) : Pte :=
  let unprotected := p.kind ≠ 1 || (let m := getImago s p.slot; m.mode = 0 || 4 ≤ m.mode)
  if p.tier ≤ 3 && p.die = d && unprotected then { dropMove p with lost := true }
  else match p.dest with
    | some (t, e, _) => if t ≤ 3 && e = d then dropMove p else p
    | none => p

/-- Pages of an address space that a loss takes. -/
def losePages (s : State) (d : Nat) (a : ASpace) : ASpace :=
  let ps := a.pages.map fun p => (p.1, losePte s d p.2)
  let n := (ps.filter fun p => p.2.lost).length - (a.pages.filter fun p => p.2.lost).length
  { a with pages := ps.filter fun p => !(p.2.freeing && !p.2.moving), lostPages := a.lostPages + n }

/-- IMAGO_PARITY after a loss of a die that holds pages of the imago (R464, R474). -/
def lostMode (mode : Nat) : Nat := if mode = 1 ∨ mode = 3 then 2 else 5

/-- An imago after a loss. A load that the die was part of fails. -/
def loseImago (d : Nat) (m : Imago) : Imago :=
  let m := { m with newMode := 0 }
  if !m.pages.any fun p => p.die = d then m
  else if m.state = .loading then { m with bad := some (0x24 + 256 * d) }
  else { m with mode := lostMode m.mode, pages := m.pages.map fun p => if p.die = d then { p with lost := true } else p }

/-- Replace a page of the key-value pool in every table chunk. -/
def repoint (s : State) (a b : Nat) : State :=
  { s with chunks := tmap (fun _ c => { c with pages := c.pages.map fun e => if e.2 = a then (e.1, b) else e }) s.chunks }

/-- One key-value page on a lost die (R464): its mirror becomes the primary; without one it is lost, and its entries in
the table chunks name nothing. A lost mirror leaves its primary without one. -/
def loseKv (s : State) (key : Nat) (p : KvPage) : State :=
  let s := { s with kvPages := tdel s.kvPages key }
  match p.mirrorOf with
  | some q => updPage s q fun q => { q with mirror := none }
  | none => match p.mirror.bind fun m => (getPage s m).map fun x => (m, x) with
    | some (m, x) =>
      repoint { s with kvPages := tset s.kvPages m { x with
        refcnt := p.refcnt - (if p.inTree then 1 else 0), mirrorOf := none, hash := none, inTree := false } } key m
    | none => s

/-- A table chunk of the lost die goes on from the second copy (R466): it holds no slot of a pool. -/
def moveChunk (s : State) (key : Nat) : State :=
  match tget s.chunks key with
  | none => s
  | some c =>
    rekeyChunk { s with seq := s.seq + 1 } key (awayKey s) { c with away := none }

/-- What futures held in the pool of a die that is gone: mirror slots set aside there (R262), and the directory storage of
the groups homed on it. -/
def dropSlots (s : State) (d : Nat) : State :=
  { s with groups := tmap (fun _ g => { g with futures := tmap (fun _ f =>
      { f with
        mirrorReserve := if f.mirrorOn = d then 0 else f.mirrorReserve
        store := f.store.filter fun k => kvDie k ≠ d
        resSlots := if g.home = d then 0 else f.resSlots }) g.futures }) s.groups }

/-- A table chunk lies on a die: in its pool, or in a page that it lends. -/
def chunkOn (d : Nat) (c : Nat × Chunk) : Bool :=
  kvDie c.1 = d || (match c.2.away with
    | some (t, e, _) => t ≤ 3 && e = d
    | none => false)

/-- The key-value pages, table chunks, trees and pool of a die are gone (R464, R466, R491). -/
def losePool (s : State) (d : Nat) : State :=
  let s := (s.kvPages.filter fun p => p.2.place = d && p.2.tier ≤ 3).foldl (fun s p => loseKv s p.1 p.2) s
  let s := (s.chunks.filter (chunkOn d)).foldl (fun s c => moveChunk s c.1) s
  dropSlots { s with trees := tdel s.trees d, pools := tdel s.pools d } d

/-- MIRROR_LAG of every future, after pages were lost (R247, R260). -/
def setLags (s : State) : State :=
  s.groups.foldl (fun s g => g.2.futures.foldl (fun s f => setLag s g.1 f.1) s) s

/-- The length that survives in a future (R466): cut back to the first block whose page was lost in any layer. -/
def survives (s : State) (f : Future) : Nat :=
  let first (l : Nat) : Nat :=
    let n := f.lens.getD l 0
    match (List.range (ceilDiv n 16)).find? fun b => ((pageOf s f l b).bind fun k => getPage s k).isNone with
    | some b => 16 * b
    | none => n
  ((List.range f.lens.length).map first).foldl min (f.lens.foldl max 0)

/-- A live future that lost a page is truncated or dropped, as DIE_LOSS_REPLAY says (R466). -/
def settleFuture (s : State) (g i : Nat) : State :=
  match (tget s.groups g).bind fun gr => tget gr.futures i with
  | none => s
  | some f =>
    let n := survives s f
    if !fLive f ∨ f.lens.foldl max 0 ≤ n then s
    else
      let cut := f.lens.getD 0 0 - n
      let s := if setting s 0x2203 3 = 1 then writeFstate (bump (truncFuture s g i n) 0xE094 1 1) g i
        else bump (dropFuture s g i) 0xE095 1 1
      updGroup s g fun gr => { gr with truncated := tset gr.truncated i cut }

/-- Every future of a group. -/
def settleGroup (s : State) (g : Nat) : State :=
  match tget s.groups g with
  | some gr => gr.futures.foldl (fun s f => setLag (settleFuture s g f.1) g f.1) s
  | none => s

/-- A job is interrupted (R468): its cores stop as under R147, until it is requeued or fails. -/
def interrupt (s : State) (jn d : Nat) : State :=
  match tget s.jobs jn with
  | none => s
  | some j =>
    if j.failed.isSome ∨ j.state = .waiting ∨ j.interrupted.isSome then s
    else cutRamps (undefJobData (stopJob (updJob s jn fun j => { j with interrupted := some d }) jn j) j) j.cores

/-- A job whose address space or group is gone fails with FAIL_DIE_LOST (R474). -/
def failLost (s : State) (jn d : Nat) : State :=
  match tget s.jobs jn with
  | none => s
  | some j => if j.state = .waiting then endWaiting s jn (failDieLost d)
      else failJobService (updJob s jn fun j => { j with interrupted := none }) jn (failDieLost d)

/-- An address space after the loss of a die (R463, R470, R474). -/
def loseSpace (s : State) (d asid : Nat) : State :=
  match tget s.aspaces asid with
  | none => s
  | some a =>
    let s := setSpaceTables s a
    if a.tableDie ≠ d then s
    else match a.copyDie with
      | some c =>
        if a.copyFresh ∧ c ≠ d ∧ inAccord s c then
          updSpace s asid fun a => { a with tableDie := c, copyDie := none, copyFresh := false }
        else gone s
      | none => gone s
where
  setSpaceTables (s : State) (a : ASpace) : State :=
    if a.copyDie = some d then updSpace s asid fun a => { a with copyDie := none, copyFresh := false } else s
  gone (s : State) : State :=
    let s := s.jobs.foldl (fun s j => if j.2.asid = asid then failLost s j.1 d else s) s
    endSpace s asid

/-- A group after the loss of a die (R466, R474): homed there it stops until it is re-homed; with no current second copy
it is lost. -/
def loseGroup (s : State) (d g : Nat) : State :=
  match tget s.groups g with
  | none => s
  | some gr =>
    if gr.home = d then
      (match gr.second with
       | some c => if gr.copyFresh ∧ inAccord s c then updGroup s g fun gr => { gr with stopped := true } else gone s gr
       | none => gone s gr)
    else
      let s := if gr.second = some d then updGroup s g fun gr => { gr with second := none, copyFresh := false } else s
      settleGroup s g
where
  gone (s : State) (gr : Group) : State :=
    let s := match gr.owner with
      | some j => failLost s j d
      | none => s
    destroyGroup s g

/-- The die has a task of the job, or is the present home of a group that it owns (R468). -/
def jobHit (s : State) (d jn : Nat) (j : Job) : Bool :=
  j.cores.any (fun c => c / 512 = d) ||
    s.groups.any fun g => g.2.home = d && g.2.owner = some jn

/-- A die's clusters are cold, its cores empty. -/
def clearDie (s : State) (d : Nat) : State :=
  let s := (s.cores.filter fun c => c.1 / 512 = d).foldl (fun s c => loseCore s c.1) s
  let s := (dieClusters d).foldl (fun s k => if (tget s.clusters k).isSome then
    updCluster s k fun x => { x with power := .cold, pendingWake := false, target := none, rstAsk := none } else s) s
  updDie s d fun x => { x with retire := [], half := false, held := [], wbacks := [], wdAt := none, demoting := false }

/-- The PLACE commands whose moves a loss has dropped wait for them no longer (R341). -/
def settleMoves (s : State) : State :=
  s.cmds.foldl (fun s (id, c) =>
    if c.op = 0x24 ∧ c.started then
      let held := c.held.filter fun v => ((getPte s (cmdAsid c) v).map (·.moving)).getD false
      let s := updCmd s id fun c => { c with held := held }
      if held.isEmpty ∧ c.need.isEmpty then finishCmd s id okStatus 0 else s
    else s) s

/-- Jobs that wait for more SERVING cores (R398). -/
def asideJobs (s : State) : List Nat :=
  (s.jobs.filter fun j => j.2.state = .waiting && coresOf s (serving s) < j.2.ncores).map (·.1)

/-- Of some waiting jobs, those that need more cores than the accord has left complete with FAIL_BOUNDS (R398). -/
def failOversize (s : State) (js : List Nat) : State :=
  js.foldl (fun s jn => match tget s.jobs jn with
    | some j => if j.state = .waiting ∧ coresOf s (inAccord s) < j.ncores then endWaiting s jn failBounds else s
    | none => s) s

/-- The Cocoon sets a die LOST and isolates it (R457); what lay on it is taken over or lost (R464 to R466, R468,
R474). The cores that it stops run a ramp before their next pass (R71, R470). -/
def loseDie (s : State) (d cause : Nat) : State :=
  let aside := asideJobs s
  let s := { s with accord := { s.accord with declared := tdel s.accord.declared d
                                              causes := s.accord.causes.setIfInBounds d cause } }
  let s := setRole (bump s 0xE090 1 1) d 4
  let s := sillage s 0x0100 5 noJob (packItems [(8, d), (32, s.accord.epoch)])
  let s := updDie s d fun x => { x with lossNs := s.nowNs, autoTried := decide (4 < cause), moved := 0, upd := false
                                        rejoin := false, rstAsk := none, enable := false }
  let s := { s with hub := { s.hub with service := none } }
  let s := s.jobs.foldl (fun s j => if jobHit s d j.1 j.2 then dueRamps (interrupt s j.1 d) j.2.cores else s) s
  let s := { s with imagos := tmap (fun _ m => loseImago d m) { s with aspaces := tmap (fun _ a => losePages s d a) s.aspaces }.imagos
                    aspaces := tmap (fun _ a => losePages s d a) s.aspaces }
  let s := losePool s d
  let s := s.aspaces.foldl (fun s a => loseSpace s d a.1) s
  let s := s.groups.foldl (fun s g => loseGroup s d g.1) s
  failOversize (clearDie (settleMoves (freshSegs s)) d) aside

/-- DIE_LOSS (R457): a declared loss is carried out; `memory` says that a channel of the die stopped answering, or its
controller's state holds an uncorrectable error (cause 4, R319, R455). -/
def execDieLoss (d : Die) (memory : Bool) (s : State) : Host.Outcome State Fault Refusal :=
  .next <|
    if s.por ∨ s.coc.restart ∨ 3 < role s d then s
    else match tget s.accord.declared d with
      | some c => loseDie s d c
      | none => if memory then loseDie s d 4 else s

/-! ### Re-homing (R466, R469) -/

/-- The lowest-numbered ring homed on a die, ring 0 apart. -/
def lowestRing (s : State) (d : Nat) : Option Nat := (List.range 8192).find? fun r => r ≠ 0 && ringHome s r = d

/-- RING_REHOME (R469): the rings of a die that no longer serves move in ascending number, the i-th to the (i mod n)-th
SERVING die, which has the notice of it in a CTRL flit (R24). -/
def execRingRehome (r : RingNo) (s : State) : Host.Outcome State Fault Refusal :=
  .next <|
    let d := ringHome s r
    let to' := [0, 1, 2, 3].filter (serving s)
    if s.hub.pause ∨ serving s d ∨ lowestRing s d ≠ some r.val ∨ to' = [] then s
    else
      let i := (getDie s d).moved
      let new := to'.getD (i % to'.length) 0
      let s := updDie s d fun x => { x with moved := i + 1 }
      let s := send (updRing s r fun x => { x with home := some new }) .ctrl 4 new 0 1
      sillage s 0x0103 4 noJob (packItems [(16, r.val), (8, new)])

/-- The ring holds a dispatched command. -/
def ringBusy (s : State) (r : Nat) : Bool := s.jobs.any fun j => j.2.ring = r && j.2.state ≠ .waiting

/-- RING_RETURN (R469): back to the original die once that serves and the ring holds no dispatched command. -/
def execRingReturn (r : RingNo) (s : State) : Host.Outcome State Fault Refusal :=
  .next <|
    let d := r.val / 2048
    if r.val = 0 ∨ s.hub.pause ∨ !serving s d ∨ (getDie s d).upd ∨ ringHome s r = d ∨ ringBusy s r then s
    else sillage (send (updRing s r fun x => { x with home := none }) .ctrl 4 d 0 1) 0x0103 4 noJob (packItems [(16, r.val), (8, d)])

/-- Reserves on the new home die (R466): as many blocks as sources 2 and 3 give, up to RESERVE_LEFT. -/
def reserveAgain (s : State) (g i r : Nat) : State :=
  let s := match (tget s.groups g).bind fun gr => (tget gr.futures i).map fun f => (gr, f) with
    | some (gr, f) => releaseReserve s gr f
    | none => s
  let s := updFuture s g i fun f => { f with reserve := 0, resSlots := 0, mirrorReserve := 0 }
  match ((List.range (r + 1)).reverse).findSome? fun n => takeReserve s g i n with
  | some s => s
  | none => s

/-- GROUP_REHOME (R466): a group continues on its second die; its futures are truncated or dropped by what they lost;
LC groups come before others on one new home die. -/
def execGroupRehome (g : GroupNo) (s : State) : Host.Outcome State Fault Refusal :=
  .next <|
    match tget s.groups g with
    | none => s
    | some gr =>
      match gr.second with
      | none => s
      | some c =>
        let lcFirst := !gr.lc && s.groups.any fun o => o.2.stopped && o.2.lc && o.2.second = some c
        if !gr.stopped ∨ inAccord s gr.home ∨ !serviceUp s c ∨ lcFirst then s
        else
          let old := gr.futures.map fun f => (f.1, f.2.reserve)
          let s := updGroup s g fun gr => { gr with home := c, stopped := false, second := none, copyFresh := false
                                                    futures := tmap (fun _ f => { f with reserve := 0, resSlots := 0 }) gr.futures }
          let s := settleGroup s g
          old.foldl (fun s p => match (tget s.groups g).bind fun gr => tget gr.futures p.1 with
            | some f => if fLive f then writeFstate (reserveAgain s g p.1 p.2) g p.1 else s
            | none => s) s

/-! ### Requeuing (R468) -/

/-- Cut a future to an exact length: the path to a shared last page is first copied (R468, R258). -/
def exactCut (s : State) (g i n : Nat) : State :=
  match (tget s.groups g).bind fun gr => (tget gr.futures i).map fun f => (gr, f) with
  | none => s
  | some (gr, f) =>
    if f.lens.all (· ≤ n) then s else
      let s := truncFuture s g i (ceilDiv n 16 * 16)
      let s := if n % 16 = 0 then s else (List.range gr.layout.nlayers).foldl (fun s l =>
        match ownPage (serving s) s g i l (n / 16) (n % 16) with
        | some (k, s) => updPage s k fun p => { p with ntok := min p.ntok (n % 16) }
        | none => s) s
      writeFstate (updFuture s g i fun f => { f with lens := f.lens.map (min n), codes := f.codes.filter fun e => e.1 < n }) g i

/-- The futures of an interrupted job's group as they were at its dispatch. -/
def prepareFutures (s : State) (j : Job) : State :=
  let s := j.lens.foldl (fun s p =>
    match liveFuture s p.1 with
    | some (g, _, i, _) => exactCut s g i p.2
    | none => s) s
  j.forked.foldl (fun s h => match liveFuture s h with
    | some (g, _, i, _) => dropFuture s g i
    | none => s) s

/-- A job may run again from its start (R468). -/
def mayRequeue (s : State) (j : Job) : Bool :=
  setting s 0x2203 3 = 1 && !j.requeued && !j.dropped && !j.lostHit &&
    (match j.group.bind fun g => tget s.groups g with
     | some gr => gr.stepIndex = j.boundaries
     | none => j.group.isNone)

/-- The state that a requeued job needs is served again (R470): its address space, and the group it owns. -/
def requeueReady (s : State) (j : Job) : Bool :=
  (match tget s.aspaces j.asid with
   | some a => inAccord s a.tableDie
   | none => false)
  && (match j.group.bind fun g => tget s.groups g with
      | some gr => !gr.stopped
      | none => true)

/-- JOB_REQUEUE (R468): an interrupted job is requeued once, or fails with FAIL_DIE_LOST. -/
def execJobRequeue (jn : Nat) (s : State) : Host.Outcome State Fault Refusal :=
  .next <|
    match tget s.jobs jn with
    | none => s
    | some j =>
      match j.interrupted with
      | none => s
      | some d =>
        if j.failed.isSome then updJob s jn fun j => { j with interrupted := none }
        else if !mayRequeue s j ∨ (tget s.aspaces j.asid).isNone then failLost s jn d
        else if !requeueReady s j then s
        else
          let s := closeSlots s jn { j with failed := some (failDieLost d) }
          let s := j.cores.foldl (fun s c => chargeTask s c j.lc) s
          let s := freeCores s jn j
          let s := prepareFutures s j
          let s := match j.group with
            | some g => updGroup s g fun gr => if gr.owner = some jn then { gr with owner := none } else gr
            | none => s
          let s := if j.lc then s else raiseV s j.part
          let s := updJob s jn fun x => { x with state := .waiting, cores := [], interrupted := none, requeued := true
                                                 fallback := false, switched := false, switchDue := false, armed := false
                                                 late := false, lastB := none, stepNs := 0, stepsDone := 0, imagoFb := none
                                                 arrival := s.sched.jobSeq, snapIx := [], firsts := [] }
          let s := { s with sched := { s.sched with jobSeq := s.sched.jobSeq + 1 } }
          bump s 0xE093 1 1

/-! ### Second copies (R463) -/

/-- SECOND_DIE_FILL (R463): state with one copy gets a second die, which is filled in the background. -/
def execSecondDieFill (i : FillItem) (s : State) : Host.Outcome State Fault Refusal :=
  .next <|
    match i with
    | .aspace asid => match tget s.aspaces asid with
      | none => s
      | some a => if a.copyDie.isSome ∨ !inAccord s a.tableDie then s else match successor s a.tableDie with
        | some c => updSpace s asid fun a => { a with copyDie := some c, copyFresh := false }
        | none => s
    | .group g => match tget s.groups g with
      | none => s
      | some gr => if gr.second.isSome ∨ gr.stopped then s else match successor s gr.home with
        | some c => updGroup s g fun gr => { gr with second := some c, copyFresh := false }
        | none => s

/-- FILL_DONE (R463): the second copy is current. -/
def execFillDone (i : FillItem) (s : State) : Host.Outcome State Fault Refusal :=
  .next <|
    match i with
    | .aspace asid => match tget s.aspaces asid with
      | some a => if a.copyDie.isSome then updSpace s asid fun a => { a with copyFresh := true } else s
      | none => s
    | .group g => match tget s.groups g with
      | some gr => if gr.second.isSome ∧ !gr.stopped then updGroup s g fun gr => { gr with copyFresh := true } else s
      | none => s

/-! ### Release of a die, rejoin (R471, R484) -/

/-- DIE_RST is released and the die's release sequence begins, unless another source still covers the die (R483). -/
def startRelease (s : State) (d : Nat) : State :=
  let s := updDie s d fun x => { x with dieRst := false }
  if s.pins.perst ∨ s.por ∨ s.coc.trip ∨ !s.pow.vinUp then s
  else
    let s := updDie s d fun x => { x with phase := .running, releaseNs := s.nowNs }
    { s with coc := { s.coc with mr := s.coc.mr.setIfInBounds (d + 2) (List.replicate 32 0) } }

/-- A rejoin begins (R471): self-test, training, then REJOINING. DRAM is not kept. -/
def startRejoin (s : State) (d : Nat) (auto : Bool) : State :=
  let s := updDie s d fun x => { x with rejoin := true, dramKept := false, autoTried := x.autoTried || auto }
  startRelease { s with hub := { s.hub with service := some (3, d) } } d

/-- AUTO_REJOIN (R471): once, 1 s after a loss with cause 1 to 4, when AUTO_REJOIN = 1. -/
def execAutoRejoin (d : Die) (s : State) : Host.Outcome State Fault Refusal :=
  .next <|
    let x := getDie s d
    let c := s.accord.causes.getD d.val 0
    if role s d ≠ 4 ∨ setting s 0x2203 2 = 0 ∨ x.autoTried ∨ x.rejoin ∨ c < 1 ∨ 4 < c ∨ s.nowNs < x.lossNs + 1000000000
        ∨ s.coc.restart then s
    else startRejoin s d true

/-- The imagos whose units on a die can be rebuilt: parity-protected, every other die of their layout in the accord. -/
def rebuildable (s : State) (d : Nat) (m : Imago) : Bool :=
  m.mode = 2 && m.dies.all fun e => e = d || inAccord s e

/-- REJOIN_DONE (R471 steps 4 to 6): the die's contents are discarded but for the units of parity-protected imagos,
which are rebuilt from the other dies; the die serves. -/
def execRejoinDone (d : Die) (s : State) : Host.Outcome State Fault Refusal :=
  .next <|
    if role s d ≠ 3 ∨ s.coc.restart then s
    else
      let keep := s.imagos.flatMap fun i => if rebuildable s d i.2 then i.2.pages.filter fun p => p.die = d.val else []
      let bytes := keep.map fun p => (p, memReads s.dram (d * dieSpan + p.frame * 65536) 65536)
      let s := undefSpace s .dram (d * dieSpan) dieBacked
      let s := { s with dramUE := s.dramUE.filter fun c => c * 128 / dieSpan ≠ d.val }
      let s := bytes.foldl (fun s b => { s with dram := memWrites s.dram (d * dieSpan + b.1.frame * 65536) b.2 }) s
      let found (p : ImagoPage) : ImagoPage := if p.die = d.val then { p with lost := false } else p
      let whole (m : Imago) : Imago := { m with mode := if m.dies.length = 4 then 1 else 3, pages := m.pages.map found }
      let s := { s with imagos := tmap (fun _ m => if rebuildable s d m then whole m else m) s.imagos }
      let s := { s with hub := { s.hub with service := none } }
      setRole (updDie s d fun x => { x with rejoin := false }) d 0

/-! ### Repack (R473) -/

/-- The dies that survive a retirement, for an imago's layout. -/
def survivors (s : State) (m : Imago) : List Nat := m.dies.filter (inAccord s)

/-- A retired die's data pages go to the survivors in turn (R473). -/
def movedPages (m : Imago) (to' : List Nat) : List ImagoPage :=
  let gone := (m.pages.filter fun p => !p.parity && !to'.contains p.die)
  gone.zipIdx.map fun p => { p.1 with die := to'.getD (p.2 % to'.length) 0, lost := false }

/-- The pages that a layout adds, without frames. -/
def addedPages (m : Imago) (to' : List Nat) (parity : Bool) : List (Nat × Nat × Bool) :=
  let stay := m.pages.filter fun p => !p.parity && to'.contains p.die
  let new := movedPages m to'
  let all := (stay ++ new).map fun p => (p.va, p.die)
  new.map (fun p => (p.va, p.die, false)) ++ (layoutPages all to' parity).filter fun p => p.2.2

/-- A layout fits: every survivor's free pages above the low water hold what it adds. -/
def layoutFits (s : State) (ps : List (Nat × Nat × Bool)) : Bool :=
  [0, 1, 2, 3].all fun d =>
    let n := ps.countP fun p => p.2.1 = d
    n = 0 || n + setting s 0x5800 (d + 1) * gibPages ≤ freePages s d

/-- The imagos that a retired die left DEGRADED and whose repack is not decided, and their size. -/
def repackable (s : State) : List (Nat × Imago) :=
  s.imagos.filter fun i => i.2.state = .resident && i.2.mode = 2 && i.2.newMode = 0
    && i.2.dies.any (fun d => role s d = 5) && (survivors s i.2).length = 3

/-- The largest of some imagos. -/
def largest (l : List (Nat × Imago)) : Option (Nat × Imago) :=
  l.foldl (fun (b : Option (Nat × Imago)) i => match b with
    | none => some i
    | some a => if ((a.2.image.map (·.total)).getD 0) < ((i.2.image.map (·.total)).getD 0) then some i else some a) none

/-- A repack is under way. -/
def repacking (s : State) : Option (Nat × Imago) := s.imagos.find? fun i => 3 ≤ i.2.newMode

/-- REPACK (R473): the largest resident imago is taken next, in the first layout that fits: 2+1, data only, or neither,
which leaves it DEGRADED. -/
def execRepack (s : State) : Host.Outcome State Fault Refusal :=
  .next <|
    if (repacking s).isSome then s
    else match largest (repackable s) with
      | none => s
      | some (n, m) =>
        let to' := survivors s m
        let mode := if layoutFits s (addedPages m to' true) then 3
          else if layoutFits s (addedPages m to' false) then 4 else 2
        let s := updImago s n fun m => { m with newMode := mode }
        if 3 ≤ mode then { s with hub := { s.hub with service := some (4, n) } } else s

/-- Move the page-table entries of an imago from old pages to new ones. -/
def switchPtes (s : State) (n : Nat) (moves : List (ImagoPage × ImagoPage)) : State :=
  let go (p : Pte) : Pte :=
    if p.kind ≠ 1 ∨ p.slot ≠ n then p else match moves.find? fun q => q.1.die = p.die && q.1.frame = p.frame with
      | some q => { p with die := q.2.die, frame := q.2.frame, home := q.2.die, lost := false }
      | none => p
  { s with aspaces := tmap (fun _ (a : ASpace) => { a with pages := tmap (fun _ p => go p) a.pages }) s.aspaces }

/-- REPACK_SWITCH (R473): the new layout is complete in frames from `frame` upward; one update of the imago's entries
switches to it and the old pages are freed. -/
def execRepackSwitch (frame : Nat) (s : State) : Host.Outcome State Fault Refusal :=
  .next <|
    match repacking s with
    | none => s
    | some (n, m) =>
      let to' := survivors s m
      match takeFrames s frame (addedPages m to' (m.newMode = 3)) [] with
      | none => s
      | some got =>
        let gone := m.pages.filter fun p => !p.parity && !to'.contains p.die
        let data := got.filter fun p => !p.parity
        let moves := gone.zip data
        let copy (s : State) (q : ImagoPage × ImagoPage) : State :=
          let bs := memReads s.dram (q.1.die * dieSpan + q.1.frame * 65536) 65536
          { s with dram := memWrites s.dram (q.2.die * dieSpan + q.2.frame * 65536) bs }
        let s := moves.foldl copy s
        let stay := m.pages.filter fun p => !p.parity && to'.contains p.die
        let new : Imago := { m with pages := stay ++ got, dies := to', mode := m.newMode, newMode := 0 }
        let s := (got.filter (·.parity)).foldl (fun s p => formParity s new p) s
        let s := switchPtes { s with imagos := tset s.imagos n new } n moves
        { s with hub := { s.hub with service := none } }

/-! ### Spare cores (R475) -/

/-- A cluster with no in-service core is power-gated (R19). -/
def gateEmpty (s : State) (k : Nat) : State :=
  let x := getCluster s k
  if clusterAlive s k ∨ x.power = .cold ∨ x.power = .drying then s
  else setCluster s k { x with power := .drying, wakeNs := s.nowNs, pendingWake := false, rstAsk := none, target := none }

/-- A core's retirement is recorded (R34, R475). What the spare holds when it takes the number is undefined, with valid check
bits (R74, R491). -/
def recordRetired (s : State) (c : Nat) : State :=
  let k := c / 32
  let x := getCluster s k
  let pos := tgetD x.phys (c % 32) (c % 32)
  let short := x.spare ≠ 0
  let s := { s with coc := { s.coc with retired := (k * 64 + pos) :: s.coc.retired } }
  let s := updDie s (c / 512) fun y => { y with retire := y.retire.erase c }
  let s := setCluster s k { x with spare := if short then 2 else 1, swap := none
                                   phys := if short then x.phys else tset x.phys (c % 32) 32 }
  let s := loseCore s c
  let o := getCore s c
  let s := setCore s c { retired := short, acc := o.acc, lcAcc := o.lcAcc, live := o.live, shadow := o.shadow, rng := o.rng }
  let s := if short then gateEmpty s k else bump s 0xE096 (c / 512 + 1) 1
  sillage s 0x0021 (c / 512) noJob (packItems [(16, c), (8, if short then 2 else 1)])

/-- SPARE_SWAP_DONE (R475, R19): a core whose retirement waits holds no task; the spare is tested and takes the logical
number. Without a spare, or where the spare fails its test, the number stays unassigned. -/
def execSpareSwapDone (c : CoreNo) (pass : Bool) (s : State) : Host.Outcome State Fault Refusal :=
  .next <|
    let k := getCore s c
    if !(getDie s (c / 512)).retire.contains c.val ∨ k.be.isSome ∨ k.lc.isSome ∨ k.spill.isSome then s
    else
      let x := getCluster s (c / 32)
      let s := if x.spare = 0 ∧ !pass then
          updCluster { s with coc := { s.coc with retired := (c / 32 * 64 + 32) :: s.coc.retired } } (c / 32)
            fun x => { x with spare := 1 }
        else s
      let s := failOversize (recordRetired s c) (asideJobs s)
      if x.spare = 0 ∧ pass ∧ x.power = .warm then updCore s c fun k => { k with warm := true } else s

/-- A core's retirement waits (R475): for its core to hold no task, then for the cluster's spare. -/
def askRetire (s : State) (c : Nat) : State :=
  let s := updDie s (c / 512) fun x => { x with retire := if x.retire.contains c then x.retire else x.retire ++ [c] }
  let x := getCluster s (c / 32)
  if x.spare = 0 ∧ x.swap.isNone then setCluster s (c / 32) { x with swap := some c } else s

/-- CORE_LOGIC_UE (R475): the core, struck by an uncorrectable error or failing its self-test at a ramp, is retired
automatically and its jobs are interrupted under R468. -/
def execCoreLogicUe (c : CoreNo) (s : State) : Host.Outcome State Fault Refusal :=
  .next <|
    let d := c.val / 512
    if (getCore s c).retired ∨ (getDie s d).retire.contains c.val then s
    else
      let s := askRetire s c
      (coreTasks (getCore s c)).foldl (fun s t => interrupt s t.job d) s

/-! ### Updates (R476, R477) -/

/-- A die holds a task. -/
def dieBusy (s : State) (d : Nat) : Bool := s.cores.any fun c => c.1 / 512 = d && !(coreTasks c.2).isEmpty

/-- Some update runs. -/
def updating (s : State) : Bool := s.hub.update || [0, 1, 2, 3].any fun d => (getDie s d).upd

/-- UPDATE_RESTART (R476 step 2): once no task remains on the DRAINING die, it is UPDATING and its controllers
restart. -/
def execUpdateRestart (d : Die) (s : State) : Host.Outcome State Fault Refusal :=
  .next <|
    if !(getDie s d).upd ∨ role s d ≠ 1 ∨ dieBusy s d ∨ s.coc.restart then s
    else
      let s := updDie s d fun x => { x with updNs := some s.nowNs, updBank := true }
      setRole { s with hub := { s.hub with service := some (2, d) } } d 2

/-- The image that a bank holds from manufacture (R524): it passes verification; its versions and digests are per
part. -/
def factoryImage (n : Nat) : FwImage :=
  { version := Config.perPart (2 ^ 32 + 4 * n) % 2 ^ 32, secVer := Config.perPart (2 ^ 32 + 4 * n + 1) % 2 ^ 32
    digestA := leBytes 32 (Config.perPart (2 ^ 32 + 4 * n + 2)), digestB := leBytes 32 (Config.perPart (2 ^ 32 + 4 * n + 3)) }

/-- The firmware image of a bank. -/
def bankImage (s : State) (kind bank : Nat) : FwImage := tgetD s.coc.banks (2 * kind + bank) (factoryImage (2 * kind + bank))

/-- MIN_SECURITY_VERSION of a KIND (R525, R527). -/
def minSecOf (s : State) (kind : Nat) : Nat := tgetD s.coc.minSec kind (Config.perPart (objKey 0x9004 (kind + 1)) % 2 ^ 32)

/-- The security versions that the units of a KIND prefer raise MIN_SECURITY_VERSION (R525). -/
def raiseMin (s : State) (kind : Nat) : State :=
  let banks := match kind with
    | 0 => [s.coc.prefer.getD 0 0]
    | 1 => [s.coc.prefer.getD 1 0]
    | _ => [2, 3, 4, 5].map fun i => s.coc.prefer.getD i 0
  let v := (banks.map fun b => (bankImage s kind b).secVer).foldl min ((bankImage s kind (banks.headD 0)).secVer)
  let old := minSecOf s kind
  if old < v then { s with coc := { s.coc with minSec := tset s.coc.minSec kind v } } else s

/-- Unit numbers of FW_PREFERRED_BANK: 0 Cocoon, 1 hub, 2 to 5 the dies. A unit runs from a bank, which it prefers from
now on when it is a new one; the register of its measurements is extended, the activation recorded (R522, R525). -/
def activate (s : State) (unit kind bank : Nat) (prefer : Bool) : State :=
  let im := bankImage s kind bank
  let s := { s with coc := { s.coc with running := s.coc.running.setIfInBounds unit bank
                                        prefer := if prefer then s.coc.prefer.setIfInBounds unit bank else s.coc.prefer } }
  raiseMin s kind |> fun s =>
    if unit = 0 then extendMr s 0 im.digestA "INSTAR1"
    else if unit = 1 then extendMr (extendMr s 1 im.digestA "HUBFW") 1 im.digestB "HUBFW"
    else extendMr (extendMr s unit im.digestA "DIEFW") unit im.digestB "DIEFW"

/-- A FW_UPDATE record: instar, die or 4 for the hub, version. -/
def recordFw (s : State) (instar die kind bank : Nat) : State :=
  sillage s 0x0104 5 noJob (packItems [(8, instar), (8, die), (32, (bankImage s kind bank).version)])

/-- UPDATE_DONE (R476): the die serves again from the new bank, or from its previous one; with neither it is lost with
cause UPDATE. A bank whose image fails verification is not started. -/
def execUpdateDone (d : Die) (e : UpdateEnd) (s : State) : Host.Outcome State Fault Refusal :=
  .next <|
    if !(getDie s d).upd ∨ role s d ≠ 2 ∨ s.pins.perst ∨ s.coc.restart then s
    else
      let old := s.coc.prefer.getD (d.val + 2) 0
      let new := 1 - old
      let fin (s : State) : State :=
        let s := updDie s d fun x => { x with upd := false, updNs := none }
        setRole { s with hub := { s.hub with service := none } } d 0
      match e with
      | .newBank =>
        if (bankImage s 2 new).ok then recordFw (activate (fin s) (d.val + 2) 2 new true) 2 d 2 new
        else recordFw (activate (fin s) (d.val + 2) 2 old false) 2 d 2 old
      | .oldBank => recordFw (activate (fin s) (d.val + 2) 2 old false) 2 d 2 old
      | .none => loseDie s d 6

/-- HUB_UPDATE_DONE (R477): the pause ends and the hub's services resume, from the new bank where its image passes
verification. -/
def execHubUpdateDone (s : State) : Host.Outcome State Fault Refusal :=
  .next <|
    if !s.hub.update then s
    else
      let old := s.coc.prefer.getD 1 0
      let bank := if (bankImage s 1 (1 - old)).ok then 1 - old else old
      let s := { s with hub := { s.hub with update := false, pause := false, service := none }
                        coc := { s.coc with mr := s.coc.mr.setIfInBounds 1 (List.replicate 32 0) } }
      recordFw (activate s 1 1 bank true) 2 4 1 bank

end Sys2Proof.Machine
end

