-- ==== Sys2Proof/Machine/Reset.lean ====
section
/-! DEFINITION. Resets (R482 to R487), supplies (R490), trips (R506 to R508), the release of POR, of a trip and of
the dies (R484, R488, R489), the reference (R481). -/

namespace Sys2Proof.Machine

/-! ### Reset causes (R487) -/

/-- A RESET_CAUSE record: the source's bit and the block: die, or 0xFF for the package; cluster, or 0xFF. -/
def resetRecord (s : State) (origin src block : Nat) : State :=
  sillage s 0x0200 origin noJob (packItems [(8, src), (16, block)])

/-- The bit of a source in the RESET_CAUSE of a die and of its clusters. -/
def dieBits (s : State) (d src : Nat) : State :=
  let s := updDie s d fun x => { x with cause := x.cause ||| 2 ^ src }
  (dieClusters d).foldl (fun s k => updCluster s k fun x => { x with cause := x.cause ||| 2 ^ src }) s

/-- The bit of a source in the RESET_CAUSE of the package, which stands for the hub (DEDUCED, log 55), and the record. -/
def pkgCause (s : State) (origin src : Nat) : State :=
  resetRecord { s with hub := { s.hub with cause := s.hub.cause ||| 2 ^ src } } origin src 0xFFFF

/-- A source that reaches the package and every die. -/
def wideCause (s : State) (origin src : Nat) : State :=
  [0, 1, 2, 3].foldl (fun s d => dieBits s d src) (pkgCause s origin src)

/-! ### Function state (R486) -/

/-- A field-network session is closed (R444, R445): causes of R449. -/
def closeSession (s : State) (n cause : Nat) : State :=
  if (tget s.fnet.sessions n).isNone then s
  else sillage { s with fnet := { s.fnet with sessions := tdel s.fnet.sessions n } } 0x0032 4 noJob
    (packItems [(16, n), (8, 0), (8, cause)])

def closeSessions (s : State) (cause : Nat) : State :=
  s.fnet.sessions.foldl (fun s e => closeSession s e.1 cause) s

/-- Every job ends as by a quench of SCOPE ALL (R486 step 1). -/
def endAllJobs (s : State) : State :=
  let s := (stopScope s 2 0 0).1
  s.jobs.foldl (fun s j => endJob (closeSlots s j.1 j.2) j.1) s

/-- Commands, events, completions and the mailbox's request are discarded (R486 steps 1 and 2). -/
def discardWork (s : State) : State :=
  { s with cmds := [], posts := []
           hub := { s.hub with events := [], lost := 0 }
           svc := { s.svc with reqs := s.svc.reqs.filter fun q => q.src ≠ .mailbox }
           imagos := tmap (fun _ m => { m with cmds := [] }) s.imagos }

/-- The registers of BAR0, the rings, the MSI-X table and its pending bits return to reset (R486 steps 4 and 5); a
ring that the accord has re-homed stays with its new home (DEDUCED, log 57). -/
def resetFunction (s : State) : State :=
  let s := s.rings.foldl (fun s r => flushLine s r.1) s
  let homes := s.rings.filterMap fun r => r.2.home.map fun d => (r.1, { freshRing r.1 with home := some d })
  { s with rings := homes, hub := { s.hub with msix := [], msixPending := [], mb := {}, stopped := 0 } }

/-- Steps 1 to 5 of R486. -/
def functionReset (s : State) : State :=
  let s := discardWork (endAllJobs s)
  let s := s.groups.foldl (fun s g => destroyGroup s g.1) s
  let s := s.aspaces.foldl (fun s a => endSpace s a.1) s
  resetFunction (discardWork s)

/-- The CXL DVSEC, both HDM decoders and the bias table at reset. -/
def resetCxl (s : State) : State := { s with hub := { s.hub with hdm := [], hostBias := [] } }

/-- HOT_RESET (R486). -/
def execHotReset (s : State) : Host.Outcome State Fault Refusal :=
  .next (if s.por ∨ s.pins.perst ∨ !s.hub.linkUp then s else resetCxl (functionReset (pkgCause s 4 3)))

/-- FLR (R486): the DVSEC, committed decoders and the bias table stay. -/
def execFlr (s : State) : Host.Outcome State Fault Refusal :=
  .next (if s.por ∨ s.pins.perst ∨ !s.hub.linkUp then s else functionReset (pkgCause s 4 4))

/-! ### One die's logic -/

/-- A core in reset: no task, contents lost. A fence stays until the reset is released (R88). -/
def emptyCore (s : State) (c : Nat) : State :=
  let s := loseCore s c
  updCore s c fun k => { k with be := none, lc := none, spill := none, lcHas := false, idleReq := false
                                warm := false, ramp := false, rampDue := false }

/-- A cluster after a reset: cold, at point 9; what is fixed at manufacture or recorded by the Cocoon stays. -/
def resetCluster (x : Cluster) : Cluster :=
  { spare := x.spare, phys := x.phys, cause := x.cause, trimNo := x.trimNo }

/-- A die after a reset: its channels, its map, the migrations that wait, and what the Cocoon knows of it, stay. -/
def resetDieHw (x : DieHw) : DieHw :=
  { phase := .held, dieRst := x.dieRst, dramKept := x.dramKept || x.phase = .done, cause := x.cause
    chans := x.chans, map := x.map, queue := x.queue, mig := x.mig, noSpare := x.noSpare, trained := x.trained
    trainNs := x.trainNs, again := x.again, parts := x.parts
    lossNs := x.lossNs, autoTried := x.autoTried, moved := x.moved, upd := x.upd, updNs := x.updNs, updBank := x.updBank
    rejoin := x.rejoin, silent := x.silent, retire := x.retire }

/-- The statistics kept since the last reset of a die. -/
def dieStat (d index sub : Nat) : Bool :=
  (sub = d + 1 && ((0xE040 ≤ index && index ≤ 0xE06A) || (0xE078 ≤ index && index ≤ 0xE07A) || index = 0xE0A1
    || index = 0xE0A2)) ||
  (index = dramIx d + 0x12 || index = dramIx d + 0x13
    || (dramIx d + 0x40 ≤ index && index < dramIx d + 0x80 && (sub = 4 || sub = 5)))

/-- A reset of a die's logic: its tasks are gone, its clusters cold, its links untrained (R33), an idle wait ended, a
copy between channels abandoned (R318), its statistics zero. Its page pool and prefix tree are empty (DEDUCED, log 56). -/
def wipeDie (s : State) (d : Nat) : State :=
  let s := abandonMig s d
  let s := (s.cores.filter fun c => c.1 / 512 = d).foldl (fun s c => emptyCore s c.1) s
  let s := (dieClusters d).foldl (fun s k => updCluster s k resetCluster) s
  let s := updDie s d resetDieHw
  let s := (dieLinks d).foldl (fun s l => { s with links := tdel s.links l }) s
  { s with stats := s.stats.filter fun e => !dieStat d (e.1 / 256) (e.1 % 256)
           trees := tdel s.trees d, pools := tdel s.pools d }

/-- Every die's logic is reset. -/
def wipeDies (s : State) : State := [0, 1, 2, 3].foldl wipeDie s

/-! ### PERST_N -/

/-- The CXL lanes return to electrical idle, the link is down (R482, R533). -/
def dropLink (s : State) : State :=
  { s with hub := { s.hub with linkUp := false, linkRate := 0, linkWidth := 0, cxlMode := false, tx := {} }
           pins := { s.pins with tx := .idle } }

/-- Instar 3 no longer runs on the hub; READY reads 0. -/
def hubBack (s : State) : State :=
  { s with hub := { s.hub with ready := false, instar := min s.hub.instar 2 } }

/-- PERST_ASSERT (R482, R486): the CXL controller and PHY, the scheduler front end, all die logic and every link are
reset; no role changes (R452). -/
def execPerstAssert (s : State) : Host.Outcome State Fault Refusal :=
  .next <|
    if s.pins.perst then s
    else
      let s := { s with pins := { s.pins with perst := true } }
      if s.por then s
      else
        let s := functionReset (wideCause s 4 2)
        hubBack (dropLink (resetCxl { wipeDies s with sched := {}, kvPages := [], chunks := [] }))

/-- A die that the reset which ends did hold starts its release sequence (R483, R484). -/
def restartDie (s : State) (d : Nat) : State :=
  let x := getDie s d
  if x.dieRst ∨ x.phase ≠ .held then s else startRelease s d

/-- PERST_RELEASE (R356, R489): TIER4_SIZE_GIB reads 0; the dies that no other source holds start R484. -/
def execPerstRelease (s : State) : Host.Outcome State Fault Refusal :=
  .next <|
    if !s.pins.perst then s
    else
      let s := { s with pins := { s.pins with perst := false }, dict := tdel s.dict (objKey 0x5810 2) }
      if s.por ∨ s.coc.trip then s else [0, 1, 2, 3].foldl restartDie s

/-! ### POR and COCOON_TRIP -/

/-- Every byte of the package DRAM is undefined, no codeword uncorrectable. -/
def loseDram (s : State) : State :=
  { undefSpace s .dram 0 (4 * dieSpan) with dramUE := [] }

/-- The roles after POR or COCOON_TRIP: afresh, but for fused dies (R452, R516). -/
def freshRoles (s : State) : State :=
  let fused (a b : Nat) : Vector Nat 4 := Vector.ofFn fun i => if s.coc.fuses[i] then a else b
  { s with accord := { s.accord with roles := fused 5 0, causes := fused 5 0, begun := false, hb := [], declared := [] } }

/-- The hub in reset: the straps' samples, the reset cause and the level of QUENCH_N stay. -/
def resetHub (h : Hub) : Hub :=
  { cause := h.cause, bootSel := h.bootSel, clkMode := h.clkMode, quenchPin := h.quenchPin, irqs := h.irqs
    readData := h.readData }

/-- Outputs of the hub while it is in reset after POR was released (R533). -/
def idlePins (p : Pins) : Pins := { p with tx := .idle, fn := .released, pmb := .released }

/-- A reset of everything but the Cocoon and the always-on domain (R482, R356): sessions close, the imago cache is
empty, what the Cocoon stores and what lies in NAND stays. -/
def resetPackage (s : State) : State :=
  let s := closeSessions { s with jobs := [], cmds := [], posts := [], groups := [], aspaces := [], rings := [] } 5
  let s := loseDram (wipeDies s)
  let s := [0, 1, 2, 3].foldl (fun s d => updDie s d fun x =>
    { x with dieRst := true, dramKept := false, rejoin := false, upd := false, updNs := none, queue := [], noSpare := []
             autoTried := false }) s
  freshRoles { s with hub := resetHub s.hub, sched := {}, dict := [], fnet := {}, imagos := [], kvPages := [], chunks := []
                      svc := { copyA := s.svc.copyA, copyB := s.svc.copyB }, trees := [], pools := [], commits := []
                      flash := { s.flash with up := false }
                      pmb := { setMv := s.pmb.setMv }, pow := { vinUp := s.pow.vinUp, vinMv := s.pow.vinMv } }

/-- Measurement registers zeroed by POR and COCOON_TRIP (R522). -/
def zeroMr : Vector (List Byte) 8 := Vector.replicate 8 (List.replicate 32 0)

/-- What POR leaves in the Cocoon: its non-volatile store (R482, R518). -/
def porCocoon (c : Cocoon) : Cocoon :=
  { chanMaps := c.chanMaps, owned := c.owned, orderSeq := c.orderSeq, keys := c.keys, keyLeft := c.keyLeft, powerCeil := c.powerCeil
    powerLeft := c.powerLeft, dieCeil := c.dieCeil, pkgCeil := c.pkgCeil, juncTrip := c.juncTrip, dramTrip := c.dramTrip
    unlockLeft := c.unlockLeft, unlock := c.unlock, debug := c.debug, fuses := c.fuses, rootKey := c.rootKey
    tripCause := c.tripCause, tripSensor := c.tripSensor, tripUs := c.tripUs, leaves := c.leaves, aliasNo := c.aliasNo
    bootCount := c.bootCount, banks := c.banks, prefer := c.prefer, minSec := c.minSec, running := c.running
    retired := c.retired }

/-- The pins during POR (R533); inputs keep their level. -/
def porPins (p : Pins) : Pins := { perst := p.perst }

/-- Power-on reset (R482, R487): every block; the RESET_CAUSE registers hold the POR bit alone. -/
def assertPor (s : State) : State :=
  let s := resetPackage s
  let s := { s with stats := [], por := true, coc := porCocoon s.coc, pins := porPins s.pins
                    accord := { s.accord with epoch := 0 }
                    hub := { s.hub with cause := 1, quenchPin := false, bootSel := 0, clkMode := 0 }
                    dies := tmap (fun _ x => { x with cause := 1 }) s.dies
                    clusters := tmap (fun _ x => { x with cause := 1 }) s.clusters }
  resetRecord s 5 0 0xFFFF

/-- POR_ASSERT (R482). -/
def execPorAssert (s : State) : Host.Outcome State Fault Refusal :=
  .next (if s.por then s else assertPor s)

/-- COCOON_TRIP is asserted (R507, R508, R482): every block but the Cocoon and the always-on domain; the trip is
recorded, and held until POR when it is the third within 10 minutes. -/
def assertTrip (s : State) (cause sensor reading : Nat) : State :=
  if s.coc.trip then s
  else
    let s := sillage (bump s 0xE0B2 1 1) 0x0301 5 noJob (packItems [(16, sensor), (16, reading)])
    let s := resetPackage (wideCause s 5 1)
    let third := match s.coc.tripTimes with
      | _ :: t :: _ => decide (s.nowNs ≤ t + 600000000000)
      | _ => false
    { s with coc := { s.coc with trip := true, latched := third, tripCause := cause, tripSensor := sensor
                                 tripUs := uptimeUs s, tripTimes := (s.nowNs :: s.coc.tripTimes).take 2, mr := zeroMr }
             pins := { idlePins s.pins with thermtrip := cause = 1 || cause = 2 || cause = 7 } }

/-- What a trip comparator has seen (R507); causes 5 and 6 act where the supply is lost or the pair disagrees. -/
def tripDue (s : State) (cause sensor : Nat) (reading : Int) : Bool :=
  match cause with
  | 1 => s.pow.hotJ.any fun e => e.1 % 17 + 1 = sensor && 2 ≤ e.2
  | 2 => s.pow.hotM.any fun e => e.1 % 128 + 1 = sensor && 2 ≤ e.2
  | 3 => 50 ≤ s.pow.overP
  | 4 => s.pow.overC.toList.any (10 ≤ ·)
  | 7 => 200 ≤ reading
  | _ => false

/-- TRIP (R507): a comparator fires. -/
def execTrip (cause : Fin 8) (sensor reading : BitVec 16) (s : State) : Host.Outcome State Fault Refusal :=
  .next (if tripDue s cause sensor.toNat reading.toInt then assertTrip s cause sensor.toNat reading.toNat else s)

/-- SUPPLY_LOSS (R490). Uptime restarts from 0 when VAON returns. -/
def execSupplyLoss (r : Rail) (s : State) : Host.Outcome State Fault Refusal :=
  .next <|
    match r with
    | .vaon => { (if s.por then s else assertPor s) with nowNs := 0, refOk := false }
    | .v1p8aux | .vio => if s.por then s else assertPor s
    | .vinCore =>
      let s := { s with pow := { s.pow with vinUp := false } }
      if s.por then s else assertTrip s 5 0 0
    | .vdram => if s.por then s else assertTrip s 5 0 0

/-- REFERENCE_QUALIFIED (R481). -/
def execReferenceQualified (s : State) : Host.Outcome State Fault Refusal := .next { s with refOk := true }

/-- VIN_CORE_UP (R490). -/
def execVinCoreUp (s : State) : Host.Outcome State Fault Refusal :=
  .next { s with pow := { s.pow with vinUp := true } }

/-! ### Release of POR and of a trip -/

/-- Every change of DEBUG_STATE extends MR6 with its new value's digest and is recorded (R522, R526). -/
def setDebug (s : State) (v : Nat) : State :=
  if s.coc.debug = v then s
  else
    let s := extendMr { s with coc := { s.coc with debug := v } } 6 (shake256 [BitVec.ofNat 8 v] 32) "DEBUG"
    let s := { s with pins := { s.pins with tdo := if v = 1 then .active else .released } }
    sillage s 0x0303 5 noJob (packItems [(8, s.coc.unlockLeft)])

/-- The generation of a new alias key starts (R519). -/
def startAlias (s : State) : State :=
  { s with coc := { s.coc with aliasNo := s.coc.aliasNo + 1, aliasGen := true, aliasOk := false, aliasLeaf := 0 } }

/-- What every release of POR or COCOON_TRIP does (R489, R508, R519, R522, R526): BOOT_COUNT rises, an armed unlock takes
effect and an unlock ends (DEBUG_UNLOCK then reads LOCK, DEDUCED, log 65), the straps are measured, instar 0 runs. -/
def releaseBoot (s : State) : State :=
  let s := { s with coc := { s.coc with bootCount := (s.coc.bootCount + 1) % 2 ^ 32, up := false, restart := false
                                        swapping := false, mr := zeroMr
                                        unlock := if s.coc.debug = 2 then s.coc.unlock else 0 } }
  let s := extendMr s 6 (shake256 [BitVec.ofNat 8 (s.hub.bootSel + 4 * s.hub.clkMode)] 32) "STRAPS"
  startAlias (setDebug s (if s.coc.debug = 2 then 1 else 0))

/-- BOOT_SEL MANUFACTURING while debug is locked is recorded (R488); R448 names no event for it, so its code and detail
are free values. -/
def strapRecord (s : State) : State :=
  if s.hub.bootSel ≠ 3 ∨ s.coc.debug = 1 then s
  else
    let n := s.free
    sillage { s with free := n + 2 } (Config.freeNat n) 5 noJob (Config.freeNat (n + 1))

/-- The channel maps are loaded from the non-volatile store (R307). -/
def loadMaps (s : State) : State :=
  [0, 1, 2, 3].foldl (fun s d => updDie s d fun x => { x with map := tgetD s.coc.chanMaps d [] }) s

/-- POR_RELEASE (R307, R488, R489): the channel maps are loaded and the straps are sampled. -/
def execPorRelease (bootSel clkMode : Fin 4) (s : State) : Host.Outcome State Fault Refusal :=
  .next <|
    if !s.por then s
    else
      let s := { s with por := false, hub := { s.hub with bootSel := bootSel, clkMode := clkMode } }
      let s := { s with pins := { idlePins s.pins with
        nandCe := .high, nandWp := .low, nandOut := .low, clkreq := .active
        xtal := if 2 ≤ clkMode.val then .released else .active } }
      strapRecord (releaseBoot (loadMaps s))

/-- TRIP_RELEASE (R508): 1 s after the trip, every sensor at least 10 °C below its threshold, unless it is held until
POR. -/
def execTripRelease (cool : Bool) (s : State) : Host.Outcome State Fault Refusal :=
  .next <|
    if s.por ∨ !s.coc.trip ∨ s.coc.latched ∨ !cool ∨ s.nowNs < s.coc.tripUs * 1000 + 1000000000 then s
    else releaseBoot { s with coc := { s.coc with trip := false }, pins := { s.pins with thermtrip := false } }

/-! ### The Cocoon's pair and its alias -/

/-- LOCKSTEP_MISMATCH (R506): the pair restarts; a second mismatch within 1 s of the first trips. -/
def execLockstepMismatch (s : State) : Host.Outcome State Fault Refusal :=
  .next <|
    if s.por ∨ !s.coc.up then s
    else match s.coc.mismatch with
      | some t => if s.nowNs ≤ t + 1000000000 then assertTrip s 6 0 0 else again s
      | none => again s
where
  again (s : State) : State :=
    bump { s with coc := { s.coc with restart := true, mismatch := some s.nowNs, aliasGen := false, aliasOk := false } }
      0xE0B1 1 1

/-- COCOON_RESTART_DONE (R506, R525): the pair runs again; a bank swap takes effect where the new image has started, and
counts as failed where it has not. -/
def execCocoonRestartDone (ok : Bool) (s : State) : Host.Outcome State Fault Refusal :=
  .next <|
    if s.por ∨ !s.coc.restart then s
    else
      let old := s.coc.prefer.getD 0 0
      let swap := s.coc.swapping
      let s := { s with coc := { s.coc with restart := false, swapping := false } }
      let s := if swap then
          (if ok ∧ (bankImage s 0 (1 - old)).ok then recordFw (activate s 0 0 (1 - old) true) 1 4 0 (1 - old)
           else activate { s with coc := { s.coc with stageState := 4 } } 0 0 old false)
        else if (bankImage s 0 old).ok then activate s 0 0 old false
        else if (bankImage s 0 (1 - old)).ok then activate s 0 0 (1 - old) false
        else { s with coc := { s.coc with up := false } }
      startAlias s

/-- ALIAS_GEN_DONE (R519): the next identity leaf is committed, then signs the alias; with none left nothing is
certified. -/
def execAliasGenDone (s : State) : Host.Outcome State Fault Refusal :=
  .next <|
    let c := s.coc
    if !c.aliasGen ∨ !c.up ∨ c.restart then s
    else if c.leaves = 0 then { s with coc := { c with aliasGen := false } }
    else { s with coc := { c with aliasGen := false, aliasOk := true, leaves := c.leaves - 1, certLeaf := 1048576 - c.leaves
                                  certMr0 := c.mr[0] } }

/-! ### DIE_RST -/

/-- DIE_RST is asserted on a die (R482, R487); groups homed on it are gone (R243), key-value pages on it lost. -/
def assertDie (s : State) (d : Nat) : State :=
  let s := resetRecord (dieBits s d 5) 5 5 (d * 256 + 0xFF)
  let s := (s.groups.filter fun g => g.2.home = d).foldl (fun s g => destroyGroup s g.1) s
  let s := setLags (losePool s d)
  updDie (wipeDie s d) d fun x => { x with dieRst := true, rstAsk := none }

/-- DIE_RST_ASSERT (R457, R485, R491): at once on a die that is isolated, if its always-on link answers; on a die that
DIE_SERVICE is draining, an idle request first, during which another one cancels a pending release (R492). -/
def execDieRstAssert (d : Die) (s : State) : Host.Outcome State Fault Refusal :=
  .next <|
    let x := getDie s d
    if s.por ∨ x.dieRst then s
    else if role s d = 4 ∨ role s d = 5 then (if answersAlwaysOn s d then assertDie s d else s)
    else if x.rstAsk.isSome then setDie s d { x with enable := false }
    else if role s d = 1 ∧ !x.upd ∧ x.phase = .done then setDie s d { x with rstAsk := some s.nowNs }
    else s

/-- DIE_RST_RELEASE (R484, R489 step 5): a die that is neither lost nor retired starts its release sequence, once the hub
runs its instar 2 and VIN_CORE is up; under BOOT_SEL RECOVERY the dies stay in DIE_RST. During a drydown of the die it
is held as PENDING_ENABLE (R492). -/
def execDieRstRelease (d : Die) (s : State) : Host.Outcome State Fault Refusal :=
  .next <|
    let x := getDie s d
    if s.por ∨ s.coc.trip ∨ s.hub.instar < 2 ∨ s.hub.recovery ∨ !s.pow.vinUp ∨ 3 < role s d then s
    else if x.dieRst then startRelease s d
    else if x.rstAsk.isSome then setDie s d { x with enable := true }
    else s

/-- Every die that can serve has completed its release sequence (R489 step 6). -/
def diesReady (s : State) : Bool :=
  [0, 1, 2, 3].all fun d => role s d = 4 || role s d = 5 || (getDie s d).phase = .done

/-- Instar 3 runs on the hub and the part is READY; the first such moment after POR or a trip forms the first accord
(R452, R489). -/
def settleReady (s : State) : State :=
  if s.hub.instar < 2 ∨ s.hub.inReset ∨ s.hub.recovery ∨ s.pins.perst ∨ !diesReady s then s
  else
    let s := if s.hub.instar < 3 then
      let bank := s.coc.running.getD 1 0
      extendMr { s with hub := { s.hub with instar := 3, ready := true } } 1 (bankImage s 1 bank).digestB "HUBFW" else s
    if s.accord.begun then s else accordChange { s with accord := { s.accord with begun := true } } id

/-- DIE_RELEASE_DONE (R484 step 6): instar 3 runs; after a rejoin the die is REJOINING; else it takes the role it has. Its
page pool is cut to KV_POOL_GIB; its DRAM was trained where its contents were not kept (R484 step 4); a request for
migration that a reset abandoned is queued again (R318). -/
def execDieReleaseDone (d : Die) (s : State) : Host.Outcome State Fault Refusal :=
  .next <|
    let x := getDie s d
    if x.phase ≠ .running ∨ x.instar ≠ 2 then s
    else
      let s := setDie s d { x with phase := .done, instar := 3, dramKept := true
                                   trained := if x.dramKept then x.trained else []
                                   trainNs := if x.dramKept then x.trainNs else s.nowNs }
      let s := requeueMig s d
      let s := extendMr s (d + 2) (bankImage s 2 (s.coc.running.getD (d.val + 2) 0)).digestB "DIEFW"
      let s := setPool s d { getPool s d with gib := setting s (0x4040 + 0x400 * d) 1 }
      let s := if x.rejoin then setRole s d 3 else s
      settleReady s

/-! ### CLUSTER_RST and CORE_RST -/

/-- Some started instruction of a core has not retired. -/
def coreActive (k : Core) : Bool := (coreTasks k).any fun t => (t.fq ++ t.eq).any (·.started)

/-- The cores that a block's idle request reaches. -/
def blockCores (b : IdleBlock) (c : Nat) : Bool :=
  match b with
  | .cluster k => c / 32 = k.val
  | .core x => c = x.val
  | .die d => c / 512 = d.val

/-- The cores of a block stop issuing (R485). -/
def askCores (s : State) (b : IdleBlock) : State :=
  (s.cores.filter fun c => blockCores b c.1).foldl (fun s c => updCore s c.1 fun k => { k with idleReq := true }) s

/-- A job with a task on a block that is reset ends with FAIL_QUENCHED, unless it is interrupted (R485, R468). -/
def quenchBlock (s : State) (b : IdleBlock) : State :=
  let hit := s.jobs.filter fun j => j.2.interrupted.isNone && j.2.cores.any (blockCores b)
  hit.foldl (fun s j => failJobService s j.1 failQuenched) s

/-- The reset that an idle request waited for is asserted (R482, R485, R487): a cluster goes cold; a core, whose
uncorrectable words stay so (R74), ramps at its release (R71), where a fence clears with a self-test (R88). -/
def assertBlock (s : State) (b : IdleBlock) : State :=
  let s := quenchBlock s b
  let cs := (s.cores.filter fun c => blockCores b c.1).map (·.1)
  let s := match b with
    | .die _ => s
    | .cluster _ => cs.foldl (fun s c => updCore (loseCore s c) c fun k => { k with idleReq := false }) s
    | .core _ => cs.foldl (fun s c => updCore (undefCore s c) c fun k => { k with idleReq := false }) s
  match b with
  | .cluster k => updCluster (clusterCause s k 6) k fun x =>
      { x with power := .cold, pendingWake := false, rstAsk := none, target := none }
  | .core c => updCore (releaseFence (clusterCause s (c / 32) 7) c) c fun k => { k with ramp := true }
  | .die d => let t := assertDie (quenchBlock s b) d; if (getDie s d).enable then startRelease t d else t

/-- A reset of the block waits for it to go idle, since when. -/
def askedAt (s : State) (b : IdleBlock) : Option Nat :=
  match b with
  | .cluster k => (getCluster s k).rstAsk
  | .core c => if (getCore s c).idleReq && (getCluster s (c / 32)).rstAsk.isNone then some (getCore s c).idleNs else none
  | .die d => (getDie s d).rstAsk

/-- CLUSTER_RST (R482, R485): the idle request. -/
def execClusterRst (k : ClusterNo) (s : State) : Host.Outcome State Fault Refusal :=
  .next <|
    let x := getCluster s k
    if !dieUp s (k / 16) ∨ x.power ≠ .warm ∨ x.rstAsk.isSome then s
    else askCores (setCluster s k { x with rstAsk := some s.nowNs }) (.cluster k)

/-- CORE_RST (R482, R485): the idle request. -/
def execCoreRst (c : CoreNo) (s : State) : Host.Outcome State Fault Refusal :=
  .next <|
    let k := getCore s c
    if !dieUp s (c / 512) ∨ (getCluster s (c / 32)).power ≠ .warm ∨ k.retired ∨ k.idleReq then s
    else setCore s c { k with idleReq := true, idleNs := s.nowNs }

/-- IDLE_REPORT (R485): the block reports idle and the reset is asserted. -/
def execIdleReport (b : IdleBlock) (s : State) : Host.Outcome State Fault Refusal :=
  .next <|
    if (askedAt s b).isNone ∨ (s.cores.any fun c => blockCores b c.1 && coreActive c.2) then s else assertBlock s b

/-- A reset went ahead after IDLE_TIMEOUT_US: IDLE_FORCED of the block (R487). -/
def forceCause (s : State) (b : IdleBlock) : State :=
  let die (s : State) (d : Nat) : State := updDie s d fun x => { x with cause := x.cause ||| 2 ^ 8 }
  let cluster (s : State) (k : Nat) : State := updCluster s k fun x => { x with cause := x.cause ||| 2 ^ 8 }
  match b with
  | .cluster k => cluster s k
  | .core c => cluster s (c / 32)
  | .die d => die s d

/-- IDLE_TIMEOUT (R485): the reset is forced. -/
def execIdleTimeout (b : IdleBlock) (s : State) : Host.Outcome State Fault Refusal :=
  .next <|
    match askedAt s b with
    | none => s
    | some t => if s.nowNs < t + setting s 0x2300 1 * 1000 then s else assertBlock (forceCause s b) b

end Sys2Proof.Machine
end

