-- ==== Sys2Proof/Machine/Links.lean ====
section
/-! DEFINITION. Bridges and hub links (R28 to R33). Links 0 to 5 are B01, B02, B03, B12, B13, B23; 6 to 9 are H0 to H3. -/

namespace Sys2Proof.Machine

/-- Spare lanes of a link (R21). -/
def spareLanes (l : Nat) : Nat := if l < 6 then 16 else 8

/-- The link code of R384. -/
def linkCode (l : Nat) : Nat := if l < 6 then l else l + 2

/-- A change of a link's state value: its event and its record (R34, R384). -/
def linkRecord (s : State) (l : Nat) : State :=
  let x := getLink s l
  sillage (postEvent s 2 (linkCode l * 256 + x.state)) 0x0020 4 noJob
    (packItems [(8, linkCode l), (8, x.state), (8, spareLanes l - x.used)])

/-- The firmware of a die has reached instar 2 (R484 step 3; 0xFF is no instar, R502). -/
def inInstar2 (x : DieHw) : Bool := 2 ≤ x.instar && x.instar ≤ 3

/-- The dies at a link's ends have left reset and run instar 2, and so does the hub: the link may train (R28, R484 step
5). -/
def linkReady (s : State) (l : Nat) : Bool :=
  !s.por && !s.pins.perst && !s.coc.trip && !s.hub.inReset && 2 ≤ s.hub.instar
    && (linkEnds l).all fun d => !(getDie s d).dieRst && (getDie s d).phase ≠ .held && inInstar2 (getDie s d)

/-- LINK_TRAIN (R28): a training attempt that finds lanes bad replaces them by spares; with more bad lanes than spares
the attempt fails, and the third failure marks the link DOWN. -/
def execLinkTrain (l : Fin 10) (badLanes : Nat) (s : State) : Host.Outcome State Fault Refusal :=
  .next <|
    let x := getLink s l
    if x.up ∨ x.state = 2 ∨ !linkReady s l then s
    else if badLanes ≤ spareLanes l then
      linkRecord (setLink s l { x with up := true, used := badLanes, tries := 0, state := if badLanes = 0 then 0 else 1 }) l
    else if x.tries < 2 then setLink s l { x with tries := x.tries + 1 }
    else linkRecord (setLink s l { x with tries := 0, state := 2 }) l

/-- LANE_RETRAIN (R29): a lane over the error threshold is retrained online. -/
def execLaneRetrain (l : Fin 10) (s : State) : Host.Outcome State Fault Refusal :=
  .next <|
    let x := getLink s l
    if !x.up ∨ x.state = 2 then s else setLink s l { x with retrain := true }

/-- LANE_RETRAIN_DONE (R29): full rate resumes. -/
def execLaneRetrainDone (l : Fin 10) (s : State) : Host.Outcome State Fault Refusal :=
  .next <|
    let x := getLink s l
    if !x.retrain then s else setLink s l { x with retrain := false }

/-- The flits that wait in one direction of a link go over the relays (R30, R31): those of even pages by one, those of odd
pages by the other. -/
def rerouteDir (s : State) (a b : Nat) (x : LinkDir) : State :=
  let both (s : State) (c : TrafficClass) (n : Nat) : State := send (send s c a b 0 (ceilDiv n 2)) c a b 1 (n / 2)
  both (both (both s .ctrl x.ctrlWait) .req x.reqWait) .data x.dataWait

/-- The nodes that a link joins, the lower-numbered first; the hub is node 4. -/
def linkNodes (l : Nat) : Nat × Nat := ((linkEnds l).headD 0, ((linkEnds l)[1]?).getD 4)

/-- A link goes DOWN: what waited on it takes the relays (R30). -/
def downLink (s : State) (l : Nat) : State :=
  let x := getLink s l
  let s := setLink s l { x with state := 2, retrain := false, toHigh := {}, toLow := {} }
  rerouteDir (rerouteDir s (linkNodes l).1 (linkNodes l).2 x.toHigh) (linkNodes l).2 (linkNodes l).1 x.toLow

/-- LINK_FAULT (R30, R33): the link stops carrying traffic while the dies at its ends answer on their always-on links: it is
DOWN until the next reset of a die it joins, its traffic is rerouted; no accord change. -/
def execLinkFault (l : Fin 10) (s : State) : Host.Outcome State Fault Refusal :=
  .next <|
    let x := getLink s l
    if !x.up ∨ x.state = 2 ∨ !(linkEnds l).all (answersAlwaysOn s) then s
    else linkRecord (downLink s l) l

end Sys2Proof.Machine
end

