-- ==== Sys2Proof/Machine/Objects.lean ====
section
/-! DEFINITION. The objects of the dictionary (R423 to R425, R437): the table of their types, access rights and ranges,
and what each reads. -/

namespace Sys2Proof.Machine

/-- A row of the object tables. It stands for `n` indices from `base`, `stride` apart, and subindices `lo` to `hi`.
Types are the codes of R424; access is 0 RO, 1 RW, 2 WO, 3 RWS, 4 RWC, 5 CO; `min` to `max` is the fixed range, the
listed values of an ENUM8, or the defined bits of a MASK32; `step` is its step. -/
structure ObjRow where
  base   : Nat  -- first index
  stride : Nat := 1  -- distance of its indices
  n      : Nat := 1  -- number of its indices
  lo     : Nat := 1  -- first subindex
  hi     : Nat := 1  -- last subindex
  ty     : Nat  -- type code
  acc    : Nat := 0  -- access
  min    : Nat := 0  -- least value
  max    : Nat := 2 ^ 64 - 1  -- greatest value
  step   : Nat := 1  -- step
  deriving DecidableEq, Repr

def dieObj (base lo hi ty acc min max step : Nat) : ObjRow := ⟨base, 0x400, 4, lo, hi, ty, acc, min, max, step⟩
def memObj (base lo hi ty acc min max step : Nat) : ObjRow := ⟨base, 0x100, 4, lo, hi, ty, acc, min, max, step⟩
/-- Objects of the 64 partitions of one die. -/
def partObj (d sub ty acc min max step : Nat) : ObjRow := ⟨0x5040 + 0x100 * d, 1, 64, sub, sub, ty, acc, min, max, step⟩

/-- Identity, communication, mailbox and service objects (R432, R434, R438, R447). -/
def rowsService : List ObjRow := [
  { base := 0x1000, hi := 2, ty := 13 }, { base := 0x1000, lo := 3, hi := 3, ty := 3 }, { base := 0x1001, ty := 5 },
  { base := 0x1002, hi := 4, ty := 4 }, { base := 0x1003, ty := 4 }, { base := 0x1004, ty := 12 },
  { base := 0x1005, ty := 5 }, { base := 0x1100, ty := 1, acc := 1, max := 1 },
  { base := 0x1100, lo := 2, hi := 2, ty := 2, acc := 3, max := 255 },
  { base := 0x1100, lo := 3, hi := 4, ty := 2, acc := 3, min := 1, max := 255 },
  { base := 0x1100, lo := 5, hi := 5, ty := 2, acc := 3, max := 255 },
  { base := 0x1100, lo := 6, hi := 6, ty := 2, acc := 3, min := 1, max := 255 },
  { base := 0x1101, ty := 5, acc := 3, max := 2 ^ 48 - 1 }, { base := 0x1102, ty := 3, acc := 3, min := 0x600, max := 0xFFFF },
  { base := 0x1103, ty := 1, acc := 1, max := 1 }, { base := 0x1104, ty := 2 }, { base := 0x1110, ty := 5, acc := 2 },
  { base := 0x1200, hi := 2, ty := 5 }, { base := 0x1F10, n := 3, ty := 4, acc := 2 }, { base := 0x1F13, ty := 10 },
  { base := 0x1F13, lo := 2, hi := 2, ty := 4 }, { base := 0x1F13, lo := 3, hi := 3, ty := 12 }, { base := 0x1F80, ty := 10 },
  { base := 0x1F80, lo := 2, hi := 2, ty := 12 }, { base := 0x1F80, lo := 3, hi := 4, ty := 3 },
  { base := 0x1F80, lo := 5, hi := 6, ty := 14 }]

/-- Package objects and the scheduler's (R34, R138, R421, R438, R478, R502, R534). -/
def rowsPackage : List ObjRow := [
  { base := 0x2000, ty := 3 }, { base := 0x2000, lo := 2, hi := 2, ty := 11 }, { base := 0x2100, hi := 6, ty := 10 },
  { base := 0x2101, n := 2, hi := 6, ty := 2 }, { base := 0x2110, hi := 4, ty := 10 }, { base := 0x2111, hi := 4, ty := 2 },
  { base := 0x2200, ty := 4 }, { base := 0x2200, lo := 2, hi := 2, ty := 11 }, { base := 0x2201, n := 2, hi := 4, ty := 10 },
  { base := 0x2203, ty := 2, acc := 1, min := 3, max := 50 }, { base := 0x2203, lo := 2, hi := 3, ty := 1, acc := 1, max := 1 },
  { base := 0x2203, lo := 4, hi := 4, ty := 3, acc := 1, min := 1, max := 2000 }, { base := 0x2204, ty := 3, acc := 2 },
  { base := 0x2204, lo := 2, hi := 2, ty := 10 }, { base := 0x2205, ty := 4, acc := 1 },
  { base := 0x2205, lo := 2, hi := 2, ty := 4 }, { base := 0x2300, ty := 12, acc := 1, min := 10, max := 10000 },
  { base := 0x2300, lo := 2, hi := 3, ty := 2 }, { base := 0x2300, lo := 4, hi := 4, ty := 11 },
  { base := 0x2300, lo := 5, hi := 5, ty := 4, acc := 2 }, { base := 0x2301, hi := 5, ty := 2 }, { base := 0x2400, ty := 11 },
  { base := 0x2400, lo := 2, hi := 2, ty := 11, acc := 1, max := 0x1F }, { base := 0x3000, hi := 2, ty := 3 },
  { base := 0x3010, hi := 4, ty := 2, acc := 1, max := 16 }, { base := 0x3011, hi := 4, ty := 12, acc := 1, max := 10000000 },
  { base := 0x3012, hi := 4, ty := 2 }, { base := 0x3020, ty := 12, acc := 1, max := 100000 },
  { base := 0x3040, n := 64, ty := 3, acc := 1, min := 1, max := 65535 }, { base := 0x3040, n := 64, lo := 2, hi := 2, ty := 5 },
  { base := 0x3040, n := 64, lo := 3, hi := 3, ty := 3 },
  { base := 0x3080, ty := 12, acc := 1, min := 100, max := 60000000 }]

/-- Objects of a die (R34, R78, R89, R172, R268, R478, R502). -/
def rowsDie : List ObjRow := [
  dieObj 0x4010 1 16 10 0 0 2 1, dieObj 0x4011 1 16 2 0 0 32 1, dieObj 0x4012 1 1 3 2 0 65535 1, dieObj 0x4013 1 17 11 0 0 511 1,
  dieObj 0x4020 1 1 2 3 0 48 4, dieObj 0x4021 1 16 11 0 0 0xFFFFFFFF 1, dieObj 0x4030 1 2 2 1 1 14 1, dieObj 0x4030 3 3 2 0 0 16 1,
  dieObj 0x4040 1 1 2 3 0 120 1, dieObj 0x4041 1 1 5 0 0 125829120 1]

/-- Objects of bonded DRAM (R331). -/
def rowsDram : List ObjRow := [
  memObj 0x5000 1 2 2 0 0 120 1, memObj 0x5010 1 128 10 0 0 5 1, memObj 0x5011 1 128 2 0 0 255 1, memObj 0x5012 1 128 5 0 0 0 1,
  memObj 0x5013 1 128 5 0 0 0 1, memObj 0x5020 1 1 2 2 0 127 1, memObj 0x5020 2 2 10 0 0 3 1, memObj 0x5020 3 3 2 0 0 255 1,
  memObj 0x5020 4 4 3 0 0 1024 1, memObj 0x5020 5 5 2 0 0 8 1, memObj 0x5021 1 1 3 1 1 65535 1, memObj 0x5021 2 2 3 1 24 8760 1,
  memObj 0x5021 3 3 2 1 1 168 1, memObj 0x5030 1 1 2 1 0 63 1]
  ++ [0, 1, 2, 3].flatMap fun d => [partObj d 1 10 1 0 2 1, partObj d 2 3 1 0 15600 1, partObj d 3 3 1 4 4096 4,
    partObj d 4 5 0 0 0 1, partObj d 5 5 0 0 0 1]

/-- Tiers, flash and imagos (R357, R478). -/
def rowsTier : List ObjRow := [
  { base := 0x5800, hi := 4, ty := 2, acc := 1, min := 1, max := 32 }, { base := 0x5801, hi := 4, ty := 2, acc := 1, max := 64 },
  { base := 0x5802, hi := 4, ty := 2, acc := 1, max := 64 }, { base := 0x5810, ty := 4, acc := 3, max := 2 ^ 31 - 1 },
  { base := 0x5810, lo := 2, hi := 2, ty := 3, acc := 3, max := 4096 },
  { base := 0x5820, ty := 12, acc := 1, min := 10, max := 1000000 }, { base := 0x5840, ty := 4, acc := 1, min := 5000, max := 1000000 },
  { base := 0x5840, lo := 2, hi := 2, ty := 3, acc := 1, min := 16, max := 4096 }, { base := 0x5841, hi := 8, ty := 10 },
  { base := 0x5842, hi := 8, ty := 4 }, { base := 0x8000, ty := 2 }, { base := 0x8100, n := 64, ty := 10 },
  { base := 0x8100, n := 64, lo := 2, hi := 2, ty := 5 }, { base := 0x8100, n := 64, lo := 3, hi := 3, ty := 4 },
  { base := 0x8100, n := 64, lo := 4, hi := 4, ty := 1, acc := 1, max := 1 }, { base := 0x8100, n := 64, lo := 5, hi := 5, ty := 10 }]

/-- Power and thermal objects (R332, R503). -/
def rowsPower : List ObjRow := [
  { base := 0x6000, ty := 3, acc := 1, min := 400, max := 2400 }, { base := 0x6000, lo := 2, hi := 2, ty := 3 },
  { base := 0x6001, hi := 4, ty := 3, acc := 1, min := 50, max := 320 },
  { base := 0x6001, lo := 5, hi := 5, ty := 3, acc := 1, min := 200, max := 1250 }, { base := 0x6002, hi := 4, ty := 3 },
  { base := 0x6003, ty := 2, acc := 1, min := 85, max := 102 },
  { base := 0x6004, hi := 4, ty := 3, acc := 1, min := 600, max := 1050, step := 50 },
  { base := 0x6010, ty := 2, acc := 1, min := 80, max := 92 }, { base := 0x6020, n := 4, hi := 128, ty := 6 },
  { base := 0x6024, n := 4, hi := 16, ty := 2 }, { base := 0x6028, n := 4, hi := 8, ty := 10 },
  { base := 0x6030, n := 8, hi := 16, ty := 3 }, { base := 0x6038, n := 4, hi := 16, ty := 10 },
  { base := 0x603C, n := 4, hi := 17, ty := 6 }, { base := 0x6040, ty := 3, acc := 1, min := 1750, max := 1850, step := 5 },
  { base := 0x6040, lo := 2, hi := 2, ty := 2, acc := 3, min := 8, max := 0x77 },
  { base := 0x6040, lo := 3, hi := 3, ty := 1, acc := 1, max := 1 }, { base := 0x6040, lo := 4, hi := 4, ty := 1, acc := 2 },
  { base := 0x6041, hi := 2, ty := 3 }, { base := 0x6041, lo := 3, hi := 3, ty := 10 }, { base := 0x6041, lo := 4, hi := 4, ty := 3 }]

/-- Cocoon objects (R514) and security objects (R527). -/
def rowsCocoon : List ObjRow := [
  { base := 0x7000, ty := 10, acc := 5, max := 1 }, { base := 0x7000, lo := 2, hi := 2, ty := 5, acc := 5 },
  { base := 0x7001, hi := 4, ty := 14, acc := 4 }, { base := 0x7001, lo := 0xFE, hi := 0xFE, ty := 2 },
  { base := 0x7010, ty := 3, acc := 4, min := 400, max := 2400 }, { base := 0x7010, lo := 0xFE, hi := 0xFE, ty := 2 },
  { base := 0x7011, hi := 4, ty := 3, acc := 5, min := 50, max := 320 },
  { base := 0x7011, lo := 5, hi := 5, ty := 3, acc := 5, min := 200, max := 1250 },
  { base := 0x7012, ty := 2, acc := 5, min := 90, max := 105 }, { base := 0x7012, lo := 2, hi := 2, ty := 2, acc := 5, min := 85, max := 95 },
  { base := 0x7020, ty := 10, acc := 4, max := 2 }, { base := 0x7020, lo := 0xFE, hi := 0xFE, ty := 2 },
  { base := 0x7021, ty := 10, acc := 5, max := 2 }, { base := 0x7030, n := 4, ty := 1, acc := 4, max := 1 },
  { base := 0x7030, n := 4, lo := 0xFE, hi := 0xFE, ty := 2 }, { base := 0x7040, ty := 14, acc := 5 },
  { base := 0x7050, ty := 10, acc := 5, max := 7 }, { base := 0x7050, lo := 2, hi := 2, ty := 3, acc := 5 },
  { base := 0x7050, lo := 3, hi := 3, ty := 12, acc := 5 }, { base := 0x9000, ty := 10 }, { base := 0x9000, lo := 2, hi := 3, ty := 4 },
  { base := 0x9001, hi := 8, ty := 14 }, { base := 0x9002, ty := 14 }, { base := 0x9003, hi := 6, ty := 10 },
  { base := 0x9004, hi := 4, ty := 4 }, { base := 0x9100, ty := 10, acc := 1, max := 3 },
  { base := 0x9100, lo := 2, hi := 2, ty := 4, acc := 1, max := 2 ^ 32 - 1024, step := 1024 },
  { base := 0x9100, lo := 3, hi := 3, ty := 14, acc := 2 }, { base := 0x9100, lo := 4, hi := 4, ty := 4, acc := 2 },
  { base := 0x9100, lo := 5, hi := 5, ty := 10 }, { base := 0x9101, ty := 4, acc := 2 }]

/-- Sillage and statistics. -/
def rowsStats : List ObjRow := [
  { base := 0xE000, ty := 5 }, { base := 0xE000, lo := 2, hi := 2, ty := 4, acc := 2 }, { base := 0xE040, n := 2, hi := 4, ty := 5 },
  { base := 0xE044, n := 2, hi := 4, ty := 5 }, { base := 0xE048, n := 2, hi := 4, ty := 5 }, { base := 0xE04C, hi := 4, ty := 5 },
  { base := 0xE050, n := 3, hi := 4, ty := 5 }, { base := 0xE054, n := 6, hi := 4, ty := 5 }, { base := 0xE05C, n := 2, hi := 4, ty := 5 },
  { base := 0xE060, n := 6, hi := 4, ty := 5 }, { base := 0xE068, n := 3, hi := 4, ty := 5 }, { base := 0xE06C, n := 3, ty := 5 },
  { base := 0xE070, n := 6, ty := 5 }, { base := 0xE078, n := 3, hi := 4, ty := 5 }, { base := 0xE07B, n := 2, ty := 5 },
  { base := 0xE080, hi := 3, ty := 5 }, { base := 0xE090, ty := 5 }, { base := 0xE091, n := 2, hi := 4, ty := 5 },
  { base := 0xE093, n := 3, ty := 5 }, { base := 0xE096, hi := 4, ty := 5 }, { base := 0xE0A0, ty := 5 },
  { base := 0xE0A1, n := 2, hi := 4, ty := 5 }, { base := 0xE0B0, n := 3, ty := 5 }]

/-- Every object of the part. -/
def objRows : List ObjRow :=
  rowsService ++ rowsPackage ++ rowsDie ++ rowsDram ++ rowsTier ++ rowsPower ++ rowsCocoon ++ rowsStats

/-- The row stands for an index. -/
def rowAt (r : ObjRow) (index : Nat) : Bool :=
  r.base ≤ index && (index - r.base) % r.stride = 0 && (index - r.base) / r.stride < r.n

/-- The row of an object. -/
def objRow (index sub : Nat) : Option ObjRow := objRows.find? fun r => rowAt r index && r.lo ≤ sub && sub ≤ r.hi

/-- The highest subindex in use at an index (R423), 0 where the index has no object. -/
def maxSub (index : Nat) : Nat := ((objRows.filter (rowAt · index)).map (·.hi)).foldl max 0

/-- What the hub serves: everything, or under its recovery image 0x1000 and 0x9000 to 0x91FF (R524). -/
def served (s : State) (index : Nat) : Bool :=
  !s.hub.recovery || index = 0x1000 || (0x9000 ≤ index && index ≤ 0x91FF)

/-- An object as the dictionary service sees it: subindex 0 is an implicit U8, RO object (R423). -/
def objAt (s : State) (index sub : Nat) : Option ObjRow :=
  if !served s index then none
  else if sub = 0 then (if maxSub index = 0 then none else some { base := index, lo := 0, hi := 0, ty := 2 })
  else objRow index sub

/-- Bytes of a type (R424); a BLOB has its own. -/
def tyBytes (ty : Nat) : Nat :=
  match ty with
  | 1 | 2 | 10 => 1
  | 3 | 6 => 2
  | 4 | 7 | 9 | 11 => 4
  | 5 | 8 | 12 => 8
  | 13 => 32
  | _ => 0

/-! ### What objects read -/

/-- ALERT_CAUSE (R534). -/
def alertCause (s : State) : Nat :=
  let b (p : Bool) (i : Nat) : Nat := if p then 2 ^ i else 0
  let throttled := (List.range 64).any fun k =>
    let x := getCluster s k
    x.power = .warm && (x.limiter = 2 || x.limiter = 3 || x.limiter = 4)
  b (s.hub.inReset && s.hub.recovery) 0 + b (s.coc.trip && s.coc.latched) 1
    + b ([0, 1, 2, 3].any fun d => role s d = 4 || role s d = 5) 2 + b (s.pmb.state = 1 || s.pmb.state = 2) 3 + b throttled 4

/-- ALERT_N is asserted (R534); not during POR (R533). -/
def alertN (s : State) : Bool := !s.por && (alertCause s &&& (s.pins.alertMask ||| 3)) ≠ 0

/-- ATTEST_STATE (R519, R521, R524). -/
def attestState (s : State) : Nat :=
  if !s.coc.up then 4
  else if s.coc.leaves = 0 then 3
  else if !s.coc.aliasOk then 0
  else if 65536 ≤ s.coc.aliasLeaf then 2 else 1

/-- STORE_STATE (R434, R435). -/
def storeState (s : State) : Nat :=
  if s.svc.storing.isSome then 1 else if s.svc.failed then 3 else if !s.svc.copyA.ok && !s.svc.copyB.ok then 2 else 0

/-- The stored set: the valid copy with the higher sequence number (R433). -/
def storedSet (s : State) : Option Stored :=
  let a := s.svc.copyA
  let b := s.svc.copyB
  if a.ok ∧ (!b.ok ∨ b.seq ≤ a.seq) then some a else if b.ok then some b else none

/-- A temperature in units of 0.5 °C as an I16; before any reading it is a free value. -/
def tempOf (l : List Int) (i key : Nat) : Nat :=
  match l[i]? with
  | some v => ofSigned 16 v
  | none => Config.freeNat key % 65536

/-- The trim of a cluster's rail, mV (R493): −20 to +20 in the rail's steps of 5 (DEDUCED, log 88), as manufacture or its last
recalibration measured it: a free value. -/
def clusterTrim (s : State) (k : Nat) : Int :=
  5 * ((Config.perPart (2 ^ 33 + 64 * (getCluster s k).trimNo + k) % 9 : Nat) : Int) - 20

/-- CLUSTER_MV (R493): the point's nominal rail and the trim, within 550 to 850 mV. -/
def clusterMv (s : State) (k : Nat) : Nat :=
  let nominal : Int := ([610, 635, 660, 685, 710, 735, 760, 790, 820, 850] : List Nat).getD (getCluster s k).point 850
  (min 850 (max 550 (nominal + clusterTrim s k))).toNat

/-- Cores in service of a cluster (R34). -/
def coresInService (s : State) (k : Nat) : Nat := (clusterCores k).countP (inService s)

/-- BRIDGE_STATE, HUBLINK_STATE. -/
def linkState (s : State) (l : Nat) : Nat := (getLink s l).state

/-- FW_VERSION for an instar (R438): instar 0 is in mask ROM; instars 2 and 3 are the hub's (DEDUCED, log 72). -/
def fwVersion (s : State) (instar : Nat) : Nat :=
  match instar with
  | 0 => Config.perPart (objKey 0x1002 1) % 2 ^ 32
  | 1 => (bankImage s 0 (s.coc.running.getD 0 0)).version
  | _ => if s.hub.recovery then (bankImage s 3 0).version else (bankImage s 1 (s.coc.running.getD 1 0)).version

/-- IDENTITY_TAG (R518). -/
def identityTag : Nat := leNat (shake256 Config.identityKey 8)

def fullReport (s : State) : List Byte :=
  s.svc.report.flatMap fun r => leBytes 2 r.index ++ leBytes 1 r.sub ++ leBytes 1 r.code ++ leBytes 4 0 ++ leBytes 8 r.wrote
    ++ leBytes 8 r.after

def imagoCode : ImagoState → Nat
  | .empty => 0
  | .loading => 1
  | .resident => 2
  | .retiring => 3

/-- What SERVICE_STATE reads once the service begun last has ended (R478): an earlier one that still runs (DESIGN CHOICE, log
158: the rule gives no order among several). -/
def stillRuns (s : State) : Nat :=
  if updating s then 2 else if [0, 1, 2, 3].any fun d => (getDie s d).rejoin then 3 else if (repacking s).isSome then 4
  else if [0, 1, 2, 3].any fun d => role s d = 1 then 1 else 0

/-- RO objects of 0x1000 to 0x3FFF. -/
def readLow (s : State) (index sub : Nat) : Nat :=
  match index with
  | 0x1000 => Config.perPart (objKey 0x1000 3) % 65536
  | 0x1001 => Config.perPart (objKey 0x1001 1) % 2 ^ 64
  | 0x1002 => fwVersion s (sub - 1)
  | 0x1003 => s.coc.bootCount
  | 0x1004 => uptimeUs s
  | 0x1005 => identityTag
  | 0x1104 => s.fnet.sessions.length
  | 0x1F13 => if sub = 1 then storeState s else if sub = 2 then ((storedSet s).map (·.seq)).getD 0 else s.svc.storeUs.getD 0
  | 0x1F80 => if sub = 1 then s.svc.source else if sub = 2 then s.svc.uptime else if sub = 3 then s.svc.report.length
      else s.svc.report.countP fun r => r.code ≠ 0
  | 0x2000 => if sub = 1 then 480 else 15
  | 0x2100 => linkState s (sub - 1)
  | 0x2101 => 16 - (getLink s (sub - 1)).used
  | 0x2102 => 16
  | 0x2110 => linkState s (sub + 5)
  | 0x2111 => (relayDie s (sub - 1)).getD 0xFF
  | 0x2200 => if sub = 1 then s.accord.epoch else accordMask s
  | 0x2201 => role s (sub - 1)
  | 0x2202 => s.accord.causes.getD (sub - 1) 0
  | 0x2204 => (s.hub.service.map (·.1)).getD (stillRuns s)
  | 0x2205 => s.hub.lossResult
  | 0x2300 => if sub = 2 then s.hub.bootSel else if sub = 3 then s.hub.clkMode else s.hub.cause
  | 0x2301 => if sub = 1 then s.hub.instar else (getDie s (sub - 2)).instar
  | 0x2400 => alertCause s
  | 0x3000 => s.jobs.countP fun j => j.2.state = .waiting && j.2.lc = (sub = 1)
  | 0x3012 => countPower s (sub - 1) [.warm]
  | _ => if sub = 3 then s.jobs.countP fun j => j.2.state = .waiting && !j.2.lc && j.2.part = index - 0x3040
      else tgetD s.stats (objKey index sub) 0

/-- RO objects of a die, 0x4000 to 0x4FFF. -/
def readDie (s : State) (index sub : Nat) : Nat :=
  let d := (index - 0x4000) / 0x400
  let k := 16 * d + (sub - 1)
  match (index - 0x4000) % 0x400 with
  | 0x10 => (getCluster s k).spare
  | 0x11 => coresInService s k
  | 0x13 => if sub = 1 then (getDie s d).cause else (getCluster s (k - 1)).cause
  | 0x21 => ((clusterCores k).map fun c => if (getCore s c).fenced then 2 ^ (c % 32) else 0).sum
  | 0x30 => 16 - setting s index 1 - setting s index 2
  | _ => poolFreeKib (getPool s d)

/-- RO objects of bonded DRAM, 0x5000 to 0x53FF. -/
def readDram (s : State) (index sub : Nat) : Nat :=
  let d := (index - 0x5000) / 0x100
  let x := getDie s d
  match (index - 0x5000) % 0x100 with
  | 0x00 => if sub = 1 then 120 else sparesLeft s d
  | 0x10 => chanCode (chanState x (sub - 1))
  | 0x11 => (logicalOf x (sub - 1)).getD 0xFF
  | 0x20 =>
    if sub = 2 then (x.mig.map (·.phase)).getD 0
    else if sub = 3 then (x.mig.map (·.source)).getD 0xFF
    else if sub = 4 then (x.mig.map fun m => m.copied / 2 ^ 20).getD 0
    else x.queue.length
  | _ => tgetD s.stats (objKey index sub) 0

/-- RO objects of 0x5800 to 0x6FFF and 0x8000 to 0x8FFF. -/
def readMid (s : State) (index sub : Nat) : Nat :=
  if index = 0x5841 then s.flash.states.getD (sub - 1) 0
  else if index = 0x5842 then
    Config.perPart (objKey 0x5842 sub) % 2 ^ 16 + s.flash.blocks.countP fun b => b.1 / 2 ^ 24 = sub - 1 && b.2.bad
  else if index = 0x6000 then s.pow.watts
  else if index = 0x6002 then (getDie s (sub - 1)).vinA
  else if 0x6020 ≤ index ∧ index < 0x6024 then tempOf (getDie s (index - 0x6020)).dramT (sub - 1) (objKey index sub)
  else if 0x6024 ≤ index ∧ index < 0x6028 then 9 - (getCluster s (16 * (index - 0x6024) + sub - 1)).dram9
  else if 0x6028 ≤ index ∧ index < 0x602C then ((getDie s (index - 0x6028)).refresh.getD (sub - 1) false).toNat
  else if 0x6030 ≤ index ∧ index < 0x603C then
    let k := 16 * ((index - 0x6030) % 4) + sub - 1
    let x := getCluster s k
    if x.power = .cold then 0
    else if index < 0x6034 then clusterMhz s k else if index < 0x6038 then clusterMv s k else x.limiter
  else if 0x603C ≤ index ∧ index < 0x6040 then tempOf (getDie s (index - 0x603C)).compT (sub - 1) (objKey index sub)
  else if index = 0x6041 then
    (if sub = 1 then s.pmb.vinMv else if sub = 2 then s.pmb.amps else if sub = 3 then s.pmb.state else s.pmb.status)
  else if index = 0x8000 then s.imagos.countP fun m => m.2.state = .resident
  else
    let n := index - 0x8100
    let m := getImago s n
    if sub = 1 then imagoCode m.state
    else if sub = 2 then leNat (((m.image.map (·.digest)).getD []).take 8)
    else if sub = 3 then imagoRefs s n else m.mode

/-- Cocoon and security objects that are numbers (R514, R527). -/
def readCocoon (s : State) (index sub : Nat) : Nat :=
  let c := s.coc
  match index with
  | 0x7000 => if sub = 1 then c.owned.toNat else c.orderSeq
  | 0x7001 => c.keyLeft
  | 0x7010 => if sub = 1 then c.powerCeil else c.powerLeft
  | 0x7011 => if sub = 5 then c.pkgCeil else c.dieCeil.getD (sub - 1) 0
  | 0x7012 => if sub = 1 then c.juncTrip else c.dramTrip
  | 0x7020 => if sub = 1 then c.unlock else c.unlockLeft
  | 0x7021 => c.debug
  | 0x7050 => if sub = 1 then c.tripCause else if sub = 2 then c.tripSensor else c.tripUs
  | 0x9000 => if sub = 1 then attestState s else if sub = 2 then (if c.aliasOk then 65536 - c.aliasLeaf else 0) else c.leaves
  | 0x9003 => c.prefer.getD (sub - 1) 0
  | 0x9004 => minSecOf s (sub - 1)
  | 0x9100 => c.stageState
  | _ =>
    let fused := c.fuses.getD (index - 0x7030) false
    if sub = 1 then fused.toNat else (!fused).toNat

/-- The number that an object of a numeric type reads. -/
def objNat (s : State) (r : ObjRow) (index sub : Nat) : Nat :=
  if sub = 0 then maxSub index
  else if r.acc = 1 ∨ r.acc = 3 then setting s index sub
  else if 0xE000 ≤ index then (if index = 0xE000 then s.sillWritten else tgetD s.stats (objKey index sub) 0)
  else if index = 0x1200 then tgetD s.stats (objKey index sub) 0
  else if 0x9000 ≤ index ∨ (0x7000 ≤ index ∧ index < 0x8000) then readCocoon s index sub
  else if 0x5800 ≤ index then readMid s index sub
  else if 0x5000 ≤ index then readDram s index sub
  else if 0x4000 ≤ index then readDie s index sub
  else readLow s index sub

/-- A string of 32 bytes. -/
def str32 (t : String) : List Byte :=
  ((t.toList.map fun (c : Char) => BitVec.ofNat 8 c.toNat) ++ List.replicate 32 0).take 32

/-- The bytes that an object reads. -/
def objBytes (s : State) (r : ObjRow) (index sub : Nat) : List Byte :=
  if r.ty = 13 then str32 (if sub = 1 then "Joundyr Silicon" else "JYA4-C24L")
  else if r.ty = 14 then
    (match index with
     | 0x1F80 => if sub = 5 then (fullReport s).take 3072 else (fullReport s).drop 3072
     | 0x7001 => (tget s.coc.keys sub).getD []
     | 0x7040 => match s.coc.rootKey with
       | some k => shake256 k 32
       | none => List.replicate 32 0
     | 0x9001 => s.coc.mr.getD (sub - 1) []
     | 0x9002 => Config.identityKey
     | _ => [])
  else leBytes (tyBytes r.ty) (objNat s r index sub)

/-! ### Reading (R425, R439) -/

/-- 0xF000 to 0xFFFF is locked unless debug is unlocked (R437, R526). -/
def locked (s : State) (index : Nat) : Bool := 0xF000 ≤ index && s.coc.debug ≠ 1

/-- The read status, type code and value of an object: 0 OK, 1 NO_ACCESS, 2 NO_OBJECT. -/
def readObject (s : State) (index sub : Nat) : Nat × Nat × List Byte :=
  if locked s index then (1, 0, [])
  else match objAt s index sub with
    | none => (2, 0, [])
    | some r => if r.acc = 2 then (1, r.ty, []) else (0, r.ty, objBytes s r index sub)

def pad8 (bs : List Byte) : List Byte := bs ++ List.replicate ((8 - bs.length % 8) % 8) 0

def readRecord8 (index sub status ty len : Nat) : List Byte :=
  leBytes 2 index ++ leBytes 1 sub ++ leBytes 1 status ++ leBytes 1 ty ++ leBytes 1 0 ++ leBytes 2 len

/-- The records of a DICT_READ response (R439): once a value would pass the payload, every record has NO_ROOM; a header
that does not fit ends the response. -/
def readRecords (s : State) : List (Nat × Nat) → Bool → List Byte → List Byte
  | [], _, out => out
  | (index, sub) :: rest, full, out =>
    if 3840 < out.length + 8 then out
    else
      let (st, ty, v) := readObject s index sub
      let rec1 := readRecord8 index sub st ty (if st = 0 then v.length else 0) ++ (if st = 0 then pad8 v else [])
      if full ∨ 3840 < out.length + rec1.length then
        readRecords s rest true (out ++ readRecord8 index sub 3 ty 0)
      else readRecords s rest false (out ++ rec1)

/-- The entries of a DICT_READ request, or none if it is malformed (R439). -/
def readEntries : List Byte → Option (List (Nat × Nat))
  | [] => some []
  | a :: b :: c :: r :: rest =>
    if r ≠ 0 then none else (readEntries rest).map fun l => (a.toNat + 256 * b.toNat, c.toNat) :: l
  | _ => none

end Sys2Proof.Machine
end

