-- ==== Sys2Proof/Machine/Dict.lean ====
section
/-! DEFINITION. The dictionary service: checking and applying writes (R426 to R432), settings stored and restored (R433 to
R436), what a write of each service object does, and the mailbox's and field network's requests (R439, R440). -/

namespace Sys2Proof.Machine

/-- The working value of a setting becomes `v`. -/
def setSetting (s : State) (index sub v : Nat) : State := { s with dict := tset s.dict (objKey index sub) v }

/-! ### Range and step (R427 steps 6 and 7) -/

/-- The rates of the other partitions of a die (R331). -/
def otherRates (s : State) (d index : Nat) : Nat :=
  ((List.range 64).map fun p => if 0x5040 + 0x100 * d + p = index then 0 else setting s (dramIx d + 0x40 + p) 2).sum

/-- The range of an object, against the values that others hold now (R427 step 6, R430). -/
def objRange (s : State) (r : ObjRow) (index sub : Nat) : Nat × Nat :=
  if r.base = 0x4030 then (1, 15 - setting s index (3 - sub))
  else if 0x5040 ≤ index ∧ index < 0x5400 ∧ sub = 2 then (0, 15600 - otherRates s ((index - 0x5000) / 0x100) index)
  else if index = 0x5801 then (setting s 0x5800 sub + 1, 64)
  else if index = 0x6000 then (400, s.coc.powerCeil)
  else if index = 0x6001 then (if sub = 5 then (200, s.coc.pkgCeil) else (50, s.coc.dieCeil.getD (sub - 1) 320))
  else if index = 0x6003 then (85, s.coc.juncTrip - 3)
  else if index = 0x6010 then (80, s.coc.dramTrip - 3)
  else (r.min, r.max)

/-- The nearest step; midway, the lower one. -/
def roundStep (step v : Nat) : Nat :=
  let m := v % step
  if 2 * m ≤ step then v - m else v - m + step

/-- The value that a write of `v` gives, and its code 0 to 3 (R427, R428). RECAL_INTERVAL_H admits 0 beside its range. -/
def clampValue (s : State) (r : ObjRow) (index sub v : Nat) : Nat × Nat :=
  let (lo, hi) := objRange s r index sub
  if v = 0 ∧ r.base = 0x5021 ∧ sub = 2 then (0, 0)
  else if v < lo then (lo, 1)
  else if hi < v then (hi, 2)
  else if r.step ≤ 1 ∨ v % r.step = 0 then (v, 0)
  else (roundStep r.step v, 3)

/-! ### Type and state (R427 steps 3 and 4) -/

/-- The one value that a service object takes. -/
def magicValue (index sub : Nat) : Option Nat :=
  if index = 0x1F10 then some 0x53544F52
  else if index = 0x1F11 then some 0x4C4F4144
  else if index = 0x1F12 then some 0x44464C54
  else if index = 0x2300 ∧ sub = 5 then some 0x52434C52
  else if index = 0x6040 ∧ sub = 4 then some 1
  else if index = 0xE000 ∧ sub = 2 then some 0x434C5253
  else if index = 0x9100 ∧ sub = 4 then some 0x434F4D54
  else if index = 0x9101 then some 0x53574150
  else none

/-- DIE_SERVICE takes (R478): actions 1 to 4 on units 0 to 3, and UPDATE on the hub. -/
def dieServiceOk (v : Nat) : Bool :=
  let a := v / 256
  let u := v % 256
  1 ≤ a && a ≤ 4 && (u ≤ 3 || (a = 2 && u = 4))

/-- FN_QUENCH takes (R447): SCOPE 0 to 2, no reserved bit, no DISABLE with SCOPE JOB. -/
def fnQuenchOk (v : Nat) : Bool :=
  let scope := v / 2 ^ 45 % 4
  v / 2 ^ 48 = 0 && v % 2 ^ 16 = 0 && scope ≤ 2 && !(scope = 0 && v / 2 ^ 47 % 2 = 1)

/-- Type, length and encoding (R424), and the values that an object's own entry refuses as REFUSED_TYPE. -/
def typeOk (r : ObjRow) (index sub ty : Nat) (bs : List Byte) : Bool :=
  let v := leNat bs
  ty = r.ty && (r.ty = 14 || bs.length = tyBytes r.ty)
  && (match r.ty with
      | 1 => v ≤ 1
      | 10 => v ≤ r.max
      | 11 => v % 2 ^ 32 &&& r.max = v
      | _ => true)
  && (match magicValue index sub with
      | some m => v = m
      | none =>
        if index = 0x1110 then fnQuenchOk v
        else if index = 0x2204 then dieServiceOk v
        else if index = 0x1101 then v / 2 ^ 40 % 2 = 0
        else if r.base = 0x4012 then v / 2 ^ 12 = 0 && v / 2 ^ 5 % 8 = 0
        else if index = 0x9100 ∧ sub = 3 then 1024 ≤ bs.length && bs.length ≤ 3072 && bs.length % 1024 = 0
        else true)

/-- A job has a task on a core of the die. -/
def jobOn (s : State) (d : Nat) : Bool := s.jobs.any fun j => j.2.state ≠ .waiting && j.2.cores.any fun c => c / 512 = d

/-- The owning block of an RWS object is stopped (R78, R268, R357, R438, R503). -/
def ownerStopped (s : State) (r : ObjRow) (index : Nat) : Bool :=
  let d := (index - 0x4000) / 0x400
  if r.base = 0x4020 then !jobOn s d
  else if r.base = 0x4040 then !(s.groups.any fun g => g.2.home = d)
    && !(s.kvPages.any fun p => p.2.mirrorOf.isSome && p.2.place = d)
  else if index = 0x5810 then !((usedFrames s).any fun f => f.1 = 4)
  else if 0x6000 ≤ index then s.pmb.state = 3
  else !s.fnet.on

/-! ### What writes do -/

/-- LOSS_QUERY (R467). An ASID that names no address space: no rule gives the result, which is a free value. -/
def lossQuery (s : State) (v : Nat) : State :=
  let put (s : State) (n : Nat) : State := { s with hub := { s.hub with lossResult := n % 2 ^ 32 } }
  if v / 2 ^ 31 % 2 = 0 then put s (match liveFuture s v with
    | some (_, _, _, f) => f.lens.headD 0
    | none => 0xFFFFFFFF)
  else match tget s.aspaces (v % 1024) with
    | some a => put s a.lostPages
    | none => put { s with free := s.free + 1 } (Config.freeNat s.free)

/-- The port starts with the settings as they are (R438), or stops, which closes its sessions (R445). -/
def enablePort (s : State) (on : Bool) : State :=
  if on then
    (if s.fnet.on then s else
      { s with fnet := { s.fnet with on := true, node := setting s 0x1100 2, count := setting s 0x1100 3
                                     timer := setting s 0x1100 4, burst := setting s 0x1100 5
                                     burstTimer := setting s 0x1100 6, mac := setting s 0x1101 1
                                     ethertype := setting s 0x1102 1 }
               pins := { s.pins with fn := .active } })
  else
    let s := closeSessions s 3
    { s with fnet := { s.fnet with on := false, buffers := [], out := [] }, pins := { s.pins with fn := .released } }

/-- VOUT_COMMAND is sent (R499, R501). -/
def sendSetpoint (s : State) : State :=
  { s with pmb := { s.pmb with setMv := some (setting s 0x6040 1) }, pins := { s.pins with pmb := .active } }

/-- PMBUS_ENABLE (R501, R503). -/
def enablePmbus (s : State) (on : Bool) : State :=
  if !on then { s with pmb := { s.pmb with state := 3 } }
  else if s.pmb.state ≠ 3 then s
  else sendSetpoint { s with pmb := { s.pmb with state := 0 } }

/-- What an accepted write of a setting does beside its working value. The port and the PMBus master start only after the
restore of R436. -/
def settingEffect (s : State) (index sub v : Nat) : State :=
  let boot := s.hub.instar < 2
  if index = 0x1100 ∧ sub = 1 then (if boot then s else enablePort s (v = 1))
  else if index = 0x2205 then lossQuery s v
  else if index = 0x6040 ∧ sub = 1 then (if s.pmb.state = 0 ∧ !boot then sendSetpoint s else s)
  else if index = 0x6040 ∧ sub = 3 then (if boot then s else enablePmbus s (v = 1))
  else if index = 0x9100 ∧ sub = 1 then
    setSetting { s with coc := { s.coc with stage := {}, stageState := 0 } } 0x9100 2 0
  else if 0x4000 ≤ index ∧ index < 0x5000 ∧ (index - 0x4000) % 0x400 = 0x40 then
    let d := (index - 0x4000) / 0x400
    setPool s d { getPool s d with gib := v }
  else s

/-- The working value that an accepted write leaves: bits 0 and 1 of ALERT_MASK stay set (R534). -/
def settingValue (index v : Nat) : Nat := if index = 0x2400 then v ||| 3 else v

/-- DIE_SERVICE (R471, R476 to R478): refused when the unit's role does not allow the action. -/
def dieService (s : State) (v : Nat) : Option State :=
  let d := v % 256
  let serve (s : State) (st : Option (Nat × Nat)) : State := { s with hub := { s.hub with service := st } }
  match v / 256 with
  | 1 => if role s d = 0 then some (setRole (serve s (some (1, d))) d 1) else none
  | 2 =>
    if !([0, 1, 2, 3].all (serving s)) ∨ updating s then none
    else if d = 4 then some { serve s (some (2, 4)) with hub := { (serve s (some (2, 4))).hub with update := true, pause := true } }
    else some (setRole (updDie (serve s (some (1, d))) d fun x => { x with upd := true }) d 1)
  | 3 => if role s d = 1 ∧ !(getDie s d).upd then some (setRole (serve s none) d 0) else none
  | 4 => if role s d = 4 ∧ !(getDie s d).rejoin then some (startRejoin s d false) else none
  | _ => none

/-- CORE_RETIRE (R475, R478): refused for an unassigned number; a retirement that waits already is merged. -/
def coreRetire (s : State) (d v : Nat) : Option State :=
  let c := 512 * d + 32 * (v / 256 % 16) + v % 32
  if !inService s c then none
  else some (askRetire s c)

/-! #### Firmware staging (R525, R527) -/

def stageKind (s : State) : Nat := setting s 0x9100 1
def stageOffset (s : State) : Nat := setting s 0x9100 2

/-- FW_STAGE_DATA: the block goes to the offset, which advances. Data beyond 64 MiB is refused (DEDUCED, log 80). -/
def stageData (s : State) (bs : List Byte) : Option State :=
  let o := stageOffset s
  if 2 ^ 26 < o + bs.length then none
  else some (setSetting { s with coc := { s.coc with stage := memWrites s.coc.stage o bs, stageState := 1 } } 0x9100 2
    (o + bs.length))

/-- A number of the staged header (R523). -/
def stagedNat (s : State) (o n : Nat) : Nat := leNat (memReads s.coc.stage o n)

/-- The staged image passes R523. -/
def stagedOk (s : State) (kind : Nat) : Bool :=
  let head := memReads s.coc.stage 0 0x80
  let slot := stagedNat s 5 1
  head.take 4 = [0x4A, 0x59, 0x46, 0x57] && stagedNat s 4 1 = kind && slot ≤ 1
    && Config.xmssVerify (Config.vendorKey slot) head (memReads s.coc.stage 0x80 2820)
    && minSecOf s kind ≤ stagedNat s 0xC 4
    && shake256 (memReads s.coc.stage 0x1000 (stagedNat s 0x10 4)) 32 = memReads s.coc.stage 0x18 32

/-- The preferred banks of the units of a KIND. -/
def kindBanks (s : State) (kind : Nat) : List Nat :=
  match kind with
  | 0 => [s.coc.prefer.getD 0 0]
  | 1 => [s.coc.prefer.getD 1 0]
  | 2 => [2, 3, 4, 5].map fun i => s.coc.prefer.getD i 0
  | _ => [1]

/-- FW_STAGE_COMMIT (R525): refused where the units differ in preferred bank, or the image fails verification, which
FW_STAGE_STATE then reports. -/
def stageCommit (s : State) : State × Bool :=
  let kind := stageKind s
  let banks := kindBanks s kind
  if banks.any (· ≠ banks.headD 0) then (s, false)
  else if !stagedOk s kind then ({ s with coc := { s.coc with stageState := 4 } }, false)
  else
    let im : FwImage := { version := stagedNat s 8 4, secVer := stagedNat s 0xC 4, digestA := memReads s.coc.stage 0x18 32
                          digestB := memReads s.coc.stage 0x38 32 }
    ({ s with coc := { s.coc with banks := tset s.coc.banks (2 * kind + (1 - banks.headD 0)) im, stageState := 3 } }, true)

/-- COCOON_BANK_SWAP (R525, R506): the pair restarts from the new bank. -/
def bankSwap (s : State) : Option State :=
  if s.coc.stageState ≠ 3 ∨ stageKind s ≠ 0 ∨ s.coc.restart ∨ !s.coc.up then none
  else some (bump { s with coc := { s.coc with restart := true, swapping := true, aliasGen := false, aliasOk := false } }
    0xE0B1 1 1)

/-! #### Stored settings (R433 to R435) -/

/-- The keys of every RW and RWS object, in ascending order (R434). -/
def storedKeys : List Nat :=
  (objRows.filter fun r => r.acc = 1 || r.acc = 3).flatMap (fun r => (List.range r.n).flatMap fun i =>
    (List.range (r.hi + 1 - r.lo)).map fun j => objKey (r.base + r.stride * i) (r.lo + j)) |>.mergeSort (· ≤ ·)

/-- STORE (R435): a new copy is begun over the older one. -/
def beginStore (s : State) : Option State :=
  let soon : Bool := match s.svc.storeUs with
    | some t => decide (uptimeUs s < t + 1000000)
    | none => false
  if s.svc.storing.isSome ∨ soon then none
  else
    let seq := ((storedSet s).map (·.seq)).getD 0
    let new : Stored := { seq := (seq + 1) % 2 ^ 32, ok := true
                          vals := storedKeys.map fun k => (k, setting s (k / 256) (k % 256)) }
    let overA := (storedSet s).isNone || storedSet s ≠ some s.svc.copyA
    some { s with svc := { s.svc with
      storing := some new
      copyA := if overA then { s.svc.copyA with ok := false } else s.svc.copyA
      copyB := if overA then s.svc.copyB else { s.svc.copyB with ok := false } } }

/-- STORE_DONE (R433, R435). -/
def execStoreDone (ok : Bool) (s : State) : Host.Outcome State Fault Refusal :=
  .next <|
    match s.svc.storing with
    | none => s
    | some c =>
      let svc := { s.svc with storing := none, failed := !ok, storeUs := some (uptimeUs s) }
      if !ok then { s with svc := svc }
      else if s.svc.copyA.ok then { s with svc := { svc with copyB := c } }
      else { s with svc := { svc with copyA := c } }

/-! #### Service objects -/

/-- RESET_CAUSE_CLEAR (R487). -/
def clearCauses (s : State) : State :=
  { s with hub := { s.hub with cause := 0 }
           dies := [0, 1, 2, 3].foldl (fun t d => tset t d { tgetD t d ({} : DieHw) with cause := 0 }) s.dies
           clusters := (List.range 64).foldl (fun t k => tset t k { tgetD t k ({} : Cluster) with cause := 0 }) s.clusters }

/-- What a write of a WO object does, or its REFUSED_STATE. RESTORE and RESTORE_DEFAULTS are their own write requests, after
this one (R426, R435). `path` is the path of a quench (R449). -/
def serviceEffect (s : State) (path index sub v : Nat) (bs : List Byte) : State × Bool :=
  let try' (o : Option State) : State × Bool := match o with
    | some t => (t, true)
    | none => (s, false)
  if index = 0x1110 then
    ((quench s path (v / 2 ^ 45 % 4) (v / 2 ^ 32 % 2 ^ 13) (v / 2 ^ 16 % 2 ^ 16) (v / 2 ^ 47 % 2 = 1)).1, true)
  else if index = 0x1F10 then try' (beginStore s)
  else if index = 0x2204 then try' (dieService s v)
  else if index = 0x2300 then (clearCauses s, true)
  else if index = 0x6040 then
    (if s.pmb.state = 3 then s else { s with pmb := { s.pmb with clears := s.pmb.clears + 1 } }, true)
  else if index = 0x9100 then (if sub = 3 then try' (stageData s bs) else stageCommit s)
  else if index = 0x9101 then try' (bankSwap s)
  else if index = 0xE000 then ({ s with sill := [], sillWritten := 0 }, true)
  else if 0x4000 ≤ index ∧ index < 0x5000 then try' (coreRetire s ((index - 0x4000) / 0x400) v)
  else if 0x5000 ≤ index ∧ index < 0x5400 then
    let d := (index - 0x5000) / 0x100
    if migrateOk s d v then (queueMig s d v 2 false, true) else (s, false)
  else (s, true)

/-! ### A write request (R426, R427, R432) -/

/-- One field by the steps of R427: the state, its code, its value afterwards. Objects that hold no value, and indices
with no object, report a free value. -/
def applyField (s : State) (path : Nat) (f : FieldWrite) : State × Nat :=
  let index := f.index.toNat
  let sub := f.sub.toNat
  if locked s index then (s, 4)
  else match objAt s index sub with
    | none => (s, 8)
    | some r =>
      if r.acc = 0 ∨ 4 ≤ r.acc then (s, 4)
      else if !typeOk r index sub f.ty.toNat f.value then (s, 5)
      else if r.acc = 3 ∧ !ownerStopped s r index then (s, 7)
      else if r.acc = 2 then
        let (t, ok) := serviceEffect s path index sub (leNat f.value) f.value
        (t, if ok then 0 else 7)
      else
        let (v, code) := clampValue s r index sub (leNat f.value)
        (settingEffect (setSetting s index sub (settingValue index v)) index sub v, code)

/-- What the clamp report shows of an object after a write: the first 8 bytes of its value. -/
def valueAfter (s : State) (index sub : Nat) : Nat :=
  match objAt s index sub with
  | some r => if r.acc = 2 then Config.freeNat (objKey index sub) % 2 ^ 64 else leNat ((objBytes s r index sub).take 8)
  | none => Config.freeNat (objKey index sub) % 2 ^ 64

/-- The field changed its object's value, or was an accepted write of a WO object (R448). -/
def fieldChanged (before after : State) (f : FieldWrite) (code : Nat) : Bool :=
  let index := f.index.toNat
  let sub := f.sub.toNat
  code ≤ 3 && (match objAt before index sub with
    | some r => r.acc = 2 || objBytes before r index sub ≠ objBytes after r index sub
    | none => false)

/-- Sorted by index and subindex; fields of one object keep their order (R427). -/
def insertField (f : FieldWrite) : List FieldWrite → List FieldWrite
  | [] => [f]
  | g :: t => if objKey f.index.toNat f.sub.toNat < objKey g.index.toNat g.sub.toNat then f :: g :: t else g :: insertField f t

def sortFields (fs : List FieldWrite) : List FieldWrite := fs.foldl (fun l f => insertField f l) []

/-- Apply sorted fields by `step`: the state, the report's records, and whether something changed. -/
def applyFields (step : State → FieldWrite → State × Nat) (s : State) (fs : List FieldWrite) :
    State × List ClampRec × Bool :=
  fs.foldl (fun (acc : State × List ClampRec × Bool) f =>
    let (t, code) := step acc.1 f
    let index := f.index.toNat
    let sub := f.sub.toNat
    let r : ClampRec := { index := index, sub := sub, code := code, wrote := leNat (f.value.take 8)
                          after := valueAfter t index sub }
    (t, acc.2.1 ++ [r], acc.2.2 || fieldChanged acc.1 t f code)) (s, [], false)

/-- Set the clamp report (R432) and write the DICT_WRITE record (R448). A report holds at most 256 records: of a longer
request it is the last one's. -/
def closeWrite (s : State) (src : Nat) (rs : List ClampRec) (changed : Bool) : State :=
  let last := if rs.length ≤ 256 then rs else rs.drop (256 * ((rs.length - 1) / 256))
  let s := { s with svc := { s.svc with source := src, uptime := uptimeUs s, report := last } }
  if changed then sillage s 0x0030 4 noJob (packItems [(8, src), (16, rs.length), (16, rs.countP fun r => r.code ≠ 0)]) else s

/-- The path of a quench by FN_QUENCH (R449). -/
def quenchPath (src : Nat) : Nat := if src = 2 then 2 else 4

/-- Values of stored objects as one write request with source RESTORE (R435). -/
def restoreVals (s : State) (vals : List (Nat × Nat)) : State :=
  let fs : List FieldWrite := vals.filterMap fun e => (objRow (e.1 / 256) (e.1 % 256)).map fun r =>
    ⟨BitVec.ofNat 16 (e.1 / 256), BitVec.ofNat 8 e.1, BitVec.ofNat 8 r.ty, leBytes (tyBytes r.ty) e.2⟩
  let (s, rs, ch) := applyFields (fun s f => applyField s 4 f) s fs
  closeWrite s 3 rs ch

/-- RESTORE (R435): with no valid copy nothing is applied. -/
def restoreStored (s : State) : State := match storedSet s with
  | some c => restoreVals s c.vals
  | none => s

/-- RESTORE_DEFAULTS (R435). -/
def restoreDefaults (s : State) : State := restoreVals s (storedKeys.map fun k => (k, settingDefault (k / 256) (k % 256)))

/-- Whether a record is an accepted write of an object. -/
def wrote (rs : List ClampRec) (index : Nat) : Bool := rs.any fun r => r.index = index && r.code = 0

/-- A whole write request; the answer lists the codes in applied order. -/
def writeRequest (s : State) (src : Nat) (fs : List FieldWrite) : State × List ClampRec :=
  let (s, rs, ch) := applyFields (fun s f => applyField s (quenchPath src) f) s (sortFields fs)
  let s := closeWrite s src rs ch
  let s := if wrote rs 0x1F11 then restoreStored s else s
  (if wrote rs 0x1F12 then restoreDefaults s else s, rs)

/-- The dictionary service runs: instar 2 of the hub, no update pause (R477). -/
def svcUp (s : State) : Bool := !s.por && !s.hub.inReset && 2 ≤ s.hub.instar && !s.hub.pause

/-- A write of one field by the mailbox. -/
def mbWrite (s : State) (index sub ty : Nat) (bs : List Byte) : State :=
  if svcUp s then (writeRequest s 1 [⟨BitVec.ofNat 16 index, BitVec.ofNat 8 sub, BitVec.ofNat 8 ty, bs⟩]).1 else s

/-- OBJECT_WRITE (R427). -/
def execObjectWrite (f : FieldWrite) (s : State) : Host.Outcome State Fault Refusal :=
  .next (if svcUp s then (writeRequest s 1 [f]).1 else s)

/-- STORE (R435). -/
def execStore (v : Word32) (s : State) : Host.Outcome State Fault Refusal :=
  .next (mbWrite s 0x1F10 1 4 (leBytes 4 v.toNat))

/-- RESTORE (R435). -/
def execRestore (v : Word32) (s : State) : Host.Outcome State Fault Refusal :=
  .next (mbWrite s 0x1F11 1 4 (leBytes 4 v.toNat))

/-- RESTORE_DEFAULTS (R435). -/
def execRestoreDefaults (v : Word32) (s : State) : Host.Outcome State Fault Refusal :=
  .next (mbWrite s 0x1F12 1 4 (leBytes 4 v.toNat))

/-- SILL_CLEAR (R450). -/
def execSillClear (v : Word32) (s : State) : Host.Outcome State Fault Refusal :=
  .next (mbWrite s 0xE000 2 4 (leBytes 4 v.toNat))

/-- RESET_CAUSE_CLEAR (R502). -/
def execResetCauseClear (v : Word32) (s : State) : Host.Outcome State Fault Refusal :=
  .next (mbWrite s 0x2300 5 4 (leBytes 4 v.toNat))

/-- PMBUS_CLEAR (R499, R503). -/
def execPmbusClear (v : Byte) (s : State) : Host.Outcome State Fault Refusal := .next (mbWrite s 0x6040 4 1 [v])

/-- PMBUS_ENABLE (R501). -/
def execPmbusEnable (v : Byte) (s : State) : Host.Outcome State Fault Refusal := .next (mbWrite s 0x6040 3 1 [v])

/-- VIN_CORE_SETPOINT (R501). -/
def execVinCoreSetpoint (v : BitVec 16) (s : State) : Host.Outcome State Fault Refusal :=
  .next (mbWrite s 0x6040 1 3 (leBytes 2 v.toNat))

/-- PMBUS_POLL (R499, R500): telemetry as read, or, after every retry failed, NO_RESPONSE; a fault bit of STATUS_WORD gives
REG_FAULT. Which bits are fault bits is PMBus's (PRESUMED, log 84: all but BUSY, OFF and POWER_GOOD#). -/
def execPmbusPoll (r : Option PmbusReading) (s : State) : Host.Outcome State Fault Refusal :=
  .next <|
    if !svcUp s ∨ setting s 0x6040 3 = 0 then s
    else match r with
      | none => { s with pmb := { s.pmb with state := 1 } }
      | some x => { s with pmb := { s.pmb with
          vinMv := x.vinMv % 65536, amps := x.ioutA % 65536, status := x.status.toNat
          state := if x.status &&& 0xF73F = 0 then 0 else 2 } }

/-- FN_ENABLE (R438). -/
def execFnEnable (v : Byte) (s : State) : Host.Outcome State Fault Refusal := .next (mbWrite s 0x1100 1 1 [v])

/-- FN_QUENCH (R447), by mailbox. -/
def execFnQuench (v : Word64) (s : State) : Host.Outcome State Fault Refusal :=
  .next (mbWrite s 0x1110 1 5 (leBytes 8 v.toNat))

/-- LOSS_QUERY (R467). -/
def execLossQuery (v : Word32) (s : State) : Host.Outcome State Fault Refusal :=
  .next (mbWrite s 0x2205 1 4 (leBytes 4 v.toNat))

/-- CORE_RETIRE (R475). -/
def execCoreRetire (d : Die) (v : BitVec 16) (s : State) : Host.Outcome State Fault Refusal :=
  .next (mbWrite s (0x4012 + 0x400 * d) 1 3 (leBytes 2 v.toNat))

/-- DRAIN (R478). -/
def execDrain (d : Die) (s : State) : Host.Outcome State Fault Refusal :=
  .next (mbWrite s 0x2204 1 3 (leBytes 2 (0x100 + d)))

/-- UNDRAIN (R478). -/
def execUndrain (d : Die) (s : State) : Host.Outcome State Fault Refusal :=
  .next (mbWrite s 0x2204 1 3 (leBytes 2 (0x300 + d)))

/-- UPDATE (R476). -/
def execUpdate (d : Die) (s : State) : Host.Outcome State Fault Refusal :=
  .next (mbWrite s 0x2204 1 3 (leBytes 2 (0x200 + d)))

/-- HUB_UPDATE (R477). -/
def execHubUpdate (s : State) : Host.Outcome State Fault Refusal := .next (mbWrite s 0x2204 1 3 (leBytes 2 0x204))

/-- REJOIN (R471). -/
def execRejoin (d : Die) (s : State) : Host.Outcome State Fault Refusal :=
  .next (mbWrite s 0x2204 1 3 (leBytes 2 (0x400 + d)))

/-- MIGRATE_REQUEST (R314). -/
def execMigrateRequest (d : Die) (channel : BitVec 8) (s : State) : Host.Outcome State Fault Refusal :=
  .next (mbWrite s (dramIx d + 0x20) 1 2 [channel])

/-- FW_STAGE_KIND (R527). -/
def execFwStageKind (v : Byte) (s : State) : Host.Outcome State Fault Refusal := .next (mbWrite s 0x9100 1 10 [v])

/-- FW_STAGE_DATA (R527). -/
def execFwStageData (v : List Byte) (s : State) : Host.Outcome State Fault Refusal := .next (mbWrite s 0x9100 3 14 v)

/-- FW_STAGE_COMMIT (R525). -/
def execFwStageCommit (v : Word32) (s : State) : Host.Outcome State Fault Refusal :=
  .next (mbWrite s 0x9100 4 4 (leBytes 4 v.toNat))

/-- COCOON_BANK_SWAP (R525). -/
def execCocoonBankSwap (v : Word32) (s : State) : Host.Outcome State Fault Refusal :=
  .next (mbWrite s 0x9101 1 4 (leBytes 4 v.toNat))

/-! ### Requests of the mailbox and of the field network -/

/-- ASCII bytes. -/
def ascii (t : String) : List Byte := t.toList.map fun (c : Char) => BitVec.ofNat 8 c.toNat

/-- KMAC256 with a customisation string (R445, SP 800-185). -/
def kmacWith (custom : String) (key msg : List Byte) (outLen : Nat) : List Byte :=
  let head := bytePad (encodeString (ascii "KMAC") ++ encodeString (ascii custom)) 136
  sponge 0x04 (head ++ bytePad (encodeString key) 136 ++ msg ++ rightEncode (8 * outLen)) outLen

/-- A number in network order. -/
def netBytes (n x : Nat) : List Byte := (leBytes n x).reverse

/-- One response frame (R442, R443, R445): to the requester, from the port, the operation marked as a response. -/
def responseFrame (s : State) (mac session seq op off : Nat) (more : Bool) (part : List Byte) : List Byte :=
  let body := netBytes 6 mac ++ netBytes 6 s.fnet.mac ++ netBytes 2 s.fnet.ethertype ++ leBytes 1 1 ++ leBytes 1 (op + 128)
    ++ leBytes 2 session ++ leBytes 4 seq ++ leBytes 2 (off / 8 + (if more then 2 ^ 15 else 0)) ++ leBytes 2 part.length
    ++ leBytes 4 0 ++ part
  match tget s.fnet.sessions session with
  | some e => if session = 0 then body else body ++ kmacWith "JY-FN-FRAME" e.key body 16
  | none => body

/-- A response leaves in fragments of 1,024 bytes (R443). A session that has ended meanwhile gets none. -/
def fieldRespond (s : State) (mac session seq op : Nat) (bytes : List Byte) : State :=
  if !s.fnet.on ∨ (session ≠ 0 ∧ (tget s.fnet.sessions session).isNone) then s
  else
    let n := max 1 (ceilDiv bytes.length 1024)
    let frames := (List.range n).map fun i =>
      responseFrame s mac session seq op (1024 * i) (i + 1 < n) ((bytes.drop (1024 * i)).take 1024)
    { s with fnet := { s.fnet with out := s.fnet.out ++ frames } }

/-- The answer to a request: RESULT 0 DONE with its bytes; a malformed one is rejected by the mailbox (R389), and is not
answered on the field network (R446). -/
def respond (s : State) (q : Request) (answer : Option (List Byte)) : State :=
  match q.src, answer with
  | .mailbox, some bs => mbRespond s 0 bs
  | .mailbox, none => mbReject s 1
  | .field mac session seq, some bs => fieldRespond s mac session seq q.op bs
  | .field _ _ _, none => s

/-- Take out the first request of a kind. -/
def takeReq (s : State) (p : Request → Bool) : Option (Request × State) :=
  match s.svc.reqs.find? p with
  | none => none
  | some q => some (q, { s with svc := { s.svc with reqs := s.svc.reqs.erase q } })

/-- The request that the dictionary service takes next, if it has the operation (R426). -/
def nextDict (s : State) (op : Nat) : Option (Request × State) :=
  match takeReq s fun q => q.op ≤ 2 with
  | some (q, t) => if svcUp s && q.op = op then some (q, t) else none
  | none => none

/-- DICT_READ (R439). -/
def execDictRead (s : State) : Host.Outcome State Fault Refusal :=
  .next <|
    match nextDict s 1 with
    | none => s
    | some (q, s) => respond s q (match readEntries q.data with
      | some [] | none => none
      | some es => some (readRecords s es false []))

/-- The fields of a DICT_WRITE or a change order (R440): they fill the bytes exactly. -/
def parseFields : Nat → List Byte → Option (List FieldWrite)
  | 0, [] => some []
  | 0, _ => none
  | n + 1, bs =>
    if bs.length < 8 ∨ (bs.drop 6).take 2 ≠ [0, 0] then none
    else
      let len := leNat ((bs.drop 4).take 2)
      let whole := 8 + (len + 7) / 8 * 8
      if bs.length < whole then none
      else (parseFields n (bs.drop whole)).map fun l =>
        ⟨BitVec.ofNat 16 (leNat (bs.take 2)), bs.getD 2 0, bs.getD 3 0, (bs.drop 8).take len⟩ :: l

/-- A DICT_WRITE request (R440). -/
def parseWrite (bs : List Byte) : Option (List FieldWrite) :=
  let n := leNat (bs.take 2)
  if bs.length < 8 ∨ n = 0 ∨ 256 < n ∨ (bs.drop 2).take 6 ≠ List.replicate 6 0 then none else parseFields n (bs.drop 8)

/-- Results in applied order: index, subindex, code (R440). -/
def resultBytes (rs : List ClampRec) : List Byte :=
  rs.flatMap fun r => leBytes 2 r.index ++ leBytes 1 r.sub ++ leBytes 1 r.code

/-- CLAMP_SOURCE of a request. -/
def clampSource : ReqSource → Nat
  | .mailbox => 1
  | .field _ _ _ => 2

/-- DICT_WRITE (R426, R427, R440). -/
def execDictWrite (s : State) : Host.Outcome State Fault Refusal :=
  .next <|
    match nextDict s 2 with
    | none => s
    | some (q, s) =>
      match parseWrite q.data with
      | none => respond s q none
      | some fs =>
        let (s, rs) := writeRequest s (clampSource q.src) fs
        respond s q (some (leBytes 2 rs.length ++ List.replicate 6 0 ++ resultBytes rs))

end Sys2Proof.Machine
end

