-- ==== Sys2Proof/Machine/Net.lean ====
section
/-! DEFINITION. The field network (R441 to R446): frames, reassembly, sessions. -/

namespace Sys2Proof.Machine

/-- A number in network order. -/
def netNat (bs : List Byte) : Nat := leNat bs.reverse

/-- A dictionary frame (R442). -/
structure Frame where
  dst     : Nat  -- destination address
  src     : Nat  -- source address
  op      : Nat  -- OP
  session : Nat  -- SESSION
  seq     : Nat  -- SEQ
  off     : Nat  -- byte offset of the fragment
  more    : Bool  -- MORE
  payload : List Byte  -- PAYLOAD
  signed  : List Byte  -- the bytes that TAG covers
  tag     : List Byte  -- TAG
  ok      : Bool  -- its layout is that of R442
  deriving DecidableEq, Repr

/-- Take a frame apart; padding may follow. -/
def parseFrame (f : List Byte) : Frame :=
  let b := f.drop 14
  let frag := leNat ((b.drop 8).take 2)
  let len := leNat ((b.drop 10).take 2)
  let session := leNat ((b.drop 2).take 2)
  let need := 30 + len + (if session = 0 then 0 else 16)
  { dst := netNat (f.take 6), src := netNat ((f.drop 6).take 6), op := (b.getD 1 0).toNat, session := session
    seq := leNat ((b.drop 4).take 4), off := 8 * (frag % 2 ^ 14), more := 2 ^ 15 ≤ frag, payload := (b.drop 16).take len
    signed := f.take (30 + len), tag := (b.drop (16 + len)).take 16
    ok := need ≤ f.length && len ≤ 1024 && b.getD 0 0 = 1 && frag / 2 ^ 14 % 2 = 0 && (b.drop 12).take 4 = [0, 0, 0, 0] }

/-- A frame that fails R442 to R445 (R446): counted, and recorded at most once a second for a source. -/
def rejectFrame (s : State) (src op cause : Nat) : State :=
  let s := bump s 0xE080 2 1
  let sec := s.nowNs / 1000000000
  if tget s.fnet.rejectAt src = some sec then s
  else sillage { s with fnet := { s.fnet with rejectAt := tset s.fnet.rejectAt src sec } } 0x0031 4 noJob
    (packItems [(48, src), (8, op), (8, cause)])

/-- A frame whose layout is wrong: R449 names no cause for it, which is a free value. -/
def rejectLayout (s : State) (src op : Nat) : State :=
  rejectFrame { s with free := s.free + 1 } src op (Config.freeNat s.free % 256)

/-- The rights that a request needs (R443): 1 READ, 2 WRITE, 4 QUENCH. -/
def rightsNeeded (s : State) (op : Nat) (data : List Byte) : List Nat :=
  match op with
  | 1 => if setting s 0x1103 1 = 1 then [1] else []
  | 2 => match parseWrite data with
    | none => [2]
    | some fs =>
      (if fs.any fun f => f.index = 0x1110 then [4] else []) ++ (if fs.any fun f => f.index ≠ 0x1110 then [2] else [])
  | _ => []

/-- The operation needs a session (R443). -/
def needsSession (s : State) (op : Nat) : Bool := op = 2 || op = 0x11 || (op = 1 && setting s 0x1103 1 = 1)

/-- The session has the right numbered 1, 2 or 4. -/
def hasRight (e : Session) (r : Nat) : Bool := e.rights / r % 2 = 1

/-- A whole request, authenticated, is accepted (R443 to R445). -/
def acceptRequest (s : State) (src session seq op : Nat) (data : List Byte) : State :=
  let e := tget s.fnet.sessions session
  let allowed := match e with
    | some e => (rightsNeeded s op data).all (hasRight e)
    | none => true
  if !allowed then rejectFrame s src op 4
  else
    let s := match e with
      | some e => { s with fnet := { s.fnet with sessions := tset s.fnet.sessions session { e with lastSeq := some seq } } }
      | none => s
    if op ≤ 4 then
      { s with svc := { s.svc with reqs := s.svc.reqs ++ [{ src := .field src session seq, op := op, data := data }] } }
    else if op = 0x10 then { s with fnet := { s.fnet with grants := s.fnet.grants ++ [(src, seq + 2 ^ 32 * session, data)] } }
    else { s with fnet := { s.fnet with closes := s.fnet.closes ++ [session] } }

/-- A request is discarded in reassembly (R444). -/
def dropReasm (s : State) (b : Option Nat) (src op : Nat) : State :=
  let s := match b with
    | some b => { s with fnet := { s.fnet with buffers := tdel s.fnet.buffers b } }
    | none => s
  rejectFrame (bump s 0xE080 3 1) src op 8

/-- A fragment overlaps another, or passes the end of the request. -/
def fragClash (r : Reasm) (f : Frame) : Bool :=
  let hi := f.off + f.payload.length
  (r.frags.any fun g => f.off < g.1 + g.2.length && g.1 < hi)
    || (match r.total with
        | some n => n < hi || !f.more
        | none => !f.more && r.frags.any fun g => hi < g.1 + g.2.length)

/-- Bytes of a request by offset. -/
def reassemble (r : Reasm) (n : Nat) : List Byte :=
  (List.range n).map fun i => match r.frags.find? fun g => g.1 ≤ i && i < g.1 + g.2.length with
    | some g => g.2.getD (i - g.1) 0
    | none => 0

/-- A fragment goes to its buffer; a complete request is accepted (R444). -/
def takeFragment (s : State) (f : Frame) : State :=
  let mine (r : Reasm) : Bool := r.mac = f.src && r.session = f.session && r.seq = f.seq
  match s.fnet.buffers.find? fun b => mine b.2 with
  | some (b, r) =>
    if fragClash r f ∨ 16384 < f.off + f.payload.length ∨ r.op ≠ f.op then dropReasm s (some b) f.src f.op
    else
      let r := { r with frags := (f.off, f.payload) :: r.frags
                        total := if f.more then r.total else some (f.off + f.payload.length) }
      if r.total = some ((r.frags.map fun g => g.2.length).sum) then
        acceptRequest { s with fnet := { s.fnet with buffers := tdel s.fnet.buffers b } } f.src f.session f.seq f.op
          (reassemble r (r.total.getD 0))
      else { s with fnet := { s.fnet with buffers := tset s.fnet.buffers b r } }
  | none =>
    match [0, 1, 2, 3].find? fun b => (tget s.fnet.buffers b).isNone with
    | none => dropReasm s none f.src f.op
    | some b =>
      if 16384 < f.off + f.payload.length then dropReasm s none f.src f.op
      else
        let r : Reasm := { mac := f.src, session := f.session, seq := f.seq, op := f.op, first := s.nowNs
                           frags := [(f.off, f.payload)], total := if f.more then none else some (f.off + f.payload.length) }
        { s with fnet := { s.fnet with buffers := tset s.fnet.buffers b r } }

/-- The checks of a frame's session (R445): the cause of its rejection. -/
def sessionCheck (s : State) (f : Frame) : Option Nat :=
  if f.session = 0 then (if needsSession s f.op then some 3 else none)
  else match tget s.fnet.sessions f.session with
    | none => some 3
    | some e =>
      if e.peer ≠ f.src then some 7
      else if f.tag ≠ kmacWith "JY-FN-FRAME" e.key f.signed 16 then some 1
      else match e.lastSeq with
        | some n => if f.seq ≤ n then some 2 else none
        | none => none

/-- FN_FRAME (R441 to R446): a frame reaches the port. Broadcast frames are received for DICT_READ and ATTEST only; frames
in an update pause are discarded (R477). -/
def execFnFrame (frame : List Byte) (s : State) : Host.Outcome State Fault Refusal :=
  .next <|
    let f := parseFrame frame
    let bcast := f.dst = 2 ^ 48 - 1
    if !s.fnet.on ∨ !svcUp s ∨ frame.length < 14 ∨ 1514 < frame.length ∨ netNat ((frame.drop 12).take 2) ≠ s.fnet.ethertype
        ∨ !(f.dst = s.fnet.mac || (bcast && (f.op = 1 || f.op = 4))) then s
    else
      let s := bump s 0xE080 1 1
      if !f.ok then rejectLayout s f.src f.op
      else if f.op = 0 ∨ (4 < f.op ∧ f.op ≠ 0x10 ∧ f.op ≠ 0x11) then rejectFrame s f.src f.op 6
      else match sessionCheck s f with
        | some c => rejectFrame s f.src f.op c
        | none =>
          if f.off = 0 ∧ !f.more then acceptRequest s f.src f.session f.seq f.op f.payload else takeFragment s f

/-- A grant is well-formed and valid (R444), and a root key is installed (R445). -/
def grantOk (s : State) (g : List Byte) : Bool :=
  let n (o w : Nat) : Nat := leNat ((g.drop o).take w)
  40 < g.length && g.take 4 = ascii "JYSG" && n 4 8 = identityTag && n 12 4 = s.coc.bootCount && n 16 2 ≠ 0
    && (tget s.fnet.sessions (n 16 2)).isNone && s.fnet.sessions.length < 8 && uptimeUs s < n 32 8
    && (g.drop 25).take 7 = List.replicate 7 0 && s.coc.rootKey.isSome
    && s.coc.keys.any fun k => Config.xmssVerify k.2 (g.take 40) (g.drop 40)

/-- SESSION_GRANT (R444, R445): the Cocoon verifies the grant that waits longest; the session opens, or the grant is
refused. -/
def execSessionGrant (s : State) : Host.Outcome State Fault Refusal :=
  .next <|
    match s.fnet.grants with
    | [] => s
    | (mac, q, g) :: rest =>
      if !svcUp s ∨ s.coc.restart then s
      else
        let s := { s with fnet := { s.fnet with grants := rest } }
        if !s.coc.up ∨ !grantOk s g then rejectFrame s mac 0x10 5
        else
          let n := leNat ((g.drop 16).take 2)
          let e : Session := { peer := netNat ((g.drop 18).take 6), rights := (g.getD 24 0).toNat % 8
                               expiry := leNat ((g.drop 32).take 8)
                               key := kmacWith "JY-FN-SESSION" (s.coc.rootKey.getD []) (g.take 40) 32 }
          let s := { s with fnet := { s.fnet with sessions := tset s.fnet.sessions n e } }
          let s := sillage s 0x0032 4 noJob (packItems [(16, n), (8, 1), (8, 0)])
          fieldRespond s mac (q / 2 ^ 32) (q % 2 ^ 32) 0x10 []

/-- SESSION_CLOSE (R443, R445): answered under the session's key, then closed. -/
def execSessionClose (s : State) : Host.Outcome State Fault Refusal :=
  .next <|
    match s.fnet.closes with
    | [] => s
    | n :: rest =>
      if !svcUp s then s
      else
        let s := { s with fnet := { s.fnet with closes := rest } }
        match tget s.fnet.sessions n with
        | none => s
        | some e => closeSession (fieldRespond s e.peer n (e.lastSeq.getD 0) 0x11 []) n 1

/-- SESSION_EXPIRY (R445). -/
def execSessionExpiry (n : BitVec 16) (s : State) : Host.Outcome State Fault Refusal :=
  .next <|
    match tget s.fnet.sessions n.toNat with
    | none => s
    | some e => if uptimeUs s < e.expiry then s else closeSession s n.toNat 2

/-- REASSEMBLY_TIMEOUT (R444): 100 ms after its first fragment. -/
def execReassemblyTimeout (buffer : Fin 4) (s : State) : Host.Outcome State Fault Refusal :=
  .next <|
    match tget s.fnet.buffers buffer.val with
    | none => s
    | some r => if s.nowNs < r.first + 100000000 then s else dropReasm s (some buffer.val) r.mac r.op

end Sys2Proof.Machine
end

