-- ==== Sys2Proof/Machine/Cocoon.lean ====
section
/-! DEFINITION. The Cocoon's services (ch. 19): change orders and claims (R509 to R517), attestation (R520, R521), the
retirement of a die (R472, R516). -/

namespace Sys2Proof.Machine

/-! ### Keys and signatures -/

/-- Hash bytes of an XMSS-SHAKE256 parameter set by its OID (PRESUMED numbers, those of NIST SP 800-208). -/
def oidHash (oid : Nat) : Option Nat :=
  if 0x10 ≤ oid ∧ oid ≤ 0x12 then some 32 else if 0x13 ≤ oid ∧ oid ≤ 0x15 then some 24 else none

/-- An XMSS public key: OID in network order, root and SEED (R514). -/
def keyOk (k : List Byte) : Bool :=
  match oidHash (netNat (k.take 4)) with
  | some n => k.length = 4 + 2 * n
  | none => false

/-- The lengths that XMSS-SHAKE256 signatures have (R509). -/
def sigLengths : List Nat :=
  [10, 16, 20].flatMap fun h => [4 + 32 + (67 + h) * 32, 4 + 24 + (51 + h) * 24]

/-! ### Orders (R509, R510) -/

/-- A change order taken apart. -/
structure Order where
  slot   : Nat  -- KEY_SLOT
  tag    : Nat  -- IDENTITY_TAG
  seq    : Nat  -- ORDER_SEQ
  bind   : Nat  -- BOOT_BIND
  fields : List FieldWrite  -- fields
  signed : List Byte  -- bytes before the signature
  sig    : List Byte  -- SIGNATURE
  deriving DecidableEq, Repr

/-- The first `n` fields of some bytes and what follows them (R440). -/
def takeFields : Nat → List Byte → Option (List FieldWrite × List Byte)
  | 0, bs => some ([], bs)
  | n + 1, bs =>
    if bs.length < 8 ∨ (bs.drop 6).take 2 ≠ [0, 0] then none
    else
      let len := leNat ((bs.drop 4).take 2)
      let whole := 8 + (len + 7) / 8 * 8
      if bs.length < whole then none
      else (takeFields n (bs.drop whole)).map fun r =>
        (⟨BitVec.ofNat 16 (leNat (bs.take 2)), bs.getD 2 0, bs.getD 3 0, (bs.drop 8).take len⟩ :: r.1, r.2)

/-- The content of a claim (R513): one field, which installs OWNER_KEY in slot 1. -/
def claimContent (fs : List FieldWrite) : Bool :=
  match fs with
  | [f] => f.index = 0x7001 && f.sub = 1 && f.ty = 14 && keyOk f.value
  | _ => false

/-- The layout of an order (R509), or none if it is malformed. -/
def parseOrder (bs : List Byte) : Option Order :=
  let n (o w : Nat) : Nat := leNat ((bs.drop o).take w)
  if bs.length < 0x20 ∨ bs.take 4 ≠ ascii "JYCO" ∨ n 4 1 ≠ 1 ∨ n 6 2 = 0 ∨ 16 < n 6 2 ∨ n 0x1C 4 ≠ 0 then none
  else match takeFields (n 6 2) (bs.drop 0x20) with
    | none => none
    | some (fs, sig) =>
      let o : Order := { slot := n 5 1, tag := n 8 8, seq := n 0x10 8, bind := n 0x18 4, fields := fs
                         signed := bs.take (bs.length - sig.length), sig := sig }
      if o.slot = 0xFF then (if sig = [] ∧ claimContent fs then some o else none)
      else if sigLengths.contains sig.length then some o else none

/-- The checks of R510 in their order: ORDER_STATUS, and the order when it is 0. -/
def checkOrder (s : State) (mailbox : Bool) (bs : List Byte) : Nat × Option Order :=
  if !s.coc.up then (8, none)
  else match parseOrder bs with
    | none => (1, none)
    | some o =>
      let claim := o.slot = 0xFF
      if o.tag ≠ identityTag then (2, none)
      else if o.bind ≠ 0 ∧ o.bind ≠ s.coc.bootCount then (3, none)
      else if o.seq ≤ s.coc.orderSeq then (4, none)
      else if (if claim then s.coc.owned || !mailbox else !s.coc.owned) then (7, none)
      else if claim then (0, some o)
      else match tget s.coc.keys o.slot with
        | none => (5, none)
        | some k => if Config.xmssVerify k o.signed o.sig then (0, some o) else (6, none)

/-! ### What orders change (R514 to R517) -/

/-- A die is retired (R472, R516): its fuse is blown; a die that is not LOST is first lost with cause RETIRE; a rejoin of
a LOST one ends, for it is never powered again. -/
def retireDie (s : State) (d : Nat) : State :=
  let s := { s with coc := { s.coc with fuses := s.coc.fuses.setIfInBounds d true } }
  let s := if role s d ≠ 4 then loseDie s d 5
    else if (getDie s d).rejoin then
      { updDie s d fun x => { x with phase := .held, dieRst := true, rejoin := false } with hub := { s.hub with service := none } }
    else s
  sillage (setRole s d 5) 0x0101 5 noJob (packItems [(8, d)])

/-- Objects of the Cocoon that report and that no rule lets an order set (DEDUCED). -/
def reportOnly (index sub : Nat) : Bool :=
  index = 0x7000 || index = 0x7021 || index = 0x7050 || sub = 0xFE

/-- REFUSED_TYPE of an order's field (R424, R514). -/
def orderTypeOk (r : ObjRow) (index : Nat) (f : FieldWrite) : Bool :=
  typeOk r index f.sub.toNat f.ty.toNat f.value
    && (if index = 0x7001 then f.value = [] || keyOk f.value else true)
    && (if index = 0x7040 then f.value.length = 32 else true)

/-- REFUSED_STATE of an order's field (R514, R516, R526). -/
def orderStateOk (s : State) (o : Order) (index sub : Nat) (f : FieldWrite) : Bool :=
  let v := leNat f.value
  if index = 0x7001 then
    !(f.value = [] && (tget s.coc.keys sub).isSome && s.coc.keys.length = 1)
  else if index = 0x7020 then v = 0 || o.bind = s.coc.bootCount
  else if 0x7030 ≤ index ∧ index ≤ 0x7033 then
    let d := index - 0x7030
    let fused := s.coc.fuses.getD d false
    let others := [0, 1, 2, 3].any fun e => e ≠ d && !(s.coc.fuses.getD e false)
    if v = 0 then !fused else fused || others
  else true

/-- Remaining changes of an index (R431). -/
def changesLeft (s : State) (index : Nat) : Nat :=
  if index = 0x7001 then s.coc.keyLeft else if index = 0x7010 then s.coc.powerLeft
  else if index = 0x7020 then s.coc.unlockLeft else 1

/-- An order's field uses a remaining change (R515): `v` is its final value. -/
def usesChange (s : State) (index sub v : Nat) (f : FieldWrite) : Bool :=
  if index = 0x7001 then f.value ≠ (tget s.coc.keys sub).getD []
  else if index = 0x7010 then s.coc.powerCeil < v
  else if index = 0x7020 then v ≠ s.coc.unlock && v ≠ 0
  else false

/-- The Cocoon's new value, and the change that it uses. -/
def setCocoon (s : State) (index sub v : Nat) (f : FieldWrite) (uses : Bool) : State :=
  let c := s.coc
  let u := if uses then 1 else 0
  if index = 0x7001 then
    { s with coc := { c with keys := if f.value = [] then tdel c.keys sub else tset c.keys sub f.value, keyLeft := c.keyLeft - u } }
  else if index = 0x7010 then { s with coc := { c with powerCeil := v, powerLeft := c.powerLeft - u } }
  else if index = 0x7011 then
    (if sub = 5 then { s with coc := { c with pkgCeil := v } }
     else { s with coc := { c with dieCeil := c.dieCeil.setIfInBounds (sub - 1) v } })
  else if index = 0x7012 then
    (if sub = 1 then { s with coc := { c with juncTrip := v } } else { s with coc := { c with dramTrip := v } })
  else if index = 0x7020 then setDebug { s with coc := { c with unlock := v, unlockLeft := c.unlockLeft - u } } v
  else if index = 0x7040 then closeSessions { s with coc := { c with rootKey := some f.value } } 4
  else if 0x7030 ≤ index ∧ index ≤ 0x7033 ∧ v = 1 ∧ !(c.fuses.getD (index - 0x7030) false) then retireDie s (index - 0x7030)
  else s

/-- One field of an applied order (R427, R510): the state and the code. -/
def orderField (o : Order) (mailbox : Bool) (s : State) (f : FieldWrite) : State × Nat :=
  let index := f.index.toNat
  let sub := f.sub.toNat
  match objAt s index sub with
  | none => (s, 8)
  | some r =>
    if r.acc < 4 ∨ index < 0x7000 ∨ 0x8000 ≤ index ∨ reportOnly index sub ∨ (index = 0x7040 ∧ !mailbox) then (s, 4)
    else if !orderTypeOk r index f then (s, 5)
    else if !orderStateOk s o index sub f then (s, 7)
    else
      let (v, code) := if r.ty = 14 then (0, 0) else clampValue s r index sub (leNat f.value)
      let uses := usesChange s index sub v f
      if uses ∧ changesLeft s index = 0 then (s, 6)
      else
        let s := setCocoon s index sub v f uses
        (sillage s 0x0300 5 noJob (packItems [(24, index * 256 + sub), (8, code)]), code)

/-- Working values above a Cocoon limit fall to it (R430): one record of the clamp report for each. -/
def lowerWorking (s : State) : State × List ClampRec :=
  let c := s.coc
  let limits : List (Nat × Nat × Nat) := [(0x6000, 1, c.powerCeil), (0x6001, 1, c.dieCeil[0]), (0x6001, 2, c.dieCeil[1]),
    (0x6001, 3, c.dieCeil[2]), (0x6001, 4, c.dieCeil[3]), (0x6001, 5, c.pkgCeil), (0x6003, 1, c.juncTrip - 3),
    (0x6010, 1, c.dramTrip - 3)]
  limits.foldl (fun (acc : State × List ClampRec) l =>
    let v := setting acc.1 l.1 l.2.1
    if v ≤ l.2.2 then acc
    else (setSetting acc.1 l.1 l.2.1 l.2.2,
      acc.2 ++ [({ index := l.1, sub := l.2.1, code := 2, wrote := v, after := l.2.2 } : ClampRec)])) (s, [])

/-- An order that passed every check is applied and committed (R510, R511): its fields, its ORDER_SEQ, MR6, the lowered
working values, the clamp report. -/
def applyOrder (s : State) (o : Order) (mailbox : Bool) (bs : List Byte) : State × List ClampRec :=
  let (s, rs, ch) := applyFields (orderField o mailbox) s (sortFields o.fields)
  let (s, low) := lowerWorking s
  let s := extendMr { s with coc := { s.coc with orderSeq := o.seq } } 6 (shake256 bs 32) "ORDER"
  (closeWrite s 4 (rs ++ low) (ch || low ≠ []), rs)

/-- The response of R512. -/
def orderResponse (status : Nat) (rs : List ClampRec) : List Byte :=
  leBytes 2 status ++ leBytes 2 rs.length ++ leBytes 4 0 ++ resultBytes rs

/-- The request is a claim. -/
def isClaim (q : Request) : Bool := q.op = 3 && q.data.getD 5 0 = 0xFF

/-- The next request for the Cocoon (R505, R506): orders and attestations in the order of their arrival; none during a
restart. -/
def nextCocoon (s : State) (p : Request → Bool) : Option (Request × State) :=
  match takeReq s fun q => 3 ≤ q.op with
  | some (q, t) => if svcUp s && !s.coc.restart && p q then some (q, t) else none
  | none => none

/-- Answer a refused order. -/
def refuseOrder (s : State) (q : Request) (status : Nat) : State :=
  respond (bump s 0xE0B0 1 1) q (some (orderResponse status []))

/-- CHANGE_ORDER (R510 to R512). -/
def execChangeOrder (s : State) : Host.Outcome State Fault Refusal :=
  .next <|
    match nextCocoon s fun q => q.op = 3 && !isClaim q with
    | none => s
    | some (q, s) =>
      let mailbox : Bool := q.src = .mailbox
      match checkOrder s mailbox q.data with
      | (_, some o) =>
        let (s, rs) := applyOrder s o mailbox q.data
        respond s q (some (orderResponse 0 rs))
      | (st, none) => refuseOrder s q st

/-- CLAIM (R513): the key of slot 1 is installed without using a change, and the part is OWNED. -/
def execClaim (s : State) : Host.Outcome State Fault Refusal :=
  .next <|
    match nextCocoon s isClaim with
    | none => s
    | some (q, s) =>
      match checkOrder s (q.src = .mailbox) q.data with
      | (_, some o) =>
        let left := s.coc.keyLeft
        let (s, rs) := applyOrder { s with coc := { s.coc with keyLeft := left + 1 } } o true q.data
        let s := { s with coc := { s.coc with owned := true, keyLeft := left } }
        respond s q (some (orderResponse 0 rs))
      | (st, none) => refuseOrder s q st

/-! ### Attestation (R520, R521) -/

/-- Exactly `n` bytes. -/
def fitTo (n : Nat) (bs : List Byte) : List Byte := (bs ++ List.replicate (n - bs.length) 0).take n

/-- First 8 bytes of the digest of an owner key; zero when the slot is empty. -/
def keyDigest (s : State) (slot : Nat) : List Byte := match tget s.coc.keys slot with
  | some k => shake256 k 8
  | none => List.replicate 8 0

/-- Changes left: owner, power, debug, and the retired dies (R520). -/
def changesWord (s : State) : Nat :=
  s.coc.keyLeft + s.coc.powerLeft * 2 ^ 8 + s.coc.unlockLeft * 2 ^ 16
    + ([0, 1, 2, 3].map fun d => if s.coc.fuses.getD d false then 2 ^ (24 + d) else 0).sum

/-- The 384-byte report (R520). -/
def reportBody (s : State) (nonce : List Byte) : List Byte :=
  ascii "JYAT" ++ leBytes 2 1 ++ leBytes 2 0 ++ leBytes 8 identityTag ++ leBytes 4 s.coc.bootCount ++ leBytes 4 s.coc.aliasLeaf
    ++ leBytes 8 (uptimeUs s) ++ fitTo 32 nonce ++ leBytes 4 s.accord.epoch ++ leBytes 1 (accordMask s) ++ leBytes 1 s.coc.debug
    ++ leBytes 1 s.coc.owned.toNat ++ leBytes 1 s.hub.bootSel ++ leBytes 8 s.coc.orderSeq ++ leBytes 4 (changesWord s)
    ++ leBytes 12 0 ++ [1, 2, 3, 4].flatMap (keyDigest s) ++ s.coc.mr.toList.flatMap (fitTo 32)

/-- The 128-byte certificate body (R520). -/
def certBody (s : State) : List Byte :=
  ascii "JYAC" ++ leBytes 2 1 ++ leBytes 2 0 ++ leBytes 8 identityTag ++ leBytes 4 s.coc.bootCount ++ leBytes 4 s.coc.certLeaf
    ++ fitTo 68 (Config.aliasPublic s.coc.aliasNo) ++ fitTo 32 s.coc.certMr0 ++ leBytes 4 0

/-- The response of R520. -/
def attestResponse (status : Nat) (data : List Byte) : List Byte :=
  leBytes 2 status ++ leBytes 2 data.length ++ leBytes 4 0 ++ data

/-- STATUS before a request is served: unavailable, malformed, not ready, exhausted. Where no identity leaf is left to
certify the alias the answer is EXHAUSTED (DEDUCED). -/
def attestStatus (s : State) (data : List Byte) : Nat :=
  if !s.coc.up then 3
  else if data.length ≠ 40 ∨ 1 < (data.getD 0 0).toNat ∨ (data.drop 1).take 7 ≠ List.replicate 7 0 then 4
  else if !s.coc.aliasOk then (if s.coc.leaves = 0 then 2 else 1)
  else if 65536 ≤ s.coc.aliasLeaf then 2 else 0

/-- A request for a certificate. -/
def asksCertificate (q : Request) : Bool := q.op = 4 && q.data.getD 0 0 = 1

/-- ATTEST_REPORT (R520, R521): one alias leaf; the last one is recorded. -/
def execAttestReport (s : State) : Host.Outcome State Fault Refusal :=
  .next <|
    match nextCocoon s fun q => q.op = 4 && !asksCertificate q with
    | none => s
    | some (q, s) =>
      let st := attestStatus s q.data
      if st ≠ 0 then respond s q (some (attestResponse st []))
      else
        let body := reportBody s (q.data.drop 8)
        let sig := fitTo 2692 (Config.xmssSign (s.coc.aliasNo + 1) s.coc.aliasLeaf body)
        let s := { s with coc := { s.coc with aliasLeaf := s.coc.aliasLeaf + 1 } }
        let s := if s.coc.aliasLeaf = 65536 then sillage s 0x0302 5 noJob (packItems [(32, s.coc.bootCount)]) else s
        respond s q (some (attestResponse 0 (body ++ sig)))

/-- ATTEST_CERTIFICATE (R520). -/
def execAttestCertificate (s : State) : Host.Outcome State Fault Refusal :=
  .next <|
    match nextCocoon s asksCertificate with
    | none => s
    | some (q, s) =>
      let st := attestStatus s q.data
      if st ≠ 0 then respond s q (some (attestResponse st []))
      else respond s q (some (attestResponse 0 (certBody s ++ fitTo 2820 (Config.xmssSign 0 s.coc.certLeaf (certBody s)))))

end Sys2Proof.Machine
end

