-- ==== Sys2Proof/Machine/Boot.lean ====
section
/-! DEFINITION. The instars (R489, R523, R524) and the restore of the dictionary (R436). -/

namespace Sys2Proof.Machine

/-- The bank that a unit tries first (R488, R524): the preferred one, or the other under BOOT_SEL ALTERNATE. -/
def firstBank (s : State) (unit : Nat) : Nat :=
  let p := s.coc.prefer.getD unit 0
  if s.hub.bootSel = 1 then 1 - p else p

/-- The bank that a unit starts from: the first one tried if it passes R523 now, else the other. `pass` is false where
the first bank fails its verification. -/
def bootBank (s : State) (unit kind : Nat) (pass : Bool) : Option Nat :=
  let t := firstBank s unit
  if pass && (bankImage s kind t).ok then some t
  else if (bankImage s kind (1 - t)).ok then some (1 - t) else none

def runFrom (s : State) (unit bank : Nat) : State :=
  { s with coc := { s.coc with running := s.coc.running.setIfInBounds unit bank } }

/-- The flash translation layer is loaded (R489, R533). -/
def loadFlash (s : State) : State :=
  { s with flash := { s.flash with up := true }
           pins := { s.pins with nandCe := .active, nandWp := .active, nandOut := .active } }

/-- The hub runs its recovery image (R488, R524), or, where that fails too, stays in reset. -/
def startRecovery (s : State) : State :=
  if !(bankImage s 3 0).ok then { s with hub := { s.hub with recovery := true } }
  else extendMr { s with hub := { s.hub with recovery := true, instar := 2, inReset := false } } 1
    (bankImage s 3 0).digestA "HUBRECOV"

/-- The restore of R436: every object at its default, then RESTORE. -/
def bootDict (s : State) : State := restoreStored { s with dict := [] }

/-- The field-network port and the PMBus master start as their objects say (R499, R533). -/
def startPorts (s : State) : State :=
  let s := enablePort s (setting s 0x1100 1 = 1)
  if setting s 0x6040 3 = 1 then sendSetpoint { s with pmb := { s.pmb with state := 0 } }
  else { s with pmb := { s.pmb with state := 3 } }

/-- The hub's instar 2 from a bank (R489 step 3). -/
def startHub (s : State) (bank : Nat) : State :=
  let s := bootDict (loadFlash { s with pmb := { s.pmb with state := 3 } })
  let s := { s with hub := { s.hub with instar := 2, inReset := false, recovery := false } }
  let s := extendMr (runFrom s 1 bank) 1 (bankImage s 1 bank).digestA "HUBFW"
  settleReady (startPorts s)

/-- The Cocoon's instar 1 from a bank. -/
def startCocoon (s : State) (bank : Nat) : State :=
  extendMr { runFrom s 0 bank with coc := { (runFrom s 0 bank).coc with up := true } } 0 (bankImage s 0 bank).digestA "INSTAR1"

/-- A die whose banks both fail is held in DIE_RST, LOST with cause UPDATE (R524); before the first accord no accord
changes; a rejoin that fails leaves it LOST (R471). -/
def failDieBoot (s : State) (d : Nat) : State :=
  let rejoin := (getDie s d).rejoin
  let s := updDie s d fun x => { x with phase := .held, dieRst := true, rejoin := false, autoTried := x.autoTried || rejoin }
  if rejoin then { s with hub := { s.hub with service := none } }
  else if s.accord.begun then loseDie s d 6
  else
    let s := { s with accord := { s.accord with roles := s.accord.roles.setIfInBounds d 4
                                                causes := s.accord.causes.setIfInBounds d 6 } }
    settleReady (sillage (bump s 0xE090 1 1) 0x0100 5 noJob (packItems [(8, d), (32, s.accord.epoch)]))

/-- INSTAR_START (R489, R524): the next instar of a unit starts, from the bank tried first where it passes, else from the
other, else with the result of R524. -/
def execInstarStart (u : FwUnit) (pass : Bool) (s : State) : Host.Outcome State Fault Refusal :=
  .next <|
    if s.por ∨ s.coc.trip ∨ s.coc.restart then s
    else match u with
      | .cocoon =>
        if s.coc.up ∨ s.hub.recovery then s
        else match bootBank s 0 0 pass with
          | some b => startCocoon s b
          | none => startRecovery s
      | .hub =>
        if !s.coc.up ∨ 2 ≤ s.hub.instar ∨ s.hub.recovery then s
        else if s.hub.bootSel = 2 then startRecovery s
        else match bootBank s 1 1 pass with
          | some b => startHub s b
          | none => startRecovery s
      | .die d =>
        let x := getDie s d
        if x.phase ≠ .running ∨ x.instar ≠ 0xFF ∨ !s.coc.up then s
        else match bootBank s (d.val + 2) 2 pass with
          | some b => extendMr (runFrom (updDie s d fun x => { x with instar := 2 }) (d.val + 2) b) (d.val + 2)
              (bankImage s 2 b).digestA "DIEFW"
          | none => failDieBoot s d

end Sys2Proof.Machine
end

