-- ==== Sys2Proof/Machine/Dispatch.lean ====
section
/-! DEFINITION. One arm for each command: its meaning. -/

namespace Sys2Proof.Machine

/-- The effect of a command on everything but the queue. -/
def exec (i : Instr) (s : State) : Host.Outcome State Fault Refusal :=
  match i with
  | .ldt c b => Sys2Proof.Machine.execLdt c b s
  | .stt c b => Sys2Proof.Machine.execStt c b s
  | .gath c b => Sys2Proof.Machine.execGath c b s
  | .scat c b => Sys2Proof.Machine.execScat c b s
  | .mma c b fault => Sys2Proof.Machine.execMma c b fault s
  | .mmax c b fault => Sys2Proof.Machine.execMmax c b fault s
  | .ewu c b fault => Sys2Proof.Machine.execEwu c b fault s
  | .ewb c b => Sys2Proof.Machine.execEwb c b s
  | .act c b fault => Sys2Proof.Machine.execAct c b fault s
  | .win c b => Sys2Proof.Machine.execWin c b s
  | .pool c b => Sys2Proof.Machine.execPool c b s
  | .atts c b fault => Sys2Proof.Machine.execAtts c b fault s
  | .attv c b fault => Sys2Proof.Machine.execAttv c b fault s
  | .scan c b => Sys2Proof.Machine.execScan c b s
  | .lconv c b => Sys2Proof.Machine.execLconv c b s
  | .route c b fault => Sys2Proof.Machine.execRoute c b fault s
  | .comb c b order => Sys2Proof.Machine.execComb c b order s
  | .boxd c b fault => Sys2Proof.Machine.execBoxd c b fault s
  | .nms c b => Sys2Proof.Machine.execNms c b s
  | .madd c b => Sys2Proof.Machine.execMadd c b s
  | .cnta c b => Sys2Proof.Machine.execCnta c b s
  | .cvt c b => Sys2Proof.Machine.execCvt c b s
  | .wait c b => Sys2Proof.Machine.execWait c b s
  | .sig c b => Sys2Proof.Machine.execSig c b s
  | .bar c b => Sys2Proof.Machine.execBar c b s
  | .loop c b => Sys2Proof.Machine.execLoop c b s
  | .jmp c b => Sys2Proof.Machine.execJmp c b s
  | .skipl c b => Sys2Proof.Machine.execSkipl c b s
  | .fork c b => Sys2Proof.Machine.execFork c b s
  | .drop c b => Sys2Proof.Machine.execDrop c b s
  | .dropTrunc c b => Sys2Proof.Machine.execDropTrunc c b s
  | .passOver c op b => Sys2Proof.Machine.execPassOver c op b s
  | .identityWrite c op b => Sys2Proof.Machine.execIdentityWrite c op b s
  | .instrRetire c lc exe k => Sys2Proof.Machine.execInstrRetire c lc exe k s
  | .segmentComplete c lc k cls => Sys2Proof.Machine.execSegmentComplete c lc k cls s
  | .fetchHazardStart c lc k => Sys2Proof.Machine.execFetchHazardStart c lc k s
  | .sigAddLands c lc => Sys2Proof.Machine.execSigAddLands c lc s
  | .watchRelease c lc => Sys2Proof.Machine.execWatchRelease c lc s
  | .watchPoll c lc => Sys2Proof.Machine.execWatchPoll c lc s
  | .syncTimeout c lc => Sys2Proof.Machine.execSyncTimeout c lc s
  | .jobStart j => Sys2Proof.Machine.execJobStart j s
  | .jobComplete j => Sys2Proof.Machine.execJobComplete j s
  | .lcPreempt c => Sys2Proof.Machine.execLcPreempt c s
  | .lcResumeBe c => Sys2Proof.Machine.execLcResumeBe c s
  | .rampEnd c => Sys2Proof.Machine.execRampEnd c s
  | .scratchScrub c word badBits => Sys2Proof.Machine.execScratchScrub c word badBits s
  | .rearmPromote c lc sid => Sys2Proof.Machine.execRearmPromote c lc sid s
  | .mcastBlockFetch j g => Sys2Proof.Machine.execMcastBlockFetch j g s
  | .carouselStart c lc k => Sys2Proof.Machine.execCarouselStart c lc k s
  | .commit g idx layer n => Sys2Proof.Machine.execCommit g idx layer n s
  | .appendDone g idx layer => Sys2Proof.Machine.execAppendDone g idx layer s
  | .commitResume d => Sys2Proof.Machine.execCommitResume d s
  | .prefixOffer g idx block => Sys2Proof.Machine.execPrefixOffer g idx block s
  | .mirrorFill d page => Sys2Proof.Machine.execMirrorFill d page s
  | .groupCreate id slot => Sys2Proof.Machine.execGroupCreate id slot s
  | .groupDestroy id => Sys2Proof.Machine.execGroupDestroy id s
  | .join id => Sys2Proof.Machine.execJoin id s
  | .leave id => Sys2Proof.Machine.execLeave id s
  | .stepBoundary g => Sys2Proof.Machine.execStepBoundary g s
  | .evictionDone g => Sys2Proof.Machine.execEvictionDone g s
  | .swapOutRequest c lc slot => Sys2Proof.Machine.execSwapOutRequest c lc slot s
  | .swapOut c lc slot => Sys2Proof.Machine.execSwapOut c lc slot s
  | .swapIn c lc slot => Sys2Proof.Machine.execSwapIn c lc slot s
  | .swapInDone c lc slot => Sys2Proof.Machine.execSwapInDone c lc slot s
  | .dramRequest d r => Sys2Proof.Machine.execDramRequest d r s
  | .ceWriteback d channel dpa => Sys2Proof.Machine.execCeWriteback d channel dpa s
  | .patrolScrub d channel errBytes => Sys2Proof.Machine.execPatrolScrub d channel errBytes s
  | .adderOp d dpa fmt op v cmp => Sys2Proof.Machine.execAdderOp d dpa fmt op v cmp s
  | .regulatorTick d => Sys2Proof.Machine.execRegulatorTick d s
  | .migrateRequest d channel => Sys2Proof.Machine.execMigrateRequest d channel s
  | .recalExpiry d channel => Sys2Proof.Machine.execRecalExpiry d channel s
  | .migrationStart d => Sys2Proof.Machine.execMigrationStart d s
  | .migrationSwap d => Sys2Proof.Machine.execMigrationSwap d s
  | .retrainDone d pass => Sys2Proof.Machine.execRetrainDone d pass s
  | .controlPeriod r => Sys2Proof.Machine.execControlPeriod r s
  | .dramLimitRaise k => Sys2Proof.Machine.execDramLimitRaise k s
  | .neighbourThrottle k => Sys2Proof.Machine.execNeighbourThrottle k s
  | .refreshRestore d layer => Sys2Proof.Machine.execRefreshRestore d layer s
  | .junctionRaise k => Sys2Proof.Machine.execJunctionRaise k s
  | .powerRaise => Sys2Proof.Machine.execPowerRaise s
  | .halfRateStart d amps => Sys2Proof.Machine.execHalfRateStart d amps s
  | .pointRampDone k => Sys2Proof.Machine.execPointRampDone k s
  | .aspaceCreate id asid => Sys2Proof.Machine.execAspaceCreate id asid s
  | .aspaceDestroy id => Sys2Proof.Machine.execAspaceDestroy id s
  | .map id frame => Sys2Proof.Machine.execMap id frame s
  | .unmap id => Sys2Proof.Machine.execUnmap id s
  | .place id frame => Sys2Proof.Machine.execPlace id frame s
  | .bias id => Sys2Proof.Machine.execBias id s
  | .imagoLoad id slot frame => Sys2Proof.Machine.execImagoLoad id slot frame s
  | .imagoLoadDone slot => Sys2Proof.Machine.execImagoLoadDone slot s
  | .imagoRetire id => Sys2Proof.Machine.execImagoRetire id s
  | .libraryStore id => Sys2Proof.Machine.execLibraryStore id s
  | .nop id => Sys2Proof.Machine.execNop id s
  | .demotion d frame => Sys2Proof.Machine.execDemotion d frame s
  | .promotion asid vpn frame => Sys2Proof.Machine.execPromotion asid vpn frame s
  | .pageMoveDone asid vpn => Sys2Proof.Machine.execPageMoveDone asid vpn s
  | .lateRead j why => Sys2Proof.Machine.execLateRead j why s
  | .nandReadDone library page fails => Sys2Proof.Machine.execNandReadDone library page fails s
  | .badBlockRetire channel block => Sys2Proof.Machine.execBadBlockRetire channel block s
  | .wearLevelMove channel block fresh => Sys2Proof.Machine.execWearLevelMove channel block fresh s
  | .readDisturbRefresh channel block fresh => Sys2Proof.Machine.execReadDisturbRefresh channel block fresh s
  | .cxlLinkTrain rate width => Sys2Proof.Machine.execCxlLinkTrain rate width s
  | .ringContextWrite r ctx => Sys2Proof.Machine.execRingContextWrite r ctx s
  | .ringEnable r => Sys2Proof.Machine.execRingEnable r s
  | .ringDisable r => Sys2Proof.Machine.execRingDisable r s
  | .sqTail r t => Sys2Proof.Machine.execSqTail r t s
  | .cqHead r h => Sys2Proof.Machine.execCqHead r h s
  | .push r entry => Sys2Proof.Machine.execPush r entry s
  | .sqFetch r entry => Sys2Proof.Machine.execSqFetch r entry s
  | .job id => Sys2Proof.Machine.execJob id s
  | .completionPost r hostError => Sys2Proof.Machine.execCompletionPost r hostError s
  | .holdoffExpiry r => Sys2Proof.Machine.execHoldoffExpiry r s
  | .hostSnoop r => Sys2Proof.Machine.execHostSnoop r s
  | .eventPost hostError => Sys2Proof.Machine.execEventPost hostError s
  | .quench id => Sys2Proof.Machine.execQuench id s
  | .quenchCtrl v bytes => Sys2Proof.Machine.execQuenchCtrl v bytes s
  | .quenchNAssert => Sys2Proof.Machine.execQuenchNAssert s
  | .quenchNRelease => Sys2Proof.Machine.execQuenchNRelease s
  | .mbGo opcode len vector payload => Sys2Proof.Machine.execMbGo opcode len vector payload s
  | .dictRead => Sys2Proof.Machine.execDictRead s
  | .dictWrite => Sys2Proof.Machine.execDictWrite s
  | .changeOrder => Sys2Proof.Machine.execChangeOrder s
  | .claim => Sys2Proof.Machine.execClaim s
  | .attestReport => Sys2Proof.Machine.execAttestReport s
  | .attestCertificate => Sys2Proof.Machine.execAttestCertificate s
  | .hostMemRead pdpa => Sys2Proof.Machine.execHostMemRead pdpa s
  | .hostMemWrite pdpa line => Sys2Proof.Machine.execHostMemWrite pdpa line s
  | .hdmCommit decoder base size skip ways lock => Sys2Proof.Machine.execHdmCommit decoder base size skip ways lock s
  | .objectWrite f => Sys2Proof.Machine.execObjectWrite f s
  | .store v => Sys2Proof.Machine.execStore v s
  | .storeDone ok => Sys2Proof.Machine.execStoreDone ok s
  | .restore v => Sys2Proof.Machine.execRestore v s
  | .restoreDefaults v => Sys2Proof.Machine.execRestoreDefaults v s
  | .sillClear v => Sys2Proof.Machine.execSillClear v s
  | .resetCauseClear v => Sys2Proof.Machine.execResetCauseClear v s
  | .pmbusClear v => Sys2Proof.Machine.execPmbusClear v s
  | .vinCoreSetpoint v => Sys2Proof.Machine.execVinCoreSetpoint v s
  | .pmbusPoll r => Sys2Proof.Machine.execPmbusPoll r s
  | .fnEnable v => Sys2Proof.Machine.execFnEnable v s
  | .fnQuench v => Sys2Proof.Machine.execFnQuench v s
  | .lossQuery v => Sys2Proof.Machine.execLossQuery v s
  | .coreRetire d v => Sys2Proof.Machine.execCoreRetire d v s
  | .spareSwapDone c pass => Sys2Proof.Machine.execSpareSwapDone c pass s
  | .drain d => Sys2Proof.Machine.execDrain d s
  | .undrain d => Sys2Proof.Machine.execUndrain d s
  | .update d => Sys2Proof.Machine.execUpdate d s
  | .updateRestart d => Sys2Proof.Machine.execUpdateRestart d s
  | .updateDone d e => Sys2Proof.Machine.execUpdateDone d e s
  | .hubUpdate => Sys2Proof.Machine.execHubUpdate s
  | .rejoin d => Sys2Proof.Machine.execRejoin d s
  | .autoRejoin d => Sys2Proof.Machine.execAutoRejoin d s
  | .rejoinDone d => Sys2Proof.Machine.execRejoinDone d s
  | .fwStageKind v => Sys2Proof.Machine.execFwStageKind v s
  | .fwStageData v => Sys2Proof.Machine.execFwStageData v s
  | .fwStageCommit v => Sys2Proof.Machine.execFwStageCommit v s
  | .cocoonBankSwap v => Sys2Proof.Machine.execCocoonBankSwap v s
  | .fnFrame frame => Sys2Proof.Machine.execFnFrame frame s
  | .sessionGrant => Sys2Proof.Machine.execSessionGrant s
  | .sessionClose => Sys2Proof.Machine.execSessionClose s
  | .sessionExpiry n => Sys2Proof.Machine.execSessionExpiry n s
  | .reassemblyTimeout buffer => Sys2Proof.Machine.execReassemblyTimeout buffer s
  | .jobDispatch j => Sys2Proof.Machine.execJobDispatch j s
  | .clusterWake k => Sys2Proof.Machine.execClusterWake k s
  | .wakeDone k => Sys2Proof.Machine.execWakeDone k s
  | .coldAfterExpiry k => Sys2Proof.Machine.execColdAfterExpiry k s
  | .clusterDrydownDone k => Sys2Proof.Machine.execClusterDrydownDone k s
  | .spill c frame => Sys2Proof.Machine.execSpill c frame s
  | .spillDone c => Sys2Proof.Machine.execSpillDone c s
  | .spillRestore c failed => Sys2Proof.Machine.execSpillRestore c failed s
  | .forcedSwitch j => Sys2Proof.Machine.execForcedSwitch j s
  | .fallbackSwitch j => Sys2Proof.Machine.execFallbackSwitch j s
  | .deadlineExpiry j => Sys2Proof.Machine.execDeadlineExpiry j s
  | .heartbeat d p watchdogExpired => Sys2Proof.Machine.execHeartbeat d p watchdogExpired s
  | .heartbeatMiss d p => Sys2Proof.Machine.execHeartbeatMiss d p s
  | .watchdogExpiry d => Sys2Proof.Machine.execWatchdogExpiry d s
  | .dieLoss d memory => Sys2Proof.Machine.execDieLoss d memory s
  | .ringRehome r => Sys2Proof.Machine.execRingRehome r s
  | .ringReturn r => Sys2Proof.Machine.execRingReturn r s
  | .groupRehome g => Sys2Proof.Machine.execGroupRehome g s
  | .jobRequeue j => Sys2Proof.Machine.execJobRequeue j s
  | .secondDieFill it => Sys2Proof.Machine.execSecondDieFill it s
  | .fillDone it => Sys2Proof.Machine.execFillDone it s
  | .repack => Sys2Proof.Machine.execRepack s
  | .repackSwitch frame => Sys2Proof.Machine.execRepackSwitch frame s
  | .lockstepMismatch => Sys2Proof.Machine.execLockstepMismatch s
  | .cocoonRestartDone ok => Sys2Proof.Machine.execCocoonRestartDone ok s
  | .trip cause sensor reading => Sys2Proof.Machine.execTrip cause sensor reading s
  | .tripRelease cool => Sys2Proof.Machine.execTripRelease cool s
  | .aliasGenDone => Sys2Proof.Machine.execAliasGenDone s
  | .porAssert => Sys2Proof.Machine.execPorAssert s
  | .porRelease bootSel clkMode => Sys2Proof.Machine.execPorRelease bootSel clkMode s
  | .instarStart u pass => Sys2Proof.Machine.execInstarStart u pass s
  | .perstAssert => Sys2Proof.Machine.execPerstAssert s
  | .perstRelease => Sys2Proof.Machine.execPerstRelease s
  | .hotReset => Sys2Proof.Machine.execHotReset s
  | .flr => Sys2Proof.Machine.execFlr s
  | .dieRstAssert d => Sys2Proof.Machine.execDieRstAssert d s
  | .dieRstRelease d => Sys2Proof.Machine.execDieRstRelease d s
  | .dieReleaseDone d => Sys2Proof.Machine.execDieReleaseDone d s
  | .clusterRst k => Sys2Proof.Machine.execClusterRst k s
  | .coreRst c => Sys2Proof.Machine.execCoreRst c s
  | .idleReport b => Sys2Proof.Machine.execIdleReport b s
  | .idleTimeout b => Sys2Proof.Machine.execIdleTimeout b s
  | .supplyLoss r => Sys2Proof.Machine.execSupplyLoss r s
  | .referenceQualified => Sys2Proof.Machine.execReferenceQualified s
  | .linkTrain l badLanes => Sys2Proof.Machine.execLinkTrain l badLanes s
  | .laneRetrain l => Sys2Proof.Machine.execLaneRetrain l s
  | .laneRetrainDone l => Sys2Proof.Machine.execLaneRetrainDone l s
  | .linkFault l => Sys2Proof.Machine.execLinkFault l s
  | .unassignedOpcode c op b => Sys2Proof.Machine.execUnassignedOpcode c op b s
  | .watchdogRestartTimeout d => Sys2Proof.Machine.execWatchdogRestartTimeout d s
  | .releaseSequenceOverrun d => Sys2Proof.Machine.execReleaseSequenceOverrun d s
  | .coreLogicUe c => Sys2Proof.Machine.execCoreLogicUe c s
  | .vinCoreUp => Sys2Proof.Machine.execVinCoreUp s
  | .hubUpdateDone => Sys2Proof.Machine.execHubUpdateDone s
  | .currentLimitRaise => Sys2Proof.Machine.execCurrentLimitRaise s
  | .pmbusEnable v => Sys2Proof.Machine.execPmbusEnable v s

end Sys2Proof.Machine
end

