-- ==== Sys2Proof/Machine/Step.lean ====
section
/-! DEFINITION. One step: the command at the front of the queue, or the passing of time. -/

namespace Sys2Proof.Machine

/-- What the empty queue does: 100 ns go by, in which flits cross the links (R25) and the copies of migrations move on
(R316), and nothing that a command stands for happens (DESIGN CHOICE, log 2). -/
def State.tick (s : State) : State := passTime { s with nowNs := s.nowNs + 100 }

/-- Take the command at the front of the queue and give its effect, or let time pass. -/
def step (s : State) : Host.Outcome State Fault Refusal :=
  match s.pending with
  | c :: rest => exec c { s with pending := rest }
  | [] => .next s.tick

/-- The state with the command that a word spells put at the front of its queue. -/
def State.withFetchWord (s : State) (nbits w : Nat) : State :=
  match decodeTableWord nbits w with
  | some c => { s with pending := c :: s.pending }
  | none => s

end Sys2Proof.Machine
end

