-- ==== Sys2Proof/Machine/Bar.lean ====
section
/-! DEFINITION. What the host reads in BAR0 (R362, R363): doorbell pages (R368), ring contexts (R366), the admin and quench
registers (R385), the mailbox (R389), the MSI-X table and its pending bits, and the sillage window (R394). The table has no
row for a read: it changes nothing. -/

namespace Sys2Proof.Machine

def ringCode : RingState → Nat
  | .disabled => 0
  | .enabled => 1
  | .drydown => 2
  | .pendingEnable => 3
  | .error => 4

/-- The 64 bytes of a ring's context (R366). -/
def ringContext (s : State) (r : Nat) : Nat :=
  let x := getRing s r
  packItems [(352, 0), (1, x.phase.toNat), (16, x.cqTail), (16, x.sqHead), (8, x.error), (2, ringHome s r)
    , (3, ringCode x.state), (1, x.enable.toNat), (1, x.lcAllowed.toNat), (1, x.priv.toNat), (10, x.holdoff)
    , (11, x.vector), (5, x.cqLog2), (5, x.sqLog2), (40, x.cqBase), (40, x.sqBase)]

/-- A register of a ring's doorbell page (R368). -/
def doorbellReg (s : State) (r o : Nat) : Nat :=
  let x := getRing s r
  match o with
  | 0x00 => x.tail
  | 0x08 => x.cqHead
  | 0x10 => x.sqHead
  | 0x18 => ringCode x.state + 256 * x.error
  | _ => 0

/-- A quench is in progress: a job that it ended has not completed (R385). -/
def quenchActive (s : State) : Bool := s.jobs.any fun j => j.2.failed = some failQuenched

/-- The admin and quench registers (R385). -/
def adminReg (s : State) (o : Nat) : Nat :=
  match o with
  | 0x000 => packItems [(1, s.hub.ready.toNat), (3, 0), (4, accordMask s), (24, 0), (32, s.accord.epoch)]
  | 0x008 => uptimeUs s
  | 0x018 => packItems [(1, (quenchActive s).toNat), (1, s.hub.quenchPin.toNat), (30, 0), (32, s.hub.stopped)]
  | 0x020 => packItems [(5, s.hub.linkWidth), (3, 0), (2, s.hub.linkRate), (6, 0), (1, s.hub.cxlMode.toNat)]
  | _ => 0

/-- The mailbox (R389). -/
def mailboxReg (s : State) (o : Nat) : Nat :=
  let m := s.hub.mb
  match o with
  | 0x000 => m.vector * 2 ^ 16
  | 0x008 => packItems [(1, m.busy.toNat), (7, 0), (8, m.result), (16, m.respLen)]
  | 0x010 => m.opcode
  | 0x018 => m.len
  | _ => if o < 0x100 then 0 else leNat ((m.payload.drop (o - 0x100)).take 8)

/-- An MSI-X table entry; one that was not written is masked (R362, PCIe). -/
def msixEntry (s : State) (v : Nat) : Nat := (tgetD s.hub.msix v (BitVec.ofNat 128 (2 ^ 96))).toNat

/-- 64 bits of the pending-bit array. -/
def pendingReg (s : State) (o : Nat) : Nat :=
  ((List.range 64).map fun i => if s.hub.msixPending.contains (8 * o + i) then 2 ^ i else 0).sum

/-- The sillage record that lies in slot `k` of the window (R394): the newest n with n mod 131,072 = k; 0 where there is
none. -/
def sillSlot (s : State) (k : Nat) : Nat :=
  let back := (s.sillWritten + 131071 - k) % 131072
  ((s.sill[back]?).getD 0).toNat

/-- The sillage window (R394). -/
def sillReg (s : State) (o : Nat) : Nat :=
  match o with
  | 0x0000 => s.sillWritten
  | 0x0008 => 131072
  | _ => if o < 0x1000 then 0 else sillSlot s ((o - 0x1000) / 32) / 2 ^ (8 * (o % 32))

/-- The eight bytes at an offset of BAR0 that is a multiple of 8 (R362). -/
def barReg (s : State) (o : Nat) : Nat :=
  (if o < 0x02000000 then doorbellReg s (o / 0x1000) (o % 0x1000)
   else if o < 0x02080000 then ringContext s ((o - 0x02000000) / 64) / 2 ^ (8 * (o % 64))
   else if 0x02100000 ≤ o ∧ o < 0x02101000 then adminReg s (o - 0x02100000)
   else if 0x02200000 ≤ o ∧ o < 0x02201000 then mailboxReg s (o - 0x02200000)
   else if 0x02300000 ≤ o ∧ o < 0x02308000 then msixEntry s ((o - 0x02300000) / 16) / 2 ^ (8 * (o % 16))
   else if 0x02308000 ≤ o ∧ o < 0x02308100 then pendingReg s (o - 0x02308000)
   else if 0x02400000 ≤ o ∧ o < 0x02801000 then sillReg s (o - 0x02400000)
   else 0) % 2 ^ 64

/-- A read of BAR0 (R363): 4 or 8 bytes, naturally aligned, little-endian; any other reads as zero. -/
def barRead (s : State) (o size : Nat) : Nat :=
  if (size = 4 ∨ size = 8) ∧ o % size = 0 then barReg s (o / 8 * 8) / 2 ^ (8 * (o % 8)) % 2 ^ (8 * size) else 0

end Sys2Proof.Machine
end

