-- ==== Sys2Proof/WellFormed.lean ====
section
/-! DEFINITION. Which commands the surroundings of the part can send: operands inside the widths and sizes
that the manual gives them. A tile instruction carries any 120 bits: what is wrong with a word is for the machine
to find (R107, R145). The meanings are total and do not rest on this check. -/

namespace Sys2Proof

/-- The widths of the CXL link (R360). -/
def cxlWidth (w : Nat) : Bool := w = 1 || w = 2 || w = 4 || w = 8 || w = 16

/-- The lanes of a bridge and of a hub link in one direction, spares included (R21). -/
def linkLanes (l : Fin 10) : Nat := if l.val < 6 then 512 + 16 else 128 + 8

/-- Readings of a control period: none, or two of the hub die, 17 a compute die and 128 a die of the stack (R16, R332). -/
def readingsOk (r : Readings) : Bool :=
  (r.hub.length = 0 || r.hub.length = 2) && (r.compute.length = 0 || r.compute.length = 68) && (r.dram.length = 0 || r.dram.length = 512)
    && (r.dieA.length = 0 || r.dieA.length = 4)

/-- A request lies in the backed 120 GiB of its die, and a write carries its bytes (R308). -/
def dramReqOk (r : DramReq) : Bool :=
  decide (0 < r.len) && decide (r.dpa + r.len ≤ 120 * 2 ^ 30) && (match r.write with
    | some bs => decide (bs.length = r.len)
    | none => true)

/-- The command is one that can be sent. -/
def wellFormed : Instr → Bool
  | .commit _ _ layer _ => decide (layer < 256)
  | .appendDone _ _ layer => decide (layer < 256)
  | .scratchScrub _ _ badBits => decide (badBits ≤ 72)
  | .dramRequest _ r => dramReqOk r
  | .ceWriteback _ _ dpa => decide (dpa < 120 * 2 ^ 30)
  | .adderOp _ dpa .. => decide (dpa < 120 * 2 ^ 30)
  | .controlPeriod r => readingsOk r
  | .cxlLinkTrain _ width => cxlWidth width
  | .mbGo _ _ _ payload => decide (payload.length ≤ 3840)
  | .hostMemRead pdpa => decide (pdpa < 2 ^ 39)
  | .hostMemWrite pdpa line => decide (pdpa < 2 ^ 39) && decide (line.length = 64)
  | .hdmCommit _ base size skip ways _ =>
    decide (base < 2 ^ 64) && decide (size < 2 ^ 64) && decide (skip < 2 ^ 64) && decide (1 ≤ ways)
  | .quenchCtrl _ bytes => decide (1 ≤ bytes) && decide (bytes ≤ 8)
  | .linkTrain l badLanes => decide (badLanes ≤ linkLanes l)
  | .fwStageData v => decide (v.length ≤ 3776)
  | .fnFrame f => decide (f.length ≤ 1518)
  | .ldt .. | .stt .. | .gath .. | .scat .. | .mma .. | .mmax .. | .ewu .. | .ewb .. | .act .. | .win .. | .pool ..
  | .atts .. | .attv .. | .scan .. | .lconv .. | .route .. | .comb .. | .boxd .. | .nms .. | .madd .. | .cnta ..
  | .cvt .. | .wait .. | .sig .. | .bar .. | .loop .. | .jmp .. | .skipl .. | .fork .. | .drop .. | .dropTrunc ..
  | .passOver .. | .identityWrite .. | .instrRetire .. | .segmentComplete .. | .fetchHazardStart .. | .sigAddLands ..
  | .watchRelease .. | .watchPoll .. | .syncTimeout .. | .jobStart .. | .jobComplete .. | .lcPreempt .. | .lcResumeBe ..
  | .rampEnd .. | .rearmPromote .. | .mcastBlockFetch .. | .carouselStart .. | .commitResume .. | .prefixOffer ..
  | .mirrorFill .. | .groupCreate .. | .groupDestroy .. | .join .. | .leave .. | .stepBoundary .. | .evictionDone ..
  | .swapOutRequest .. | .swapOut .. | .swapIn .. | .swapInDone .. | .patrolScrub .. | .regulatorTick ..
  | .migrateRequest .. | .recalExpiry .. | .migrationStart .. | .migrationSwap .. | .retrainDone .. | .dramLimitRaise ..
  | .neighbourThrottle .. | .refreshRestore .. | .junctionRaise .. | .powerRaise | .halfRateStart .. | .pointRampDone ..
  | .aspaceCreate .. | .aspaceDestroy .. | .map .. | .unmap .. | .place .. | .bias .. | .imagoLoad .. | .imagoLoadDone ..
  | .imagoRetire .. | .libraryStore .. | .nop .. | .demotion .. | .promotion .. | .pageMoveDone .. | .lateRead ..
  | .nandReadDone .. | .badBlockRetire .. | .wearLevelMove .. | .readDisturbRefresh .. | .ringContextWrite ..
  | .ringEnable .. | .ringDisable .. | .sqTail .. | .cqHead .. | .push .. | .sqFetch .. | .job .. | .completionPost ..
  | .holdoffExpiry .. | .hostSnoop .. | .eventPost .. | .quench .. | .quenchNAssert | .quenchNRelease | .dictRead
  | .dictWrite | .changeOrder | .claim | .attestReport | .attestCertificate | .objectWrite .. | .store .. | .storeDone ..
  | .restore .. | .restoreDefaults .. | .sillClear .. | .resetCauseClear .. | .pmbusClear .. | .vinCoreSetpoint ..
  | .pmbusPoll .. | .fnEnable .. | .fnQuench .. | .lossQuery .. | .coreRetire .. | .spareSwapDone .. | .drain ..
  | .undrain .. | .update .. | .updateRestart .. | .updateDone .. | .hubUpdate | .rejoin .. | .autoRejoin ..
  | .rejoinDone .. | .fwStageKind .. | .fwStageCommit .. | .cocoonBankSwap .. | .sessionGrant | .sessionClose
  | .sessionExpiry .. | .reassemblyTimeout .. | .jobDispatch .. | .clusterWake .. | .wakeDone .. | .coldAfterExpiry ..
  | .clusterDrydownDone .. | .spill .. | .spillDone .. | .spillRestore .. | .forcedSwitch .. | .fallbackSwitch ..
  | .deadlineExpiry .. | .heartbeat .. | .heartbeatMiss .. | .watchdogExpiry .. | .dieLoss .. | .ringRehome ..
  | .ringReturn .. | .groupRehome .. | .jobRequeue .. | .secondDieFill .. | .fillDone .. | .repack | .repackSwitch ..
  | .lockstepMismatch | .cocoonRestartDone .. | .trip .. | .tripRelease .. | .aliasGenDone | .porAssert | .porRelease ..
  | .instarStart .. | .perstAssert | .perstRelease | .hotReset | .flr | .dieRstAssert .. | .dieRstRelease ..
  | .dieReleaseDone .. | .clusterRst .. | .coreRst .. | .idleReport .. | .idleTimeout .. | .supplyLoss ..
  | .referenceQualified | .laneRetrain .. | .laneRetrainDone .. | .linkFault .. | .unassignedOpcode ..
  | .watchdogRestartTimeout .. | .releaseSequenceOverrun .. | .coreLogicUe .. | .vinCoreUp | .hubUpdateDone
  | .currentLimitRaise | .pmbusEnable .. => true

end Sys2Proof
end

