-- ==== Sys2Proof/Certificates/Slice0/Obligations.lean ====
section
/-! DEFINITION. The statements for the provers. Where a statement gives the state that `exec` answers as an update of
the state before, every field that the update does not name is unchanged: the equation is the command's frame too. -/

section Statements
open Sys2Proof Sys2Proof.Machine

/-! ### The step -/

/-- A step takes the command at the front of the queue and is its meaning on the state with the rest of the queue. -/
def Obligations.StepRunsFrontCommand : Prop :=
  ∀ (c : Instr) (rest : List Instr) (s : State),
    step { s with pending := c :: rest } = exec c { s with pending := rest }

/-- On an empty queue 100 ns of uptime pass, in which memories, cores, jobs, groups, rings, settings and fuses stay as
they are (the model's choice, log 2); while no flit waits on a link or to the host, no credit is out and no
migration copies, nothing else changes at all. -/
def Obligations.StepIdlesOnEmptyQueue : Prop :=
  ∀ s : State, s.pending = [] →
    (∃ t, step s = .next t ∧ t.nowNs = s.nowNs + 100 ∧ t.pending = [] ∧ t.dram = s.dram ∧ t.hostMem = s.hostMem ∧
      t.nand = s.nand ∧ t.scratch = s.scratch ∧ t.cores = s.cores ∧ t.jobs = s.jobs ∧ t.aspaces = s.aspaces ∧
      t.groups = s.groups ∧ t.rings = s.rings ∧ t.cmds = s.cmds ∧ t.dict = s.dict ∧ t.coc = s.coc) ∧
    (linksIdle s = true → s.hub.tx.io = 0 → s.hub.tx.rest = 0 →
      (∀ d < 4, ∀ m, (getDie s d).mig = some m → m.phase ≠ 1) → step s = .next { s with nowNs := s.nowNs + 100 })

/-- Every meaning completes in every state (a command that the part does not take leaves it as it is, log 3) and leaves
the queue of waiting commands as it is. -/
def Obligations.MeaningsCompleteAndKeepTheQueue : Prop :=
  ∀ (c : Instr) (s : State), ∃ t, exec c s = .next t ∧ t.pending = s.pending

/-! ### Invariants -/

/-- Every memory is in its canonical form: addresses rise strictly, and no byte is listed that an unlisted one reads as. -/
def MemoriesCanonical (s : State) : Prop :=
  memWf s.dram = true ∧ memWf s.hostMem = true ∧ memWf s.nand = true ∧ memWf s.scratch = true

/-- The canonical form of the four memories is kept by every step (the form is the model's, log 1). -/
def Obligations.StepKeepsMemoriesCanonical : Prop :=
  ∀ s t : State, MemoriesCanonical s → step s = .next t → MemoriesCanonical t

/-- A core's two places hold a task of their own class each. -/
def TaskClassesAgree (s : State) : Prop :=
  ∀ c, (∀ t, (getCore s c).be = some t → t.lc = false) ∧ (∀ t, (getCore s c).lc = some t → t.lc = true)

/-- Every step keeps each task in the place of its class (the state's own shape). -/
def Obligations.StepKeepsTaskClasses : Prop :=
  ∀ s t : State, TaskClassesAgree s → step s = .next t → TaskClassesAgree t

/-- The trail holds at most 131,072 records (R394). -/
def SillageBounded (s : State) : Prop := s.sill.length ≤ 131072

/-- No step makes the trail longer than the 131,072 records of R394. -/
def Obligations.StepKeepsSillageBounded : Prop :=
  ∀ s t : State, SillageBounded s → step s = .next t → SillageBounded t

/-- PRIV of ring 0 reads 1 (R366). -/
def RingZeroPrivileged (s : State) : Prop := (getRing s 0).priv = true

/-- PRIV of ring 0 reads 1 after every step (R366). -/
def Obligations.StepKeepsRingZeroPrivileged : Prop :=
  ∀ s t : State, RingZeroPrivileged s → step s = .next t → RingZeroPrivileged t

/-- A die's permanent fuse, once blown, stays blown through every step, the resets included (R516). -/
def Obligations.BlownFuseHolds : Prop :=
  ∀ (s t : State) (d : Die), s.coc.fuses[d] = true → step s = .next t → t.coc.fuses[d] = true

/-- The state under power-on reset meets the invariants. -/
def Obligations.ResetMeetsInvariants : Prop :=
  MemoriesCanonical State.reset ∧ TaskClassesAgree State.reset ∧ SillageBounded State.reset ∧ RingZeroPrivileged State.reset

/-! ### The sequencer's own instructions -/

/-- The sequencer of core `c` can take the word `b` of opcode `op` in the context `x`: the task issues and stands in the
place of its class, no index register that the word names is still to be written (R93), and the bits that no sequencer
instruction may set are clear. -/
def SeqReady (s : State) (c : Nat) (x : Ctx) (op : BitVec 8) (b : Body) : Prop :=
  issueCtx s c = some x ∧ getTask s c x.task.lc = some x.task ∧ ixStalls x.task op b = false ∧ field b 112 3 = 0
    ∧ wiBit b = false

/-- The instruction address that a signed 20-bit offset names from the context's instruction (R139). -/
def branchTarget (x : Ctx) (off : Nat) : Int := x.task.pc + toSigned 20 off

/-- LOOP (R140): STEP adds IMM to ix[CIX] and branches to TARGET while the limit is not reached, a target outside the
program being FAIL_BOUNDS (R139); SET, ADD and COPY write ix[CIX] and go on; a reserved bit, or IMM = 0 in STEP,
ends the job with reason RESERVED, and ix0 as CIX with reason IX0_WRITE (R98, R148). -/
def Obligations.LoopUpdatesAndBranches : Prop :=
  ∀ (c : CoreNo) (b : Body) (s : State) (x : Ctx), SeqReady s c x 0xB0 b →
    let cix := field b 108 4
    let lix := field b 104 4
    let mode := field b 102 2
    let imm := toSigned 32 (field b 50 32)
    let write (v : Int) : State := seqDone x b (setIx s x cix v)
    let sum := ixVal x.ix cix + imm
    let v := toSigned 32 (ofSigned 32 sum)
    let lim := if lix = cix then v else ixVal x.ix lix
    let taken := (0 < imm ∧ v < lim) ∨ (imm < 0 ∧ lim < v)
    let tgt := branchTarget x (field b 82 20)
    ((field b 0 50 ≠ 0 ∨ (mode = 0 ∧ imm = 0)) → exec (.loop c b) s = .next (failHere s x (failIllegal 0x02))) ∧
    (field b 0 50 = 0 → (mode = 0 → imm ≠ 0) → cix = 0 → exec (.loop c b) s = .next (failHere s x (failIllegal 0x07))) ∧
    (field b 0 50 = 0 → cix ≠ 0 →
      (mode = 1 → exec (.loop c b) s = .next (nextPc (write imm) x)) ∧
      (mode = 2 → exec (.loop c b) s = .next (nextPc (write sum) x)) ∧
      (mode = 3 → exec (.loop c b) s = .next (nextPc (write (ixVal x.ix lix + imm)) x)) ∧
      (mode = 0 → imm ≠ 0 → ¬taken → exec (.loop c b) s = .next (nextPc (write sum) x)) ∧
      (mode = 0 → taken → 0 ≤ tgt → tgt < x.job.progLen → exec (.loop c b) s = .next (goto (write sum) x tgt.toNat)) ∧
      (mode = 0 → taken → (tgt < 0 ∨ x.job.progLen ≤ tgt) →
        exec (.loop c b) s = .next (failJob (write sum) x.jobn x.core x.task.pc failBounds)))

/-- JMP (R141): it branches, goes on, or ends the core's part of the job (R96); a target outside the program is
FAIL_BOUNDS (R139); a reserved bit or a reserved CMP ends the job with reason RESERVED (R148). -/
def Obligations.JmpBranchesOrEnds : Prop :=
  ∀ (c : CoreNo) (b : Body) (s : State) (x : Ctx), SeqReady s c x 0xB1 b →
    let a := ixVal x.ix (field b 84 4)
    let d := ixVal x.ix (field b 80 4)
    let holds := (field b 88 3 = 0 ∧ a = d) ∨ (field b 88 3 = 1 ∧ a ≠ d) ∨ (field b 88 3 = 2 ∧ a < d)
      ∨ (field b 88 3 = 3 ∧ d ≤ a)
    let go := bit b 91 = false ∨ holds
    let s1 := seqDone x b s
    let tgt := branchTarget x (field b 92 20)
    ((field b 0 79 ≠ 0 ∨ 4 ≤ field b 88 3) → exec (.jmp c b) s = .next (failHere s x (failIllegal 0x02))) ∧
    (field b 0 79 = 0 → field b 88 3 < 4 →
      (¬go → exec (.jmp c b) s = .next (nextPc s1 x)) ∧
      (go → bit b 79 = true → exec (.jmp c b) s = .next (updTask s1 x.core x.task.lc fun t =>
        { t with ended := true, endNs := some s1.nowNs })) ∧
      (go → bit b 79 = false → 0 ≤ tgt → tgt < x.job.progLen → exec (.jmp c b) s = .next (goto s1 x tgt.toNat)) ∧
      (go → bit b 79 = false → (tgt < 0 ∨ x.job.progLen ≤ tgt) →
        exec (.jmp c b) s = .next (failJob s1 x.jobn x.core x.task.pc failBounds)))

/-- SKIPL on a length within 1 to PMAX: the body is skipped when the tile lies at or beyond the length, and else runs
(R156 steps 4 and 5). SKIPL on a length below 0 or above PMAX writes the clamped length, raises OK_CLAMPED, counts
and records it; at length zero OK_EMPTY is raised, and the body is skipped for every tile number from zero on (R156
steps 1 to 4). -/
def Obligations.SkiplSkipsAndClamps : Prop :=
  (∀ (c : CoreNo) (b : Body) (s : State) (x : Ctx), SeqReady s c x 0xB2 b → field b 0 52 = 0 → field b 68 16 ≠ 0 →
     field b 52 16 ≠ 0 → field b 108 4 ≠ field b 104 4 →
     let len := ixVal x.ix (field b 104 4)
     let tile := ixVal x.ix (field b 108 4)
     1 ≤ len → len ≤ field b 84 20 →
     ((tile < 0 ∨ len ≤ tile * field b 52 16) →
       exec (.skipl c b) s = .next (nextPc (seqDone x b (updTask s x.core x.task.lc fun t =>
         { t with skips := { lo := t.pc + 1, hi := t.pc + 1 + field b 68 16, zero := false } :: t.skips })) x)) ∧
     (0 ≤ tile → tile * field b 52 16 < len → exec (.skipl c b) s = .next (nextPc (seqDone x b s) x))) ∧
  (∀ (c : CoreNo) (b : Body) (s : State) (x : Ctx), SeqReady s c x 0xB2 b → field b 0 52 = 0 → field b 68 16 ≠ 0 →
     field b 52 16 ≠ 0 → field b 108 4 ≠ field b 104 4 → 0 ≤ ixVal x.ix (field b 108 4) →
     let len := ixVal x.ix (field b 104 4)
     let lix := field b 104 4
     let pmax := field b 84 20
     let skipped (s : State) (zero : Bool) : State := updTask s x.core x.task.lc fun t =>
       { t with skips := { lo := t.pc + 1, hi := t.pc + 1 + field b 68 16, zero := zero } :: t.skips }
     let empty (s : State) : State := bump (raiseOk s x.jobn 1) 0xE045 (coreDie x.core + 1) 1
     (len < 0 → exec (.skipl c b) s =
       .next (nextPc (seqDone x b (skipped (empty (skiplClamp x s lix len 0 pmax)) true)) x)) ∧
     (len = 0 → exec (.skipl c b) s = .next (nextPc (seqDone x b (skipped (empty s) true)) x)) ∧
     ((pmax : Int) < len → 0 < pmax → pmax ≤ ixVal x.ix (field b 108 4) * field b 52 16 →
       exec (.skipl c b) s = .next (nextPc (seqDone x b (skipped (skiplClamp x s lix len pmax pmax) false)) x)))

/-- CNTA adds INC to the counter word, writes the old value to ix[DIX], and goes to EXIT once the value has reached the
work count held in another register (R133); ix0 as DIX ends the job with reason IX0_WRITE (R98). -/
def Obligations.CntaClaimsWork : Prop :=
  ∀ (c : CoreNo) (b : Body) (s : State) (x : Ctx), SeqReady s c x 0x81 b → field b 0 54 = 0 → field b 74 16 ≠ 0 →
    (field b 94 4 = 0 → exec (.cnta c b) s = .next (failHere s x (failIllegal 0x07))) ∧
    (∀ (va old : Nat) (s1 : State), field b 94 4 ≠ 0 → field b 90 4 ≠ field b 94 4 → counterVa x b 98 = .ok va →
      memAdd32 s x.job.asid va (field b 74 16) = .ok (old, s1) →
      let v := toSigned 32 old
      let s2 := seqDone x b (setIx s1 x (field b 94 4) v)
      let tgt := branchTarget x (field b 54 20)
      (v < ixVal x.ix (field b 90 4) → exec (.cnta c b) s = .next (nextPc s2 x)) ∧
      (ixVal x.ix (field b 90 4) ≤ v → 0 ≤ tgt → tgt < x.job.progLen →
        exec (.cnta c b) s = .next (goto s2 x tgt.toNat)))

/-- WAIT on a semaphore that has reached COUNT subtracts COUNT and goes on; on one that has not, issue is held; on a
counter word that has reached ix[VIX] it goes on at once, and on one below it issue is held, with a watch where the
word's controller has one free (R136, R207). SIG with every earlier instruction retired adds COUNT to its semaphore,
or sends its add to the counter word and goes on (R136). BAR with every earlier instruction retired arrives at its
barrier, and waits for the earlier ones else (R137). -/
def Obligations.WaitSigAndBarSynchronise : Prop :=
  (∀ (c : CoreNo) (b : Body) (s : State) (x : Ctx), SeqReady s c x 0xA0 b → field b 0 73 = 0 →
     let n := field b 107 4
     let blocked (w : Blocked) : State := updTask s x.core x.task.lc fun t =>
       { t with blocked := some w, since := s.nowNs, waitDone := doneSem b }
     (bit b 111 = false → n ≠ 0 → field b 91 16 ≤ (x.task.sem.getD n 0).toNat →
       exec (.wait c b) s = .next (finishWait (updTask (blocked (.sem n (field b 91 16))) x.core x.task.lc fun t =>
         { t with sem := t.sem.setIfInBounds n (BitVec.ofNat 16 ((x.task.sem.getD n 0).toNat - field b 91 16)) })
           x.core x.task.lc true)) ∧
     (bit b 111 = false → n ≠ 0 → (x.task.sem.getD n 0).toNat < field b 91 16 →
       exec (.wait c b) s = .next (blocked (.sem n (field b 91 16)))) ∧
     (∀ va v, bit b 111 = true → counterVa x b 77 = .ok va → counterAt s x.job.asid va = .ok v →
       ixVal x.ix (field b 73 4) ≤ v → exec (.wait c b) s = .next (seqDone x b (nextPc s x))) ∧
     (∀ va v, bit b 111 = true → counterVa x b 77 = .ok va → counterAt s x.job.asid va = .ok v →
       v < ixVal x.ix (field b 73 4) → exec (.wait c b) s =
         .next (blocked (.watch va (ixVal x.ix (field b 73 4)) (watchFree s x.job.asid va) false))) ∧
     (bit b 111 = false → n = 0 → exec (.wait c b) s = .next (failHere s x (failIllegal 0x0B)))) ∧
  (∀ (c : CoreNo) (b : Body) (s : State) (x : Ctx), SeqReady s c x 0xA1 b → field b 0 77 = 0 → quiet x.task = true →
     let blocked (w : Blocked) : State := updTask s x.core x.task.lc fun t =>
       { t with blocked := some w, since := s.nowNs, waitDone := doneSem b }
     (bit b 111 = false → field b 107 4 ≠ 0 →
       exec (.sig c b) s = .next (semAdd (finishWait (blocked (.sigSem (field b 107 4) (field b 91 16))) x.core x.task.lc true)
         x.core x.task.lc x.task.pc (field b 107 4) (field b 91 16))) ∧
     (∀ va, bit b 111 = true → counterVa x b 77 = .ok va →
       exec (.sig c b) s = .next (finishWait (updTask (blocked (.sigMem va (field b 91 16))) x.core x.task.lc fun t =>
         { t with sigAdds := t.sigAdds ++ [(va, field b 91 16, t.waitDone, t.pc)] }) x.core x.task.lc false))) ∧
  (∀ (c : CoreNo) (b : Body) (s : State) (x : Ctx), SeqReady s c x 0xA2 b → field b 0 92 = 0 →
     let w := Blocked.barPre (field b 108 4) (field b 92 16)
     let t1 : Task := { x.task with blocked := some w, since := s.nowNs, waitDone := doneSem b }
     let s1 := updTask s x.core x.task.lc fun _ => t1
     (quiet x.task = true →
       exec (.bar c b) s = .next (arrive s1 x.core x.task.lc t1 (field b 108 4) (field b 92 16))) ∧
     (quiet x.task = false → exec (.bar c b) s = .next s1))

/-- The opcodes that R112 assigns. -/
def opcodesOfTable : List (BitVec 8) :=
  [0x01, 0x02, 0x03, 0x04, 0x10, 0x11, 0x20, 0x21, 0x22, 0x30, 0x31, 0x40, 0x41, 0x50, 0x51, 0x60, 0x61, 0x70, 0x71,
   0x80, 0x81, 0x90, 0xA0, 0xA1, 0xA2, 0xB0, 0xB1, 0xB2, 0xC0, 0xC1]

/-- Every opcode that R112 does not assign, 0x00 and 0xFF included, ends the job with FAIL_ILLEGAL_INSTR, reason OPCODE;
the word of an assigned one is not taken for such. The opcode of an instruction word picks the command by R112's
map, and bit 107 of a DROP picks its form (R143). -/
def Obligations.UnassignedOpcodeEndsTheJob : Prop :=
  (∀ (c : CoreNo) (op : BitVec 8) (b : Body) (s : State) (x : Ctx), issueCtx s c = some x →
    (opcodesOfTable.contains op = false → exec (.unassignedOpcode c op b) s = .next (failHere s x (failIllegal 0x01))) ∧
    (opcodesOfTable.contains op = true → exec (.unassignedOpcode c op b) s = .next s)) ∧
  (∀ (c : CoreNo) (w : BitVec 128),
    let b := bodyOf w
    let map : List (Nat × Instr) := [(0x01, .ldt c b), (0x02, .stt c b), (0x03, .gath c b), (0x04, .scat c b),
      (0x10, .mma c b none), (0x11, .mmax c b none), (0x20, .ewu c b none), (0x21, .ewb c b), (0x22, .act c b none),
      (0x30, .win c b), (0x31, .pool c b), (0x40, .atts c b none), (0x41, .attv c b none), (0x50, .scan c b),
      (0x51, .lconv c b), (0x60, .route c b none), (0x61, .comb c b []), (0x70, .boxd c b none), (0x71, .nms c b),
      (0x80, .madd c b), (0x81, .cnta c b), (0x90, .cvt c b), (0xA0, .wait c b), (0xA1, .sig c b), (0xA2, .bar c b),
      (0xB0, .loop c b), (0xB1, .jmp c b), (0xB2, .skipl c b), (0xC0, .fork c b)]
    (∀ p, p ∈ map → (w.extractLsb' 120 8).toNat = p.1 → decodeWord c w = p.2) ∧
    ((w.extractLsb' 120 8).toNat = 0xC1 → decodeWord c w = if w.getLsbD 107 then .dropTrunc c b else .drop c b) ∧
    (opcodesOfTable.contains (w.extractLsb' 120 8) = false →
      decodeWord c w = .unassignedOpcode c (w.extractLsb' 120 8) b))

/-! ### The instructions of the two engines -/

/-- What issue takes of an instruction of an engine: the engine (true: execute), the opcode, the fault and the order that the
command gives, whether WI is allowed, whether the instruction's own bits are right, what issue looks at of its operands
(LDT's descriptors, R102, R103), and its effect. -/
structure EngineForm where
  exe : Bool
  op : BitVec 8
  fault : Option Nat := none
  order : List Nat := []
  wiOk : Bool := false
  good : Bool
  look : Ctx → Res Unit := fun _ => .ok ()
  effect : Effect

/-- The fetch engine's instructions (R91): opcodes of R112, reserved bits and values of their own rules. -/
def fetchForm : Instr → Option (CoreNo × Body × EngineForm)
  | .ldt c b => some (c, b, { exe := false, op := 0x01, good := field b 0 77 = 0, look := ldtWord b
                              effect := ldtEffect })
  | .stt c b => some (c, b, { exe := false, op := 0x02, good := field b 0 84 = 0, effect := sttEffect })
  | .gath c b => some (c, b, { exe := false, op := 0x03, good := field b 0 70 = 0, effect := gathEffect })
  | .scat c b => some (c, b, { exe := false, op := 0x04, good := field b 0 68 = 0 && field b 68 2 < 2, effect := scatEffect })
  | .win c b => some (c, b, { exe := false, op := 0x30, good := field b 0 78 = 0, effect := winEffect })
  | .madd c b => some (c, b, { exe := false, op := 0x80, good := field b 0 68 = 0 && field b 68 2 < 3, effect := maddEffect })
  | .fork c b => some (c, b, { exe := false, op := 0xC0, effect := forkEffect
                               good := field b 0 102 = 0 && field b 102 2 < 3 && field b 104 4 ≠ 0 })
  | .drop c b => some (c, b, { exe := false, op := 0xC1, good := field b 0 103 = 0 && !bit b 107, effect := dropEffect })
  | .dropTrunc c b => some (c, b, { exe := false, op := 0xC1, good := field b 0 103 = 0 && bit b 107, effect := dropEffect })
  | _ => none

/-- The matrix, element-wise, window and conversion instructions of the execute engine. -/
def computeForm : Instr → Option (CoreNo × Body × EngineForm)
  | .mma c b f => some (c, b, { exe := true, op := 0x10, fault := f, wiOk := true, effect := matEffect mmaIns
                                good := field b 0 13 = 0 && (mmaIns b).func ≤ 8 && (mmaIns b).binop ≤ 5 && (mmaIns b).rnd ≠ 3 })
  | .mmax c b f => some (c, b, { exe := true, op := 0x11, fault := f, wiOk := true, effect := matEffect mmaxIns
                                 good := field b 0 17 = 0 && (mmaxIns b).func ≤ 8 && (mmaxIns b).binop ≤ 5 && (mmaxIns b).rnd ≠ 3 })
  | .ewu c b f => some (c, b, { exe := true, op := 0x20, fault := f, wiOk := decide (7 ≤ field b 80 4), effect := ewuEffect
                                good := field b 0 44 = 0 && field b 80 4 < 10 && field b 77 2 ≠ 3 })
  | .ewb c b => some (c, b, { exe := true, op := 0x21, effect := ewbEffect
                              good := field b 0 61 = 0 && field b 66 4 < 8 && field b 62 2 ≠ 3 })
  | .act c b f => some (c, b, { exe := true, op := 0x22, fault := f, effect := actEffect
                                good := field b 0 43 = 0 && 1 ≤ field b 80 4 && field b 80 4 ≤ 8 && field b 77 2 ≠ 3 })
  | .pool c b => some (c, b, { exe := true, op := 0x31, wiOk := true, effect := poolEffect
                               good := field b 0 73 = 0 && field b 74 2 ≠ 3 })
  | .cvt c b => some (c, b, { exe := true, op := 0x90, good := field b 0 53 = 0 && field b 54 2 ≠ 3, effect := cvtEffect })
  | _ => none

/-- The attention, recurrence, routing and detection instructions of the execute engine. -/
def sequenceForm : Instr → Option (CoreNo × Body × EngineForm)
  | .atts c b f => some (c, b, { exe := true, op := 0x40, fault := f, effect := attsEffect
                                 good := field b 40 2 = 3 || field b 42 14 = 0 })
  | .attv c b f => some (c, b, { exe := true, op := 0x41, fault := f, effect := attvEffect
                                 good := field b 0 38 = 0 && field b 39 2 ≠ 3 })
  | .scan c b => some (c, b, { exe := true, op := 0x50, good := field b 0 49 = 0 && field b 50 2 ≠ 3, effect := scanEffect })
  | .lconv c b => some (c, b, { exe := true, op := 0x51, good := field b 0 47 = 0 && field b 48 2 ≠ 3, effect := lconvEffect })
  | .route c b f => some (c, b, { exe := true, op := 0x60, fault := f, effect := routeEffect
                                  good := field b 0 46 = 0 && field b 50 2 < 3 && 1 ≤ field b 52 4 && field b 52 4 ≤ 8 })
  | .comb c b o => some (c, b, { exe := true, op := 0x61, order := o, wiOk := true, effect := combEffect
                                 good := field b 0 52 = 0 && field b 53 2 ≠ 3 })
  | .boxd c b f => some (c, b, { exe := true, op := 0x70, fault := f, effect := boxdEffect
                                 good := field b 0 31 = 0 && field b 68 2 < 2 && !isNaN (decodeNum .fp32 (field b 31 32)) })
  | .nms c b => some (c, b, { exe := true, op := 0x71, good := field b 0 2 = 0 && field b 2 4 ≠ 0, effect := nmsEffect })
  | _ => none

/-- The sequencer of core `c` can issue the word to its engine in the context `x`: the task issues and stands in the place of
its class, it is in no body being skipped, the engine's queue has room (R165), no index register that the word names is
still to be written (R93), and the word's bits, with an LDT's descriptors, are right (R102, R107, R111). -/
def IssueReady (s : State) (c : Nat) (x : Ctx) (b : Body) (f : EngineForm) : Prop :=
  issueCtx s c = some x ∧ getTask s c x.task.lc = some x.task ∧ liveSkips x.task = [] ∧
    (queueOf x.task f.exe).length < queueCap x.task.lc f.exe ∧ ixStalls x.task f.op b = false ∧ field b 112 3 = 0 ∧
    (wiBit b = true → f.wiOk = true) ∧ f.good = true ∧ f.look x = .ok ()

/-- The queue entry of an instruction at its issue, with the index values captured (R92). -/
def issuedEntry (s : State) (x : Ctx) (b : Body) (f : EngineForm) : QEntry :=
  { uid := s.seq, pc := x.task.pc, op := f.op, body := b, ix := x.task.ix, fault := f.fault, order := f.order }

/-- The state once an entry has entered its engine's queue and issue has gone on behind it. -/
def queuedState (s : State) (x : Ctx) (exe : Bool) (e : QEntry) : State :=
  nextPc (updTask { s with seq := s.seq + 1 } x.core x.task.lc fun t => setQueue t exe (queueOf t exe ++ [e])) x

/-- Nothing holds the entry `e` that has just entered its queue, by what its operands alone tell: every earlier one of the
engine has started (R94), none of them holds a carried-state slot that an execute instruction reads (R298, R299), no pass
waits for a ramp (R73), and no slot, fetch hazard or multicast destination stands against what it reads and writes (R167,
R187, R298). -/
def NothingHolds (s : State) (x x1 : Ctx) (f : EngineForm) (e : QEntry) : Prop :=
  let before := queueOf x.task f.exe
  let touches := opTouches x1 e.op e.body
  before.all (·.started) = true ∧
    (f.exe = true → ∀ q ∈ before, ∀ n ∈ q.slots, n ∉ slotsTouched x1 touches.1) ∧
    (f.exe = true → onQuad e.op = true → (getCore s x.core).rampDue = false) ∧
    holdOf x1 f.exe before e.uid touches.1 touches.2 = .none

/-- The instructions of a table of forms, issued with nothing to hold them, start at once: the state is what the
instruction's effect leaves, what its reads meet is noted (R461, R462), the entry holds what it reads, writes and still
moves, and a waiting shadow stream that it displaces retires (R180). -/
def StartsAtOnce (form : Instr → Option (CoreNo × Body × EngineForm)) : Prop :=
  ∀ (i : Instr) (c : CoreNo) (b : Body) (f : EngineForm) (s : State) (x x1 : Ctx) (e : QEntry) (r : Eff),
    form i = some (c, b, f) → IssueReady s c x b f →
    issueLook f.effect x (issuedEntry s x b f) s = .ok e →
    entryCtx (queuedState s x f.exe e) c x.task.lc e = some x1 →
    NothingHolds (queuedState s x f.exe e) x x1 f e →
    f.effect x1 e (queuedState s x f.exe e) = .ok r → r.hold ≠ .carousel → r.hold ≠ .commits →
    let touches := opTouches x1 e.op e.body
    holdOf x1 f.exe (queueOf x.task f.exe) e.uid (r.reads ++ touches.1) (r.writes ++ touches.2) = .none →
    let t := setEntry (noteReads r.st c x1.job.asid r.reads) c x.task.lc f.exe (queueOf x.task f.exe).length
      { e with started := true, hold := r.hold, segs := r.segs, reads := r.reads ++ touches.1,
               writes := r.writes ++ touches.2, sid := r.sid, mcast := r.mcast, group := r.group, outs := r.outs,
               lateIx := r.lateIx,
               slots := slotsTouched x1 (r.reads ++ r.writes ++ touches.1 ++ touches.2) }
    exec i s = .next (match r.drop with
      | some u => displace t x1 e.pc (r.sid.getD 0) u
      | none => t)

/-- LDT, STT, GATH, SCAT, WIN, MADD, FORK and DROP start at once and have their effect (R94, R165, R166). (Readings and
choices of the model: log 13, 21.) -/
def Obligations.FetchInstructionsStart : Prop :=
  StartsAtOnce fetchForm

/-- MMA, MMAX, EWU, EWB, ACT, POOL and CVT start at once and have their effect (R94, R165, R166). (Readings and choices
of the model: log 13, 21, 92.) -/
def Obligations.ComputeInstructionsStart : Prop :=
  StartsAtOnce computeForm

/-- ATTS, ATTV, SCAN, LCONV, ROUTE, COMB, BOXD and NMS start at once and have their effect (R94, R165, R166). (Readings
and choices of the model: log 13, 21, 22, 96.) -/
def Obligations.SequenceInstructionsStart : Prop :=
  StartsAtOnce sequenceForm

/-- Any instruction of an engine. -/
def engineForms (i : Instr) : Option (CoreNo × Body × EngineForm) :=
  match fetchForm i with
  | some f => some f
  | none => match computeForm i with
    | some f => some f
    | none => sequenceForm i

/-- Behind an instruction of the same engine that has not started, an instruction only enters the queue: instructions of
one engine start in the order of their issue (R94). A full queue holds issue: nothing changes until an entry frees
(R91). -/
def Obligations.EngineIssuesInOrderOrHolds : Prop :=
  (∀ (i : Instr) (c : CoreNo) (b : Body) (f : EngineForm) (s : State) (x : Ctx) (e : QEntry),
     engineForms i = some (c, b, f) → IssueReady s c x b f →
     (queueOf x.task f.exe).any (fun q => !q.started) = true →
     issueLook f.effect x (issuedEntry s x b f) s = .ok e → exec i s = .next (queuedState s x f.exe e)) ∧
  (∀ (i : Instr) (c : CoreNo) (b : Body) (f : EngineForm) (s : State) (x : Ctx),
     engineForms i = some (c, b, f) → f.good = true → issueCtx s c = some x → getTask s c x.task.lc = some x.task →
     queueCap x.task.lc f.exe ≤ (queueOf x.task f.exe).length → exec i s = .next s)

/-- In a body being skipped an engine instruction with WI = 0, or with WI = 1 when some length was above zero, is passed
over: issue goes on behind it, and its DONE_SEM adds at once (R157 to R159). A word with one of the common reserved
bits set ends its job with FAIL_ILLEGAL_INSTR, reason RESERVED (R107, R148). -/
def Obligations.PassedOverAndReservedWords : Prop :=
  (∀ (c : CoreNo) (op : BitVec 8) (b : Body) (s : State) (x : Ctx), issueCtx s c = some x →
     (liveSkips x.task).isEmpty = false → (engineOf op).isSome = true →
     (wiBit b = false ∨ (liveSkips x.task).all (·.zero) = false) →
     exec (.passOver c op b) s = .next (seqDone x b (nextPc s x))) ∧
  (∀ (i : Instr) (c : CoreNo) (b : Body) (f : EngineForm) (s : State) (x : Ctx),
     engineForms i = some (c, b, f) → f.good = true → issueCtx s c = some x → getTask s c x.task.lc = some x.task →
     liveSkips x.task = [] → (queueOf x.task f.exe).length < queueCap x.task.lc f.exe →
     ixStalls x.task f.op b = false → field b 112 3 ≠ 0 →
     exec i s = .next (failHere s x (failIllegal 2)))

/-! ### Retirement, segments, held instructions, waits -/

/-- An instruction with nothing outstanding retires: it leaves its queue and its DONE_SEM adds (R95, R107); a segment of
a started instruction that holds a slot of its class completes, a remote one with its flits on the bridge (R24,
R170, R171); while an LC job has the core, a best-effort segment that was not in flight does not (R168). -/
def Obligations.RetirementAndSegmentsComplete : Prop :=
  (∀ (c : CoreNo) (lc exe : Bool) (k : Nat) (s : State) (t : Task) (e : QEntry) (j : Job), getTask s c lc = some t →
    (queueOf t exe)[k]? = some e → tget s.jobs t.job = some j → entryDone e = true → mcastDone s j e = true →
    nextEntry (retireEntry s c lc exe k e) c lc true = none →
    exec (.instrRetire c lc exe k) s = .next (retireEntry s c lc exe k e)) ∧
  (∀ (c : CoreNo) (lc exe : Bool) (k : Nat) (cls : SlotClass) (s : State) (t : Task) (e : QEntry) (g : Seg)
    (segs : List Seg), getTask s c lc = some t → (queueOf t exe)[k]? = some e → e.started = true →
    (lc = true ∨ (getCore s c).lcHas = false) → clsEarlier t cls e < slotsOfClass t cls →
    takeSeg cls false e.segs = some (g, segs) →
    exec (.segmentComplete c lc { exe := exe, k := k } cls) s =
      .next (setEntry (segFlits s c e.op g) c lc exe k { e with segs := segs })) ∧
  (∀ (c : CoreNo) (exe : Bool) (k : Nat) (cls : SlotClass) (s : State) (t : Task) (e : QEntry), getTask s c false = some t →
    (queueOf t exe)[k]? = some e → (getCore s c).lcHas = true → takeSeg cls true e.segs = none →
    exec (.segmentComplete c false { exe := exe, k := k } cls) s = .next s)

/-- A fetch instruction that waited for an overlapping earlier one (R167), and a carousel LDT that waited for its
neighbours (R189), start when they may: `s1` is the state that the start leaves. -/
def Obligations.HeldInstructionsStart : Prop :=
  ∀ (c : CoreNo) (lc : Bool) (k : Nat) (e : QEntry) (s s1 : State), mayStart s c lc = true →
    nextEntry s c lc false = some (k, e) → startEntry s c lc false k = (s1, true) → nextEntry s1 c lc false = none →
    (e.hold = .hazard → exec (.fetchHazardStart c lc k) s = .next s1) ∧
    (e.hold = .carousel → (∀ q, (getCore s q).spill = none) → exec (.carouselStart c lc k) s = .next s1)

/-- The add of a SIG lands in the order of the SIGs and the SIG retires (R136). A WAIT on a counter word for which the
controller keeps a watch goes on once an add has met it, and else waits; one without a watch reads the word 2 µs
after it last did, goes on at the awaited value and waits on below it (R207). A WAIT or BAR that has waited longer
than SYNC_TIMEOUT_US ends its job with FAIL_TIMEOUT, and one that has not is left alone (R138). -/
def Obligations.CounterWaitsAddsAndTimeouts : Prop :=
  (∀ (c : CoreNo) (lc : Bool) (s : State) (t : Task) (j : Job), getTask s c lc = some t → tget s.jobs t.job = some j →
     (∀ va n dn pc rest old s1, t.sigAdds = (va, n, dn, pc) :: rest →
       memAdd32 (updTask s c lc fun t => { t with sigAdds := rest }) j.asid va n = .ok (old, s1) →
       exec (.sigAddLands c lc) s = .next (poke (semAdd s1 c lc pc dn 1) c lc)) ∧
     (∀ va least held met, t.blocked = some (.watch va least held met) →
       (held = true → met = true → exec (.watchRelease c lc) s = .next (finishWait s c lc true)) ∧
       (held = false ∨ met = false → exec (.watchRelease c lc) s = .next s) ∧
       (held = true ∨ s.nowNs < max t.pollNs t.since + 2000 → exec (.watchPoll c lc) s = .next s)) ∧
     (∀ va least met v, t.blocked = some (.watch va least false met) → max t.pollNs t.since + 2000 ≤ s.nowNs →
       counterAt s j.asid va = .ok v →
       (least ≤ v → exec (.watchPoll c lc) s = .next (finishWait s c lc true)) ∧
       (v < least → exec (.watchPoll c lc) s = .next (updTask s c lc fun t => { t with pollNs := s.nowNs })))) ∧
  (∀ (c : CoreNo) (lc : Bool) (s : State) (t : Task), getTask s c lc = some t → bounded t.blocked = true →
     (t.timeout * 1000 < s.nowNs - t.since → exec (.syncTimeout c lc) s = .next (failJob s t.job c t.pc failTimeout)) ∧
     (s.nowNs - t.since ≤ t.timeout * 1000 → exec (.syncTimeout c lc) s = .next s))

/-! ### Carried-state slots, multicast and streams -/

/-- Adds on SWAP_OUT are answered as R299 says: at once for a SWAPPED slot, by the swap-out under way, and by a new
request for a RESIDENT one; adds that landed during a swap-in wait for its trigger. The requested swap-out runs once
nothing started touches the slot. A held instruction triggers the swap-in of a SWAPPED slot; at its end the slot is
RESIDENT and the instructions held on it look again (R298, R300). -/
def Obligations.SlotsSwapOutAndIn : Prop :=
  (∀ (c : CoreNo) (lc : Bool) (n : Nat) (s : State) (t : Task) (j : Job) (sl : Slot), slotAt s c lc n = some (t, j, sl) →
     let adds := sl.landed + (if triggerLive t sl then 0 else sl.landedIn)
     let took := updSlot s c lc n fun q => { q with landed := 0, landedIn := sl.landed + sl.landedIn - adds }
     ((adds = 0 ∨ sl.state = .inn) → exec (.swapOutRequest c lc n) s = .next s) ∧
     (adds ≠ 0 → sl.state = .swapped → exec (.swapOutRequest c lc n) s = .next (addDone took j.asid sl.record adds)) ∧
     (adds ≠ 0 → sl.state = .out → exec (.swapOutRequest c lc n) s =
       .next (updSlot took c lc n fun q => { q with covered := q.covered + adds })) ∧
     (∀ t1 j1 s1, adds ≠ 0 → sl.state = .resident → slotAt took c lc n = some (t1, j1, s1) →
       exec (.swapOutRequest c lc n) s =
         .next (putSlot took c lc n t1 j1 { s1 with state := .out, wanted := true, covered := adds, landed := 0 })) ∧
     (∀ s1, sl.wanted = true → slotBusy t n = false → swapOut s c lc n = .ok s1 →
       exec (.swapOut c lc n) s = .next s1) ∧
     (sl.wanted = true → slotBusy t n = true → exec (.swapOut c lc n) s = .next s)) ∧
  (∀ (c : CoreNo) (lc : Bool) (n : Nat) (s : State) (t : Task) (j : Job) (sl : Slot), slotAt s c lc n = some (t, j, sl) →
     (∀ e, triggerOf s c lc n = some e → sl.state = .swapped → (lc = true ∨ (getCore s c).spill = none) →
       exec (.swapIn c lc n) s = .next (putSlot s c lc n t j { sl with state := .inn, trigger := some e.uid })) ∧
     (∀ s1, sl.state = .inn → swapIn s c lc n = .ok s1 → exec (.swapInDone c lc n) s = .next (retrySlot n s1 c lc)))

/-- The shadow list of a stream becomes the running one when the running LDT has retired (R179); the sender of a
multicast group fetches and delivers its next block (R184). In a body skipped at length zero an engine instruction
with WI = 1 is issued as an identity write: behind an entry that has not started it enters its queue with the mark
of one (R157, R160). A scrub that finds a word of the scratchpad with more bad bits than one marks it uncorrectable
and records it; a correct word is left alone (R74). -/
def Obligations.StreamsMulticastIdentityAndScrub : Prop :=
  ((∀ (c : CoreNo) (lc : Bool) (sid : Fin 8) (s : State) (t : Task) (u k : Nat) (e : QEntry) (x : Ctx) (r : Eff),
     getTask s c lc = some t → mayStart s c lc = true → t.ctxs[sid].running = some u →
     t.fq.findIdx? (fun q => q.uid = u && q.hold = .shadow) = some k → t.fq[k]? = some e → entryCtx s c lc e = some x →
     promote x e s = .ok r →
     exec (.rearmPromote c lc sid) s = .next (setEntry (noteReads r.st c x.job.asid r.reads) c lc false k
       { e with hold := .none, segs := r.segs, reads := r.reads ++ e.reads, writes := r.writes ++ e.writes
                mcast := r.mcast, group := r.group })) ∧
   (∀ (jn : Nat) (g : Fin 64) (s s1 : State) (j : Job) (ge : GroupEntry) (t : Task) (k : Nat) (e : QEntry) (m : McastPart),
     tget s.jobs jn = some j → tget j.groups g.val = some ge → getTask s (memberCore j ge 0) j.lc = some t →
     t.fq[k]? = some e → e.started = true → e.hold = .none → e.mcast = some m → m.group = g.val → m.sender = true →
     m.got < m.blocks → (∀ q ∈ t.fq.take k, q.mcast = none) → mcastFetch s jn j g.val ge k e m = .ok s1 →
     exec (.mcastBlockFetch jn g) s = .next s1)) ∧
  (∀ (c : CoreNo) (op : BitVec 8) (b : Body) (s : State) (x : Ctx) (exe : Bool) (f : Effect) (e : QEntry),
     issueCtx s c = some x → getTask s c x.task.lc = some x.task → engineOf op = some exe → effectOf op = some f →
     (liveSkips x.task).isEmpty = false → (liveSkips x.task).all (·.zero) = true → wiBit b = true → mayWi op b = true →
     field b 112 3 = 0 → identWord op b x = .ok () → (queueOf x.task exe).length < queueCap x.task.lc exe →
     ixStalls x.task op b = false → (queueOf x.task exe).any (fun q => !q.started) = true →
     issueLook f x { uid := s.seq, pc := x.task.pc, op := op, body := b, ix := x.task.ix, ident := true } s = .ok e →
     exec (.identityWrite c op b) s = .next (queuedState s x exe e)) ∧
  (∀ (c : CoreNo) (word : Fin 24576) (bad : Nat) (s : State),
     let w := (scratchBase c + 8 * word.val) / 8
     (2 ≤ bad → s.scratchUE.contains w = false → exec (.scratchScrub c word bad) s =
       .next (sillage { s with scratchUE := w :: s.scratchUE } 0x0011 (coreDie c) noJob
         (packItems [(16, c.val), (24, 8 * word.val)]))) ∧
     (bad ≤ 1 → s.scratchUE.contains w = false → exec (.scratchScrub c word bad) s = .next s))

/-! ### Jobs, preemption, clusters -/

/-- JOB puts its job in the queue of its class, JOB_DISPATCH places the first job whose cores can be had and completes
one that R398 and its like refuse, JOB_START starts the cores that are ready, and JOB_COMPLETE ends a job when every
core of it has ended (R96, R381, R382, R398). (Readings and choices of the model: log 14, 17.) -/
def Obligations.JobsAreTakenPlacedStartedEnded : Prop :=
  (∀ (id : Nat) (c : Cmd) (s : State), cmdReady s id 0x01 = some c → c.started = false → s.pins.quench = false →
    (jobOf id c).lc = true →
    let s1 := updCmd s id fun c => { c with started := true }
    exec (.job id) s = .next { s1 with jobs := tset s1.jobs id { jobOf id c with arrival := s1.sched.jobSeq },
                                       sched := { s1.sched with jobSeq := s1.sched.jobSeq + 1 } }) ∧
  (∀ (jn : Nat) (s : State) (j : Job), tget s.jobs jn = some j → j.state = .waiting → s.hub.pause = false →
    ringHeld s j.ring = false → isAside s j = false → isTurn s jn j = true →
    (∀ f, dispatchCheck s j = some f → exec (.jobDispatch jn) s = .next (endWaiting s jn f)) ∧
    (∀ cores, dispatchCheck s j = none → recordsClosed s j = true → imagoHolds s j = false → placeJob s j = some cores →
      exec (.jobDispatch jn) s = .next (dispatch s jn j cores))) ∧
  (∀ (jn c0 : Nat) (s s1 : State) (j : Job) (img : List Byte) (g : Tab GroupEntry) (cst : List CstEntry),
    tget s.jobs jn = some j → j.state = .placed → j.failed = none → j.cores.find? (coreReady s jn j) = some c0 →
    loadImage s c0 j = .ok img → startCheck s j img = .ok (g, cst) →
    let s0 := updJob s jn fun j => { j with groups := g, cst := cst, state := .running }
    startCores s0 jn j = .ok s1 →
    exec (.jobStart jn) s = .next (updJob s1 jn fun j => { j with snapIx := startSnap s0 s1 j j.snapIx })) ∧
  (∀ (jn : Nat) (s : State) (j : Job), tget s.jobs jn = some j → j.state = .running → j.interrupted = none →
    allEnded s jn j = true → exec (.jobComplete jn) s = .next (endJob (closeSlots s jn j) jn))

/-- An LC job placed on a busy core takes it, the segments in flight being recorded (R79, R168); when it is gone the
best-effort task goes on (R81); the end of a ramp lets the work that waited start (R72, R73); on a core whose ramp a
quench or the loss of a die cut short, the next pass only begins a new ramp (R73, R470). (Readings and choices of
the model: log 15.) -/
def Obligations.PreemptionAndRamp : Prop :=
  (∀ (c : CoreNo) (s : State) (l t : Task), (getCore s c).lc = some l → (getCore s c).be = some t →
    (getCore s c).lcHas = false → l.started = false → l.waiting = false → (getCore s c).ramp = false →
    exec (.lcPreempt c) s =
      .next (updTask (updCore (chargeTask s c false) c fun k => { k with lcHas := true }) c false landTask)) ∧
  (∀ (c : CoreNo) (s : State), (getCore s c).lcHas = true → (getCore s c).be.isSome = true → (getCore s c).spill = none →
    lcGone (getCore s c) = true → exec (.lcResumeBe c) s = .next (resumeBe s c)) ∧
  (∀ (c : CoreNo) (s : State), (getCore s c).ramp = true → exec (.rampEnd c) s =
    .next (goOnBoth (goOnBoth (setCore s c { getCore s c with ramp := false, warm := true }) c true) c false)) ∧
  (∀ (i : Instr) (c : CoreNo) (b : Body) (f : EngineForm) (s : State) (x x1 : Ctx) (e : QEntry),
    engineForms i = some (c, b, f) → IssueReady s c x b f → f.exe = true → onQuad f.op = true →
    (queueOf x.task true).all (·.started) = true → issueLook f.effect x (issuedEntry s x b f) s = .ok e →
    entryCtx (queuedState s x true e) c x.task.lc e = some x1 →
    (∀ q ∈ queueOf x.task true, ∀ n ∈ q.slots, n ∉ slotsTouched x1 (opTouches x1 e.op e.body).1) →
    (getCore (queuedState s x true e) c).rampDue = true →
    exec i s = .next (updCore (queuedState s x true e) c fun k => { k with ramp := true, rampDue := false }))

/-- A core whose LC job does not fit puts its best-effort data away page by page, the last page with the data itself;
the LC job may start once the spill is done; both pass the regulators in the LC job's partition (R327); the restore
reads the data back and resumes the task (R408, R409, R412). (Readings and choices of the model: log 18.) -/
def Obligations.SpillAndRestore : Prop :=
  (∀ (c : CoreNo) (frame v tier die : Nat) (rest : List Nat) (s : State) (l t : Task) (lj bj : Job) (p : Spilled),
    (getCore s c).lc = some l → (getCore s c).be = some t → tget s.jobs l.job = some lj → tget s.jobs t.job = some bj →
    (getCore s c).lcHas = true → l.started = false → fits lj l = false → atBoundary t = true →
    t.states.all (fun sl => sl.state = .swapped) = true → (getCore s c).spill = some p → p.need = v :: rest →
    placeFor s (coreDie c) 3 2 false = some (tier, die) → frameFits s tier die frame = true →
    let e : Pte := { tier := tier, die := die, writable := false, kind := 2, floor := 3, frame := frame, home := coreDie c,
                     used := s.nowNs }
    let s1 := updCore (setPte { s with free := s.free + 1 } p.asid v e) c fun k =>
      { k with spill := some { p with need := rest } }
    exec (.spill c frame) s = .next (if rest.isEmpty then paySpill (spillData s1 c p) p else s1)) ∧
  (∀ (c : CoreNo) (s : State) (p : Spilled), (getCore s c).spill = some p → p.need = [] → p.done = false →
    exec (.spillDone c) s = .next (updCore s c fun k => { k with spill := some { p with done := true } })) ∧
  (∀ (c : CoreNo) (s s1 : State) (p : Spilled) (t : Task), (getCore s c).spill = some p → (getCore s c).be = some t →
    p.done = true → lcGone (getCore s c) = true → spillBack s c p = .ok s1 →
    exec (.spillRestore c false) s = .next (resumeBe (dropSpill (chargeBack (paySpill s1 p) c p) c) c))

/-- A cluster that holds a task is woken, a woken one is warm with its tasks no longer waiting and its cores' function
units tested (R88), but for a core whose ramp was cut short (R73), an idle one beyond the reserve dries down after
COLD_AFTER_US, and a dried one is cold with its contents lost (R404 to R406, R491). An armed switch takes effect at
its boundary with the index registers as they stand, or is forced near the deadline with the snapshot's and
undefined data (R417, R418); an LC job at its deadline ends with FAIL_TIMEOUT, counted and recorded (R419); a late
read of an LC job with a fall-back is reported to its monitor (R417). -/
def Obligations.ClustersWakeFallbackAndDeadline : Prop :=
  ((∀ (k : ClusterNo) (s : State), dieUp s (k.val / 16) = true → clusterAlive s k = true → clusterHolds s k = true →
     exec (.clusterWake k) s = .next (wakeCluster s k)) ∧
   (∀ (k : ClusterNo) (s : State), (getCluster s k).power = .waking → exec (.wakeDone k) s =
     .next ((clusterCores k).foldl (fun s c => updCore (releaseFence s c) c fun x =>
       { x with warm := !x.rampDue, ramp := false
                be := x.be.map fun t => { t with waiting := false }
                lc := x.lc.map fun t => { t with waiting := false } })
       (updCluster (clusterCause s k 6) k fun x => { x with power := .warm, since := (clusterCause s k 6).nowNs }))) ∧
   (∀ (k : ClusterNo) (s : State), (getCluster s k).power = .warm → clusterHolds s k = false →
     setting s 0x3011 (k.val / 16 + 1) * 1000 ≤ s.nowNs - (getCluster s k).since →
     setting s 0x3010 (k.val / 16 + 1) < countPower s (k.val / 16) [.warm] → (getCluster s k).swap = none →
     (∀ c ∈ clusterCores k, tget s.cores c = none) →
     exec (.coldAfterExpiry k) s = .next (updCluster s k fun x => { x with power := .drying, wakeNs := s.nowNs })) ∧
   (∀ (k : ClusterNo) (s : State), (getCluster s k).power = .drying → (getCluster s k).pendingWake = false →
     exec (.clusterDrydownDone k) s =
       .next (updCluster (clusterCause ((clusterCores k).foldl loseCore s) k 6) k fun x =>
         { x with power := .cold, pendingWake := false }))) ∧
  (∀ (jn : Nat) (s : State) (j : Job), tget s.jobs jn = some j → j.failed = none → j.lc = true → j.state = .running →
     (j.switchDue = true → exec (.fallbackSwitch jn) s = .next (switchJob s jn j (jobIx s j))) ∧
     (j.fbEntry ≠ 0 → j.switched = false → j.armed = true → deadlineNs j < s.nowNs + setting s 0x3020 1 * 1000 →
       exec (.forcedSwitch jn) s = .next (undefJobData (switchJob s jn j j.snapIx) j)) ∧
     (j.deadlineUs ≠ 0 → deadlineNs j ≤ s.nowNs → exec (.deadlineExpiry jn) s =
       .next (failJobService (sillage (bump s 0xE07C 1 1) 0x0004 (jobHome (bump s 0xE07C 1 1) j) (jobField j)
         (packItems [(64, j.projUs), (64, deadlineNs j / 1000)])) jn failTimeout)) ∧
     (j.deadlineUs ≠ 0 → s.nowNs < deadlineNs j → exec (.deadlineExpiry jn) s = .next s) ∧
     (j.fbEntry ≠ 0 → j.switched = false → ∀ why, isLate s jn j why = true → exec (.lateRead jn why) s =
       .next (updJob (bump s 0xE06A (jobHome s j + 1) 1) jn fun j => { j with late := true })))

/-! ### The page service and rollout groups -/

/-- COMMIT appends the staged tokens of a future (R219), APPEND_DONE raises its committed length and adds to DONE, and
COMMIT_RESUME lets the next commit that waited for a page slot try again (R267). A commit whose turn has not come
waits (R254); the pages that it fills are BUSY until its end (R216). (Readings and choices of the model: log 107.) -/
def Obligations.CommitsAppendAndEnd : Prop :=
  (∀ (g : GroupNo) (idx : Fin 4096) (layer : Nat) (n : Int) (s s1 : State) (q : CommitReq) (gr : Group) (f : Future)
    (rows : List (List Machine.Num)) (codes : List Nat), groupUp s g = true →
    (s.commits.find? fun c => c.group = g.val && c.idx = idx.val && c.layer = layer) = some q → q.applied = false →
    q.waiting = false → q.group = g.val → q.idx = idx.val → q.layer = layer → toSigned 32 q.n = n →
    tget s.groups g = some gr → tget gr.futures idx = some f → f.state ≠ .free → 1 ≤ n → n ≤ 16 →
    ((f.lens.getD layer 0 : Nat) : Int) + n ≤ 1048576 →
    ((List.range n.toNat).mapM fun t => readStaged s gr idx layer t) = .ok rows →
    (if layer = 0 then (List.range n.toNat).mapM fun t => jobNat s gr.asid (stageBlock gr.layout idx + 4 * t) 4
      else .ok []) = .ok codes →
    appendTokens (serving s) s g idx layer (f.lens.getD layer 0) rows = some s1 → commitTurn s q = true →
    let len := f.lens.getD layer 0
    let s2 := updFuture (markBusy s1 g idx layer len n.toNat true) g idx fun f =>
      { f with codes := codes.zipIdx.foldl (fun t p => tset t (len + p.2) p.1) f.codes }
    exec (.commit g idx layer n) s = .next (retryCommits (setLag
      { s2 with commits := s2.commits.map fun c => if c.seq = q.seq then { c with applied := true, waiting := false } else c }
      g idx))) ∧
  (∀ (g : GroupNo) (idx : Fin 4096) (layer : Nat) (s s2 : State) (q : CommitReq) (gr : Group) (old : Nat),
    groupUp s g = true → (s.commits.find? fun c => c.group = g.val && c.idx = idx.val && c.layer = layer) = some q →
    q.applied = true → tget s.groups g = some gr →
    let n := (toSigned 32 q.n).toNat
    let len := (((tget gr.futures idx).map (·.lens)).getD []).getD layer 0
    add32 (updFuture (markBusy { s with commits := s.commits.filter fun c => c.seq ≠ q.seq } g idx layer len n false) g idx
      fun f => { f with lens := f.lens.modify layer (· + n) }) gr.asid (stageBlock gr.layout idx + 0x440 + 4 * layer) n
      = .ok (old, s2) →
    exec (.appendDone g idx layer) s = .next (retryCommits s2)) ∧
  (∀ (d : Die) (s : State) (q : CommitReq), nextWaiting s d = some q → groupUp s q.group = true →
    commitTurn s q = true → exec (.commitResume d) s = .next (retryCommits (runCommit (serving s) s q))) ∧
  (∀ (g : GroupNo) (idx : Fin 4096) (layer : Nat) (n : Int) (s : State) (q : CommitReq), groupUp s g = true →
    (s.commits.find? fun c => c.group = g.val && c.idx = idx.val && c.layer = layer) = some q → commitTurn s q = false →
    exec (.commit g idx layer n) s = .next (retryCommits s))

/-- A full block of a live future of a group with a prefix domain is offered to the tree of its home die, where it
enters once, with a reference on each of its pages if its parent is there and its hash is not (R235 to R237); a page
that a MIRROR future reaches gets its mirror (R260). -/
def Obligations.PrefixOffersAndMirrorsFill : Prop :=
  (∀ (g : GroupNo) (idx : Fin 4096) (s : State) (gr : Group) (f : Future) (ps : List Nat) (prev h : Nat)
    (codes : List Nat), groupUp s g = true → tget s.groups g = some gr → tget gr.futures idx = some f →
    ((List.range gr.layout.nlayers).mapM fun l => pageOf s f l 0) = some ps → chainTo f (hashSeed gr.layout) 0 = some (prev, h) →
    blockCodes f 0 = some codes → gr.layout.domain ≠ 0 → fLive f = true →
    (ps.all fun k => ((getPage s k).map (·.ntok)) = some 16) = true →
    (treeOf s gr.home).all (fun n => n.hash ≠ h) = true → (treeOf s gr.home).length < 262144 →
    f.offered.contains 0 = false →
    let s0 := updFuture s g idx fun f => { f with offered := 0 :: f.offered }
    let s1 := ps.foldl (fun s k => updPage s k fun p => { p with hash := some h }) s0
    let s2 := ps.foldl (fun s k => updPage s k fun p => { p with refcnt := p.refcnt + 1, inTree := true }) s1
    exec (.prefixOffer g idx 0) s = .next (setTree s2 gr.home
      ({ hash := h, parent := prev, codes := codes, block := 0, pages := ps, adopted := uptimeUs s2 } :: treeOf s1 gr.home))) ∧
  (∀ (d : Die) (page m : Nat) (s : State) (p : KvPage), serviceUp s d = true → getPage s (kvKey d page) = some p →
    mirrorDie (serving s) d = some m → p.mirror = none → p.mirrorOf = none →
    let reached := s.groups.flatMap fun e => (e.2.futures.filter fun f =>
      f.2.mirror && fLive f.2 && (futurePages s f.2).contains (kvKey d page)).map fun f => (e.1, f.1)
    reached ≠ [] → exec (.mirrorFill d page) s =
      .next (reached.foldl (fun s r => setLag s r.1 r.2) (addMirror s (kvKey d page) m false)))

/-- GROUP_CREATE makes a group in a free slot of its home die with its control block zeroed and completes with its
number (R242, R243); GROUP_DESTROY drops its futures and frees the slot (R243); JOIN and LEAVE wait for the group's
next boundary (R263, R264). (Readings and choices of the model: log 24, 25, 100.) -/
def Obligations.GroupCommandsTakeEffect : Prop :=
  (∀ (id : Nat) (slot : Fin 256) (s : State) (c : Cmd) (p : BitVec 512) (L : Layout), cmdReady s id 0x10 = some c →
    groupCheck s (field c.entry 470 10) (field c.entry 428 42 * 64) = .ok (p, L) →
    let home := field p 504 8
    let n := home * 256 + slot.val
    tget s.groups n = none →
    exec (.groupCreate id slot) s = .next (finishCmd (setGroup (jobWritesD s (field c.entry 470 10) (field p 400 48)
      (List.replicate 0x8040 0)) n
        { home := home, lc := bit p 503, prot := decide (field p 501 2 = 1), share := field p 480 16, maxF := field p 467 13
          asid := field c.entry 470 10, gcb := field p 400 48, layout := L, second := successor s home
          copyFresh := (successor s home).isSome }) id okStatus n)) ∧
  (∀ (id : Nat) (s : State) (c : Cmd), cmdReady s id 0x11 = some c → groupUp s (field c.entry 470 10) = true →
    exec (.groupDestroy id) s = .next (finishCmd (destroyGroup s (field c.entry 470 10)) id okStatus 0)) ∧
  (∀ (id : Nat) (s : State) (c : Cmd) (g : Group), cmdReady s id 0x12 = some c → c.started = false →
    tget s.groups (field c.entry 470 10) = some g → field c.entry 421 21 ≤ 1048576 →
    let e := c.entry
    let j : JoinReq := { cmd := id, kind := field e 468 2, prot := field e 466 2, priority := field e 458 8
                         reserve := field e 442 16, ncodes := field e 421 21, source := field e 384 32
                         codes := field e 338 46 * 4, boundary := g.stepIndex, seq := s.seq }
    exec (.join id) s = .next (updCmd (setGroup { s with seq := s.seq + 1 } (field e 470 10)
      { g with joins := g.joins ++ [j] }) id fun c => { c with started := true })) ∧
  (∀ (id : Nat) (s : State) (c : Cmd) (g : Group), cmdReady s id 0x13 = some c → c.started = false →
    field c.entry 448 32 < 2 ^ 31 → tget s.groups (handleGroup (field c.entry 448 32)) = some g →
    exec (.leave id) s = .next (updCmd (setGroup s (handleGroup (field c.entry 448 32))
      { g with leaves := g.leaves ++ [{ cmd := id, handle := field c.entry 448 32, drop := bit c.entry 447 }] }) id
      fun c => { c with started := true }))

/-- The step boundary that the oldest add on STEP asks for runs once the commits of the batch that landed before it are
done: LEAVEs, then JOINING futures, then the JOINs in order (R263); the end of an eviction lets the boundary go on
(R265). (Readings and choices of the model: log 26.) -/
def Obligations.StepBoundaryAndEviction : Prop :=
  ∀ (g : GroupNo) (s : State) (gr : Group), tget s.groups g = some gr → groupUp s g = true →
    (∀ t rest, gr.steps = t :: rest → gr.boundary = false → batchCommits s g gr t = false →
      exec (.stepBoundary g) s = .next (joinsAndClose (admitJoining (sweepBatch (gr.leaves.foldl (fun s l => runLeave s g l)
        (setGroup s g { gr with steps := rest, leaves := [], admitted := [], oks := [] })) g) g) g)) ∧
    (∀ t rest, gr.steps = t :: rest → batchCommits s g gr t = true → exec (.stepBoundary g) s = .next s) ∧
    (∀ s1, gr.boundary = true → gr.evicting ≠ [] →
      gr.evicting.foldlM (fun s v => evictFuture s v.1 v.2) s = some s1 →
      exec (.evictionDone g) s =
        .next (joinsAndClose (updGroup s1 g fun gr => { gr with evicting := [], boundary := false }) g))

/-! ### DRAM, migration, thermal control -/

/-- A request for a die that answers crosses the links (R24) and, with its partition's regulator open, is served at
once: a write of whole codewords lands byte by byte and clears their errors and their write-backs, correctable
codewords of a read are counted and queued for write-back, an uncorrectable one fails its job (R309 to R311). A
request beyond its regulator's tokens is held, and so is one behind it (R328, R329); one that touches a channel
being swapped waits for the swap (R315); a job whose write does not reach the die ends with FAIL_DIE_LOST (R460).
(Readings and choices of the model: log 111, 131, 152.) -/
def Obligations.DramRequestsAreServedOrHeld : Prop :=
  ∀ (d : Die) (r : DramReq) (s : State), r.dpa + r.len ≤ diePages * 65536 →
    let a := pkgDpa d r.dpa
    let sx := crossing s (reqNode r) d r
    let p := reqPart sx d r.src
    let s0 := admitReq sx d p (reqLc sx r.src) r.len
    (∀ j, reaches s (reqNode r) d (r.dpa / 65536) = false → r.src = .job j → r.write.isSome = true →
      exec (.dramRequest d r) s = .next (failJobService s j (failDieLost d))) ∧
    (reaches s (reqNode r) d (r.dpa / 65536) = true →
      (partMode sx d p ≠ 0 → reqLc sx r.src = false →
        (tokensOf sx d p < 64 ∨ (getDie sx d).held.any (fun h => h.part = p) = true) →
        exec (.dramRequest d r) s =
          .next (updDie sx d fun x => { x with held := x.held ++ [{ req := r, part := p, at0 := sx.nowNs }] })) ∧
      ((partMode sx d p = 0 ∨ reqLc sx r.src = true ∨
          (64 ≤ tokensOf sx d p ∧ (getDie sx d).held.any (fun h => h.part = p) = false)) →
        (swapTouches s0 d r.dpa r.len = true →
          exec (.dramRequest d r) s = .next (updDie s0 d fun x => { x with swapHeld := x.swapHeld ++ [.req r] })) ∧
        (swapTouches s0 d r.dpa r.len = false →
          (∀ bs n, r.write = some bs → bs.length = r.len → r.dpa % 128 = 0 → r.len = 128 * n →
            let inside (cw : Nat) : Bool := a / 128 ≤ cw && cw < a / 128 + n
            let s1 : State := { s0 with
              dram := memWrites s0.dram a bs
              dramUE := s0.dramUE.filter fun cw => !inside cw
              dies := tmap (fun k x => { x with
                wbacks := x.wbacks.filter fun w => !inside ((k * dieSpan + w.dpa) / 128) }) s0.dies }
            exec (.dramRequest d r) s = .next (if r.src = .host then sendHostMem s1 1 else s1)) ∧
          (r.write = none → r.src ≠ .host → (∀ i < cwCount r.dpa r.len,
              r.errs.getD i 0 < 9 ∧ s0.dramUE.contains (pkgDpa d (cwDpa r.dpa i) / 128) = false) →
            exec (.dramRequest d r) s = .next ((List.range (cwCount r.dpa r.len)).foldl (fun s i =>
              if 0 < r.errs.getD i 0 then noteCe s d (cwDpa r.dpa i) else s) s0)) ∧
          (∀ j, r.write = none → r.src = .job j → cwCount r.dpa r.len = 1 → 9 ≤ r.errs.getD 0 0 →
            let u := noteUe s0 d (cwDpa r.dpa 0)
            u.2 = false → exec (.dramRequest d r) s =
              .next (failJobService u.1 j (unserved u.1 d (cwDpa r.dpa 0)))))))

/-- A corrected codeword is written back once (R310); the patrol reads the two codewords of its next line and counts
their correctable errors and records the uncorrectable ones (R312); a memory-side adder applies its operation to the
word in one go, a fetch-add or compare-swap returns the old value, an add is passed to what watches the word, and a
misaligned word ends its job with SHAPE (R54, R324 to R326); at each tick the objects' values come into force and
every bucket gains 100 ns of its rate, up to its burst (R328, R331). -/
def Obligations.ScrubAddersAndRegulators : Prop :=
  (∀ (d : Die) (ch : Fin 128) (dpa : Nat) (s : State), exec (.ceWriteback d ch dpa) s =
    .next (updDie s d fun x => { x with wbacks := x.wbacks.erase { channel := ch.val, dpa := dpa } })) ∧
  (∀ (d : Die) (ch : Fin 128) (e0 e1 l : Nat) (s : State), logicalOf (getDie s d) ch = some l → dieUp s d = true →
    scrubDue s d ch = true →
    let x := getDie s d
    let line := tgetD x.scrubAt ch 0
    let dpa := lineAt l (line * 256)
    let s1 := setDie s d { x with scrubAt := tset x.scrubAt ch ((line + 1) % 4194304),
                                  scrubNs := if line = 0 then tset x.scrubNs ch s.nowNs else x.scrubNs }
    (e0 < 9 → e1 < 9 → s.dramUE.contains (pkgDpa d dpa / 128) = false →
      s.dramUE.contains (pkgDpa d (dpa + 128) / 128) = false →
      let s2 := if 0 < e0 then noteCe s1 d dpa else s1
      exec (.patrolScrub d ch (e0, e1)) s = .next (if 0 < e1 then noteCe s2 d (dpa + 128) else s2)) ∧
    (9 ≤ e0 → 9 ≤ e1 → exec (.patrolScrub d ch (e0, e1)) s = .next (noteUe (noteUe s1 d dpa).1 d (dpa + 128)).1)) ∧
  (∀ (d : Die) (q : AddReq) (s : State),
    let o : AdderOp := { kind := q.op, src := q.src }
    let n := adderBytes q.fmt q.op
    let a := pkgDpa d q.dpa
    let old := leNat (memReads s.dram a n)
    let t := dropWbacks { s with dram := memWrites s.dram a (leBytes n (adderValue q.fmt q.op old q.v q.cmp n)) } (· = a / 128)
    let ret := updDie t d fun x => { x with adderRet := some old }
    let landed := toSigned 32 (q.v.toNat % 2 ^ 32)
    (∀ j, q.dpa % n ≠ 0 → q.src = .job j →
      exec (.adderOp d q.dpa q.fmt o q.v q.cmp) s = .next (failJobService s j (failIllegal 0x04))) ∧
    (q.dpa % n = 0 → q.dpa + n ≤ diePages * 65536 → dieAnswers s d = true → swapTouches s d q.dpa n = false →
      s.dramUE.contains (pkgDpa d (q.dpa / 128 * 128) / 128) = false →
      (q.op = .add → exec (.adderOp d q.dpa q.fmt o q.v q.cmp) s = .next (landAt t a landed)) ∧
      (q.op = .fetchAdd → exec (.adderOp d q.dpa q.fmt o q.v q.cmp) s = .next (landAt ret a landed)) ∧
      (q.op = .cswap → exec (.adderOp d q.dpa q.fmt o q.v q.cmp) s = .next ret))) ∧
  (∀ (d : Die) (s : State), (getDie s d).held = [] → exec (.regulatorTick d) s =
    .next (updDie (takeParts s d) d fun x => { x with buckets := x.buckets.map fun b =>
      (b.1, { tokens := min (partBurst (takeParts s d) d b.1) (b.2.tokens + 100 * partRate (takeParts s d) d b.1) }) }))

/-- A channel not trained for RECAL_INTERVAL_H is queued for migration, if it is active, is in no migration and the
queue has room (R314). The next migration of a die that is up takes the lowest spare and starts to copy; with no
spare an automatic request is recorded and dropped and a written one waits (R314, R315). At the end of the copy the
map, and the Cocoon's store of it, name the target, the source starts to retrain and what the swap held goes on
(R307, R315); after the retraining, at which the die measures its trims again (the model's reading, log 159), the
source is a spare or retired. (Readings and choices of the model: log 113, 151, 159.) -/
def Obligations.ChannelsMigrate : Prop :=
  (∀ (d : Die) (ch : Fin 128) (s : State),
    let x := getDie s d
    let due := tgetD x.trained ch x.trainNs + setting s (dramIx d + 0x21) 2 * (3600 * 10 ^ 9)
    ((setting s (dramIx d + 0x21) 2 = 0 ∨ s.nowNs < due) → exec (.recalExpiry d ch) s = .next s) ∧
    (setting s (dramIx d + 0x21) 2 ≠ 0 → due ≤ s.nowNs → x.queue.any (fun q => q.channel = ch.val) = false →
      (∀ m, x.mig = some m → m.source ≠ ch.val) → chanState x ch = .active → sparesLeft s d ≠ 0 → x.queue.length < 8 →
      exec (.recalExpiry d ch) s = .next (setDie { s with seq := s.seq + 1 } d
        { x with queue := x.queue ++ [{ channel := ch.val, prio := 3, seq := s.seq }] }))) ∧
  (∀ (d : Die) (s : State) (q : MigReq), dieUp s d = true → (getDie s d).mig = none → nextMig (getDie s d) = some q →
    chanState (getDie s d) q.channel = .active →
    let spare := (List.range 128).find? fun n => chanState (getDie s d) n = .spare
    let taken := { getDie s d with queue := (getDie s d).queue.erase q }
    (∀ t, spare = some t → exec (.migrationStart d) s = .next (requeueMig (setChan (setChan (setDie s d
      { taken with mig := some { source := q.channel, target := t, prio := q.prio } }) d t .copyTarget)
      d q.channel .copySource) d)) ∧
    (spare = none → q.prio ≠ 2 → exec (.migrationStart d) s =
      .next (requeueMig (noteNoSpare (setDie s d taken) d q.channel) d)) ∧
    (spare = none → q.prio = 2 → exec (.migrationStart d) s = .next s)) ∧
  (∀ (d : Die) (s : State) (m : Migration) (l : Nat), (getDie s d).mig = some m → m.phase ≠ 3 → dieUp s d = true →
    let s1 := if m.phase = 1 then copyTo s d m (2 ^ 30) else s
    logicalOf (getDie s1 d) m.source = some l →
    let map := tset (getDie s1 d).map l m.target
    let s2 := setDie s1 d { getDie s1 d with map := map, mig := some { m with phase := 3, copied := 2 ^ 30 } }
    let s3 := { s2 with coc := { s2.coc with chanMaps := tset s2.coc.chanMaps d map } }
    exec (.migrationSwap d) s =
      .next (releaseSwap (bump (setChan (setChan s3 d m.target .active) d m.source .retraining) 0xE065 (d + 1) 1) d)) ∧
  (∀ (d : Die) (s : State) (m : Migration) (pass : Bool), (getDie s d).mig = some m → m.phase = 3 → dieUp s d = true →
    exec (.retrainDone d pass) s = .next (setChan (measureTrims (setDie s d { getDie s d with
      mig := none, trained := tset (getDie s d).trained m.source s.nowNs }) d) d m.source
      (if pass then .spare else .retired)))

/-- A control period takes its readings, lets every released die's layers and clusters judge theirs, then the power and
current loops, applies the lowest limit of every cluster, and latches ALERT_MASK (R320 to R322, R495 to R498, R534);
a cluster that stays hot at the lowest point lowers its neighbours' DRAM limit (R322). Limits come back one point at
a time after ten cool periods (R321, R496 to R498), a layer's refresh is restored after a hundred (R320), the rail
ramp of a higher point ends with that point in force (R494), and a current above its limit starts half-rate issue
(R498). (Readings and choices of the model: log 32 to 38.) -/
def Obligations.ControlPeriodAndLimits : Prop :=
  ((∀ (r : Readings) (s : State),
     let s1 := ((List.range 4).filter (dieUp (takeReadings s r))).foldl (fun s d =>
       let s := (dieClusters d).foldl clusterPeriod ((List.range 8).foldl (fun s l => layerPeriod s d l) s)
       let s := if (getDie s d).lowered then bump s 0xE064 (d + 1) 1 else s
       if (dieClusters d).any fun k => (getCluster s k).junction9 < 9 then bump s 0xE0A1 (d + 1) 1 else s) (takeReadings s r)
     let s2 := currentPeriod (powerPeriod s1)
     let s3 := (liveClusters s2).foldl applyPoint s2
     exec (.controlPeriod r) s = .next (s3.jobs.foldl (fun s j => deadlineEval s j.1)
       { s3 with pins := { s3.pins with alertMask := setting s3 0x2400 2 } })) ∧
   (∀ (k : ClusterNo) (s : State), 10 ≤ (getCluster s k).hotD → (getCluster s k).dram9 = 0 →
     let s1 := setCluster s k { getCluster s k with hotD := 9 }
     ((neighbours k.val).any fun q => 0 < (getCluster s1 q).dram9) = true →
     exec (.neighbourThrottle k) s = .next ((neighbours k.val).foldl (fun s q => applyPoint (updCluster s q fun y =>
       { y with dram9 := y.dram9 - 1, coolD := 0
                hotBy := if y.hotBy.contains k.val then y.hotBy else k.val :: y.hotBy }) q) (countLowered s1 (k / 16))))) ∧
  ((∀ (k : ClusterNo) (s : State), 10 ≤ (getCluster s k).coolJ → exec (.junctionRaise k) s =
     .next (applyPoint (setCluster s k { getCluster s k with
       junction9 := min 9 ((getCluster s k).junction9 + 1), coolJ := (getCluster s k).coolJ - 10 }) k)) ∧
   (∀ (k : ClusterNo) (s : State), 10 ≤ (getCluster s k).coolD → (getCluster s k).dram9 < 8 → exec (.dramLimitRaise k) s =
     .next (applyPoint (setCluster s k { getCluster s k with
       dram9 := (getCluster s k).dram9 + 1, coolD := (getCluster s k).coolD - 10 }) k)) ∧
   (∀ (k : ClusterNo) (s : State), 10 ≤ (getCluster s k).coolD → (getCluster s k).dram9 = 8 → exec (.dramLimitRaise k) s =
     .next (applyPoint (setCluster s k { getCluster s k with
       dram9 := 9, coolD := (getCluster s k).coolD - 10, hotBy := [] }) k)) ∧
   (∀ (d : Die) (layer : Fin 8) (s : State), (getDie s d).refresh.getD layer.val false = true →
     100 ≤ (getDie s d).cool.getD layer.val 0 → exec (.refreshRestore d layer) s =
       .next (sillage (setDie s d { getDie s d with refresh := (getDie s d).refresh.setIfInBounds layer.val false }) 0x0025 d
         noJob (packItems [(8, d), (8, layer), (8, 0)]))) ∧
   (∀ (s : State), 10 ≤ s.pow.coolP →
     let n := min 64 ((98 * setting s 0x6000 1 - 100 * s.pow.watts) / 300)
     let ks := ((rankLower s ((liveClusters s).filter fun k => (getCluster s k).power9 < 9)).reverse).take n
     exec .powerRaise s = .next (ks.foldl (fun s k => applyPoint (updCluster s k fun x =>
       { x with power9 := min 9 (x.power9 + 1) }) k) { s with pow := { s.pow with coolP := 0 } })) ∧
   (∀ (s : State),
     let due := (List.range 4).filter fun d => 10 ≤ s.pow.coolC.getD d 0
     let room := due.map fun d => (d, raiseRoom s (dieAmpLimit s d) (dieAmps s d))
     let ks := (rankLower s ((liveClusters s).filter fun k => due.contains (k / 16) && (getCluster s k).current9 < 9)).reverse
     let pick := ks.foldl (fun (acc : List Nat) k =>
       if acc.length < raiseRoom s (pkgAmpLimit s) (pkgAmps s)
           ∧ acc.countP (fun q => q / 16 = k / 16) < tgetD room (k / 16) 0 then acc ++ [k] else acc) []
     let cc := due.foldl (fun (c : Vector Nat 5) d => c.setIfInBounds d 0) (s.pow.coolC.setIfInBounds 4 0)
     let s1 := { s with pow := { s.pow with coolC := cc } }
     due ≠ [] → 10 ≤ s.pow.coolC.getD 4 0 → exec .currentLimitRaise s =
       .next (pick.foldl (fun s k => applyPoint (updCluster s k fun x => { x with current9 := min 9 (x.current9 + 1) }) k) s1)) ∧
   (∀ (k : ClusterNo) (s : State) (p : Nat), (getCluster s k).target = some p → exec (.pointRampDone k) s =
     .next (updCluster (chargeCluster s k) k fun x => { x with point := p, target := none })) ∧
   (∀ (d : Die) (amps : Nat) (s : State), dieAmpLimit s d < amps → exec (.halfRateStart (some d) amps) s =
     .next (startHalf s d)) ∧
   (∀ (d : Die) (amps : Nat) (s : State), amps ≤ dieAmpLimit s d → exec (.halfRateStart (some d) amps) s = .next s))

/-! ### Address spaces, pages, imagos, flash -/

/-- The commands on address spaces and host bias complete with their effect: a space is made or ended (R336), a page of
a MAP is placed and the last completes it (R339, R340), UNMAP unmaps every page of its range (R339), BIAS switches
its blocks (R391), NOP does nothing (R379). (Readings and choices of the model: log 18, 39, 42.) -/
def Obligations.SpaceCommandsTakeEffect : Prop :=
  (∀ (id : Nat) (s : State), cmdReady s id 0x00 ≠ none → exec (.nop id) s = .next (finishCmd s id okStatus 0)) ∧
  (∀ (id : Nat) (asid : Fin 1024) (s : State) (c : Cmd), cmdReady s id 0x20 = some c → inAccord s (field c.entry 478 2) = true →
    s.aspaces.length < 1024 → tget s.aspaces asid = none →
    let d := field c.entry 478 2
    let a : ASpace := { tableDie := d, copyDie := successor s d, copyFresh := (successor s d).isSome }
    exec (.aspaceCreate id asid) s = .next (finishCmd { s with aspaces := tset s.aspaces asid a } id okStatus asid)) ∧
  (∀ (id : Nat) (s : State) (c : Cmd) (a : ASpace), cmdReady s id 0x21 = some c →
    tget s.aspaces (field c.entry 470 10) = some a → spaceRuns s (field c.entry 470 10) = false →
    a.pages.any (fun p => p.2.moving) = false →
    exec (.aspaceDestroy id) s = .next (finishCmd (endSpace s (field c.entry 470 10)) id okStatus 0)) ∧
  (∀ (id frame v tier die : Nat) (rest : List Nat) (s : State) (c : Cmd), cmdReady s id 0x22 = some c → c.started = true →
    field c.entry 468 2 ≠ 1 → bit c.entry 462 = false → (tget s.aspaces (cmdAsid c)).isSome = true → c.need = v :: rest →
    tget s.cmds id = some c →
    placeFor s (field c.entry 460 2) (field c.entry 465 3) 2 (bit c.entry 463) = some (tier, die) →
    frameFits s tier die frame = true →
    let s1 := updCmd (setPte { s with free := s.free + 1 } (cmdAsid c) v (mapPte s c tier die frame)) id fun c =>
      { c with need := rest, held := c.held ++ [v] }
    exec (.map id frame) s = .next (if rest.isEmpty then finishMap s1 id c else s1)) ∧
  (∀ (id : Nat) (s : State) (c : Cmd) (a : ASpace), cmdReady s id 0x23 = some c → cmdPages c ≠ 0 →
    tget s.aspaces (cmdAsid c) = some a → cmdVpn c + cmdPages c ≤ 2 ^ 32 →
    let vs := (a.pages.filter fun p => cmdVpn c ≤ p.1 && p.1 < cmdVpn c + cmdPages c).map (·.1)
    exec (.unmap id) s =
      .next (finishCmd (imagoSettle (vs.foldl (fun s v => unmapPage s (cmdAsid c) v) s)) id okStatus 0)) ∧
  (∀ (id : Nat) (s : State) (c : Cmd), cmdReady s id 0x25 = some c → field c.entry 438 21 ≠ 0 →
    field c.entry 459 21 + field c.entry 438 21 ≤ 2 ^ 21 →
    let rest := cutBias s.hub.hostBias (field c.entry 459 21) (field c.entry 438 21)
    let new := if bit c.entry 437 then (field c.entry 459 21, field c.entry 438 21) :: rest else rest
    exec (.bias id) s = .next (finishCmd { s with hub := { s.hub with hostBias := new } } id okStatus 0)) ∧
  (∀ p : Pte, p.tier < 8 → p.die < 4 → p.kind < 4 → p.floor < 8 → p.frame < 2 ^ 48 →
    let w := (pteWord p).toNat
    w / 2 ^ 63 = 1 ∧ w / 2 ^ 60 % 8 = p.tier ∧ w / 2 ^ 58 % 4 = p.die ∧ w / 2 ^ 57 % 2 = p.writable.toNat ∧
    w / 2 ^ 56 % 2 = p.pin.toNat ∧ w / 2 ^ 55 % 2 = p.moving.toNat ∧ w / 2 ^ 53 % 4 = p.kind ∧ w / 2 ^ 50 % 8 = p.floor ∧
    w / 2 ^ 48 % 4 = 0 ∧ w % 2 ^ 48 = p.frame)

/-- PLACE begins the move of a page and completes with the last (R341); demotion moves the oldest page of a die below
its low water down (R341, R342); promotion brings the newest page home while there is room above the high water, and
a page in the NAND tier that a segment waits for to where R340 places it, a key-value page too (R343, R170, R224);
at the end of a move, which passes the regulators in partition 0 (R327), the page lies at its destination, the
segments that it held go on and the move is counted (R344). (Readings and choices of the model: log 18, 19, 40.) -/
def Obligations.PagesMoveBetweenTiers : Prop :=
  (∀ (id frame v tier die : Nat) (rest : List Nat) (s : State) (c : Cmd) (p : Pte), cmdReady s id 0x24 = some c →
    c.started = true → (tget s.aspaces (cmdAsid c)).isSome = true → cmdVpn c + cmdPages c ≤ 2 ^ 32 →
    tget s.cmds id = some c → c.need = v :: rest → getPte s (cmdAsid c) v = some p → p.moving = false → p.lost = false →
    inTier p (field c.entry 467 3) = false → placeIn s p (field c.entry 467 3) = some (tier, die) → frameFits s tier die frame = true →
    exec (.place id frame) s = .next (updCmd (beginMove s (cmdAsid c) v p tier die frame) id fun c =>
      { c with need := rest, held := c.held ++ [v] })) ∧
  (∀ (d : Die) (frame asid vpn tier die : Nat) (rest : List (Nat × Nat × Pte)) (p : Pte) (s : State), tierUp s d = true →
    freePages s d < setting s 0x5800 (d.val + 1) * gibPages →
    let s1 := updDie s d fun x => { x with demoting := true }
    demotable s1 d = (asid, vpn, p) :: rest → placeFor s1 d p.floor 3 false = some (tier, die) →
    frameFits s1 tier die frame = true →
    exec (.demotion d frame) s = .next (beginMove s1 asid vpn p tier die frame)) ∧
  (∀ (asid : Fin 1024) (vpn frame : Nat) (p : Pte) (s : State), getPte s asid vpn = some p → p.moving = false →
    p.freeing = false → p.lost = false → p.kind ≠ 1 → tierUp s p.home = true →
    ((p.tier = 3 ∨ p.tier = 4) → newest s asid vpn p = true →
      setting s 0x5801 (p.home + 1) * gibPages < freePages s p.home → frameFits s 2 p.home frame = true →
      exec (.promotion (some asid) vpn frame) s = .next (beginMove s asid vpn p 2 p.home frame)) ∧
    (∀ tier die, p.tier = 5 → segWaits s asid vpn = true → s.flash.spillBad.contains p.frame = false →
      placeFor s p.home (min 4 p.floor) 2 p.pin = some (tier, die) → frameFits s tier die frame = true →
      exec (.promotion (some asid) vpn frame) s = .next (beginMove s asid vpn p tier die frame))) ∧
  (∀ (key frame f home tier die : Nat) (p : KvPage) (s : State), getPage s key = some p → kvHome s key = some home →
    p.tier = 5 → s.flash.spillBad.contains p.frame = false → segWaitsKv s key = true → tierUp s home = true →
    placeFor s home 4 2 false = some (tier, die) → packSlot s tier die p.slotBytes = some f →
    let new : KvPage := { p with tier := tier, place := die, frame := f }
    exec (.promotion none key frame) s = .next (freshSegs (movePaid
      { s with kvPages := tset s.kvPages key new, free := s.free + 1 } p.slotBytes 5 0 tier die key))) ∧
  (∀ (asid : Fin 1024) (vpn tier die frame : Nat) (p : Pte) (s : State), getPte s asid vpn = some p →
    p.dest = some (tier, die, frame) → p.freeing = false → p.tier < tier → pageUe s (pteAddr p 0) = false →
    let new : Pte := { p with tier := tier, die := die, frame := frame, moving := false, dest := none, lost := false }
    let s1 := movePaid (copyPage s (pteAddr p 0) (pteAddr new 0)) 65536 p.tier p.die tier die vpn
    exec (.pageMoveDone asid vpn) s = .next (imagoSettle (settlePlaces (freshSegs (bump
      (setPte s1 asid vpn new) 0xE068 (p.home + 1) 1)) asid vpn)))

/-- LIBRARY_STORE puts a verified image into the library (R354); IMAGO_LOAD answers with the slot of an imago that is
resident, and begins the load of another; IMAGO_RETIRE retires a resident one (R352, R353); at the end of a load a
failed one frees its slot (R349). (Readings and choices of the model: log 43, 44.) -/
def Obligations.ImagosAreStoredLoadedRetired : Prop :=
  (∀ (id : Nat) (s : State) (c : Cmd) (m : Image), cmdReady s id 0x32 = some c → s.flash.up = true → s.hub.pause = false →
    storeImage s (field c.entry 470 10) (field c.entry 438 32 * 65536) = .ok m →
    libraryUsed s m.digest + m.total ≤ s.flash.area →
    let lib := m :: s.flash.library.filter fun x => x.digest ≠ m.digest
    exec (.libraryStore id) s = .next (finishCmd { s with flash := { s.flash with library := lib } } id okStatus 0)) ∧
  (∀ (id : Nat) (slot : Fin 64) (frame : Nat) (s : State) (c : Cmd), cmdReady s id 0x30 = some c → s.flash.up = true →
    s.hub.pause = false →
    let digest := leBytes 32 (field c.entry 224 256)
    (∀ n, findImago s digest (fun st => st = .resident) = some n → exec (.imagoLoad id slot frame) s =
      .next (finishCmd (updImago s n fun m => { m with used := s.nowNs }) id okStatus n)) ∧
    (∀ m m', findImago s digest (fun st => st = .resident) = none → findImago s digest (fun st => st = .loading) = none →
      findImage s digest = some m → firstToLoad s s.flash.library.length m = some m' → segsServe s m' = true →
      findImago s m'.digest (fun st => st = .loading) = none →
      exec (.imagoLoad id slot frame) s = .next (beginLoad s m' slot frame id))) ∧
  (∀ (id : Nat) (s : State) (c : Cmd), cmdReady s id 0x31 = some c → (getImago s (field c.entry 474 6)).state = .resident →
    exec (.imagoRetire id) s = .next (finishCmd (imagoSettle (updImago s (field c.entry 474 6) fun m =>
      { m with state := .retiring })) id okStatus 0)) ∧
  (∀ (slot : Fin 64) (s : State) (img : Image), (getImago s slot).image = some img → (getImago s slot).state = .loading →
    s.hub.pause = false → (getImago s slot).bad = none →
    let m := getImago s slot
    let bs := (List.range (ceilDiv img.total 65536)).flatMap fun i => imageRead img (65536 * i) 65536
    imageDigest bs = img.digest →
    let s1 := payLoad ((m.pages.filter (·.parity)).foldl (fun s p => formParity s m p) (landPages s img m.pages)) m
    let s2 := updImago s1 slot fun m => { m with state := .resident, cmds := [], used := s1.nowNs }
    exec (.imagoLoadDone slot) s = .next (endLoad (extendMr (bump s2 0xE06E 1 1) 7 img.digest "IMAGO") m slot okStatus)) ∧
  (∀ (slot : Fin 64) (s : State) (img : Image) (v : Nat), (getImago s slot).image = some img →
    (getImago s slot).state = .loading → s.hub.pause = false → (getImago s slot).bad = some v →
    exec (.imagoLoadDone slot) s = .next (endLoad (freeImago s slot) (getImago s slot) slot (v % 256, v / 256)))

/-- The flash layer: a library page whose first copy fails is read from the other half, and fails its load when both
fail (R349); a block is retired once (R350); a block too little erased, or read too often, is moved to a fresh one
(R350). (Readings and choices of the model: log 46.) -/
def Obligations.FlashLayerKeepsData : Prop :=
  (∀ (page : Nat) (s : State), s.flash.up = true → s.hub.pause = false → (getImago s (page / 2 ^ 20)).state = .loading →
    (exec (.nandReadDone true page 0) s = .next (countRead s page (page % 2))) ∧
    (exec (.nandReadDone true page 1) s =
      .next (bump (countRead (countRead s page (page % 2)) page (1 - page % 2)) 0xE06C 1 1)) ∧
    (exec (.nandReadDone true page 2) s = .next (updImago (countRead (countRead s page (page % 2)) page (1 - page % 2))
      (page / 2 ^ 20) fun m => { m with bad := some 0x20 }))) ∧
  (∀ (ch : Fin 8) (block : Nat) (s : State), block < 2 ^ 24 → (getBlock s (nandKey ch block)).bad = false →
    let fresh := nandKey ch (Config.freeNat s.free % 2 ^ 24)
    let s1 := { s with free := s.free + 1 }
    exec (.badBlockRetire ch block) s = .next (setBlock s1 (nandKey ch block)
      { getBlock s1 (nandKey ch block) with bad := true, movedTo := some fresh, reads := 0 })) ∧
  (∀ (ch : Fin 8) (block fresh : Nat) (s : State), freshOk s ch block fresh = true →
    ((getBlock s (nandKey ch block)).erases + setting s 0x5840 2 < mostErased s →
      exec (.wearLevelMove ch block fresh) s = .next (rewriteBlock s (nandKey ch block) (nandKey ch fresh))) ∧
    (setting s 0x5840 1 ≤ (getBlock s (nandKey ch block)).reads → exec (.readDisturbRefresh ch block fresh) s =
      .next (bump (rewriteBlock s (nandKey ch block) (nandKey ch fresh)) 0xE06D 1 1)))

/-! ### The host link, rings, completions, quenches -/

/-- The link comes up in CXL mode at 32 GT/s and x4 or wider, and in CXL.io only else (R360); a DISABLED ring is enabled
in CXL mode with its queues fresh, an ENABLED one drains when it is disabled (R367). A write of a ring's context:
the queue bases, sizes and rights only while the ring is DISABLED, the vector and the holdoff at any time, PRIV
reading 1 on ring 0, and then ENABLE (R366). (Readings and choices of the model: log 31.) -/
def Obligations.LinkTrainsAndRingsAreSetUp : Prop :=
  ((∀ (rate : Fin 3) (width : Nat) (s : State), s.por = false → s.pins.perst = false → s.hub.inReset = false →
     2 ≤ s.hub.instar → s.coc.trip = false → exec (.cxlLinkTrain rate width) s = .next
       { s with hub := { s.hub with linkUp := true, linkRate := rate, linkWidth := width
                                    cxlMode := decide (rate.val = 2 ∧ 4 ≤ width) }
                pins := { s.pins with tx := .active } }) ∧
   (∀ (r : RingNo) (s : State), barUp s = true →
     ((getRing s r).state = .disabled → s.hub.cxlMode = true → s.hub.recovery = false →
       exec (.ringEnable r) s = .next (setRing s r (freshEnable (getRing s r)))) ∧
     ((getRing s r).state = .disabled → s.hub.cxlMode = false → exec (.ringEnable r) s = .next s) ∧
     ((getRing s r).state = .drydown →
       exec (.ringEnable r) s = .next (setRing s r { getRing s r with state := .pendingEnable, enable := true })) ∧
     ((getRing s r).state = .enabled →
       exec (.ringDisable r) s = .next (drydownEnd (setRing s r { getRing s r with state := .drydown, enable := false }) r)))) ∧
  (∀ (r : RingNo) (ctx : BitVec 512) (s : State), barUp s = true →
     let x := getRing s r
     let late (x : Ring) : Ring := { x with vector := field ctx 411 11, holdoff := min 1000 (field ctx 401 10) }
     (x.state = .disabled → bit ctx 398 = false → exec (.ringContextWrite r ctx) s =
       .next (disableRing (setRing s r (late { x with sqBase := field ctx 472 40, cqBase := field ctx 432 40
                                                      sqLog2 := log2Of (field ctx 427 5), cqLog2 := log2Of (field ctx 422 5)
                                                      priv := decide (r.val = 0) || bit ctx 400
                                                      lcAllowed := bit ctx 399 })) r)) ∧
     (x.state ≠ .disabled → bit ctx 398 = true → exec (.ringContextWrite r ctx) s =
       .next (enableRing (setRing s r (late x)) r)) ∧
     (x.state ≠ .disabled → bit ctx 398 = false → exec (.ringContextWrite r ctx) s =
       .next (disableRing (setRing s r (late x)) r)))

/-- The doorbells of an ENABLED ring: SQ_TAIL within the queue moves the tail and is forwarded to the home die (R24,
R32), beyond it is an error of the ring; CQ_HEAD within what is posted moves the head; PUSH puts its entry into the
next slot, and fails on a full queue or a write that is not one aligned write (R369 to R371). A doorbell of a ring
that is not ENABLED is discarded and counted (R371). -/
def Obligations.RingDoorbellsActOrAreDiscarded : Prop :=
  (∀ (r : RingNo) (s : State), barUp s = true → (getRing s r).state = .enabled →
     let x := getRing s r
     (∀ t : BitVec 16, t.toNat < sqSize x → exec (.sqTail r t) s = .next (setRing (forwardBell s r) r { x with
       tail := t.toNat, bells := ringBells x s.nowNs ((t.toNat + sqSize x - x.tail) % sqSize x) x.tail })) ∧
     (∀ t : BitVec 16, sqSize x ≤ t.toNat → exec (.sqTail r t) s = .next (ringError s r 1)) ∧
     (∀ h : BitVec 16, h.toNat < cqSize x →
       (h.toNat + cqSize x - x.cqHead) % cqSize x ≤ (x.cqTail + cqSize x - x.cqHead) % cqSize x →
       exec (.cqHead r h) s = .next (setRing s r { x with cqHead := h.toNat })) ∧
     (∀ h : BitVec 16, cqSize x ≤ h.toNat → exec (.cqHead r h) s = .next (ringError s r 1)) ∧
     (∀ e, (x.tail + sqSize x - x.sqHead) % sqSize x ≠ sqSize x - 1 → exec (.push r (some e)) s = .next (setRing (forwardBell s r) r { x with
       pushed := tset x.pushed x.tail e, bells := tset x.bells x.tail s.nowNs, tail := (x.tail + 1) % sqSize x })) ∧
     (∀ e, (x.tail + sqSize x - x.sqHead) % sqSize x = sqSize x - 1 → exec (.push r (some e)) s = .next (ringError s r 3)) ∧
     (exec (.push r none) s = .next (ringError s r 2))) ∧
  (∀ (r : RingNo) (s : State), barUp s = true → (getRing s r).state = .disabled →
     (∀ t, exec (.sqTail r t) s = .next (bump s 0xE075 1 1)) ∧ (∀ h, exec (.cqHead r h) s = .next (bump s 0xE075 1 1)) ∧
     (∀ e, exec (.push r e) s = .next (bump s 0xE075 1 1)))

/-- The next entry of an ENABLED ring is fetched, an admin entry first (R365): from a PUSH, else from the host, or with
the host's error (R369); a waiting completion is written when there is room (R375); the interrupt that the holdoff
kept back is raised (R377); a snoop writes out the held line (R376); the oldest event is written on ring 0 (R384).
(Readings and choices of the model: log 27.) -/
def Obligations.EntriesCompletionsAndEvents : Prop :=
  (∀ (r : RingNo) (s : State), ringsUp s = true → (getRing s r).state = .enabled → ringHeld s r = false →
    (getRing s r).sqHead ≠ (getRing s r).tail → (r = 0 ∨ adminWaits s = false) →
    (∀ e o, tget (getRing s r).pushed (getRing s r).sqHead = some e → exec (.sqFetch r o) s = .next (takeEntry s r e)) ∧
    (∀ e, tget (getRing s r).pushed (getRing s r).sqHead = none → exec (.sqFetch r (some e)) s = .next (takeEntry (sendHostMem s 1) r e)) ∧
    (tget (getRing s r).pushed (getRing s r).sqHead = none → exec (.sqFetch r none) s =
      .next (ringError (sendHostMem s 1) r 4))) ∧
  (∀ (r : RingNo) (s : State) (o : Option (BitVec 512)), r ≠ 0 → adminWaits s = true → exec (.sqFetch r o) s = .next s) ∧
  (∀ (r : RingNo) (s : State) (p : Post) (e : Bool), firstPost s r = some p → ringsUp s = true →
    (getRing s r).state ≠ .disabled → cqRoom (getRing s r) = true →
    exec (.completionPost r e) s = .next (drydownEnd (writeCq { s with posts := s.posts.erase p } r p e) r)) ∧
  (∀ (r : RingNo) (s : State) (p : Post) (e : Bool), firstPost s r = some p → cqRoom (getRing s r) = false →
    exec (.completionPost r e) s = .next s) ∧
  (∀ (r : RingNo) (s : State) (t : Nat), (getRing s r).irqDue = true → (getRing s r).lastIrq = some t →
    (getRing s r).holdoff * 1000 ≤ s.nowNs - t → exec (.holdoffExpiry r) s =
      .next (raiseVector (setRing s r { getRing s r with irqDue := false, lastIrq := some s.nowNs }) (getRing s r).vector)) ∧
  (∀ (r : RingNo) (s : State), barUp s = true → s.hub.cxlMode = true → exec (.hostSnoop r) s = .next (flushLine s r)) ∧
  (∀ (s : State) (code result : Nat) (rest : List (Nat × Nat)) (e : Bool), s.hub.events = (code, result) :: rest →
    s.hub.lost = 0 → ringsUp s = true → (getRing s 0).state = .enabled → cqRoom (getRing s 0) = true →
    let s1 := { s with hub := { s.hub with events := rest, lost := 0, eventSeq := s.hub.eventSeq + 1 } }
    exec (.eventPost e) s = .next (writeCq s1 0 { ring := 0, tag := (s1.hub.eventSeq - 1) % 65536, status := 0, detail := code
                                                  result := result, event := true } e))

/-- Quenches stop the jobs in their scope (R385 to R387, R535). A QUENCH command stops them when it starts and
completes, then or later, once their completions have been posted. QUENCH_CTRL, one write of 8 bytes, does so with
its key; with a wrong key, the reserved scope or DISABLE with SCOPE JOB it is ignored and counted. QUENCH_N asserted
is a quench of scope ALL: every running job ends with FAIL_QUENCHED and its ramps are cut, every waiting one and
every JOB not yet started completes with it, a stop command goes to every die, and JOBs that come later complete
with it too, until its release. (Readings and choices of the model: log 28 to 30.) -/
def Obligations.QuenchesStopJobs : Prop :=
  (∀ (id : Nat) (s : State) (c : Cmd), cmdReady s id 0x40 = some c → c.started = false →
    let q := quench (updCmd s id fun c => { c with started := true }) 0 (field c.entry 478 2) (field c.entry 464 13)
      (field c.entry 448 16) (bit c.entry 477)
    let s1 := updCmd q.1 id fun c => { c with need := q.2.1, held := q.2.2 }
    exec (.quench id) s = .next (match tget s1.cmds id with
      | some c => if quenchPosted s1 c then finishCmd s1 id okStatus c.held.length else s1
      | none => s1)) ∧
  (∀ (id : Nat) (s : State) (c : Cmd), cmdReady s id 0x40 = some c → c.started = true → tget s.cmds id = some c →
    (quenchPosted s c = true → exec (.quench id) s = .next (finishCmd s id okStatus c.held.length)) ∧
    (quenchPosted s c = false → exec (.quench id) s = .next s)) ∧
  (∀ (v : Word64) (s : State), barUp s = true →
    (∀ n, n ≠ 8 → exec (.quenchCtrl v n) s = .next s) ∧
    ((field v 48 16 ≠ 0xA4A4 ∨ field v 45 2 = 3 ∨ (bit v 47 = true ∧ field v 45 2 = 0)) →
      exec (.quenchCtrl v 8) s = .next (bump s 0xE073 1 1)) ∧
    (field v 48 16 = 0xA4A4 → field v 45 2 ≠ 3 → (bit v 47 = true → field v 45 2 ≠ 0) →
      exec (.quenchCtrl v 8) s = .next (quench s 1 (field v 45 2) (field v 32 13) (field v 16 16) (bit v 47)).1)) ∧
  (∀ s : State, s.por = false → s.pins.quench = false →
    let s0 := quenchPin s true
    let js := s0.jobs.filter fun j => j.2.failed.isNone
    let cs := s0.cmds.filter fun c => c.2.op = 0x01 && !c.2.started
    let s1 := (js.filter fun j => j.2.state ≠ .waiting).foldl (fun s j => cutRamps (failJobService
      (updJob s j.1 fun j => { j with interrupted := none }) j.1 failQuenched) j.2.cores) s0
    let s2 := (js.filter fun j => j.2.state = .waiting).foldl (fun s j => endWaiting s j.1 failQuenched) s1
    let s3 := cs.foldl (fun s c => finishCmd s c.1 failQuenched 0) s2
    let n := js.length + cs.length
    exec .quenchNAssert s = .next (sillage (bump { sendCtrlAll s3 with hub := { s3.hub with stopped := n } } 0xE072 1 1)
      0x0002 4 noJob (packItems [(8, 3), (8, 2), (16, 0), (16, 0), (32, n)]))) ∧
  (∀ s : State, s.por = false → s.pins.quench = true → exec .quenchNAssert s = .next s ∧
    exec .quenchNRelease s = .next (quenchPin s false) ∧
    ∀ (id : Nat) (c : Cmd), cmdReady s id 0x01 = some c → c.started = false →
      exec (.job id) s = .next (finishCmd s id failQuenched 0)) ∧
  (∀ s : State, s.por = false → s.pins.quench = false → exec .quenchNRelease s = .next s)

/-- A mailbox request goes to its service and BUSY is set, one of an unknown opcode is answered MALFORMED, one too long
TOO_LONG (R389); a decoder is committed in order in multiples of 256 MiB and fails its commit else (R390); a host
read gives the line, 0xFF in every byte where nothing answers or with an uncorrectable codeword, and a host write
lands, or is dropped there (R392), once the regulator of HOST_PARTITION lets it pass (R327); the doorbell pages,
ring contexts, uptime and the sillage window read as their rules say, and a read that is not one aligned 4 or 8
bytes reads 0 (R362, R363, R366, R368, R385, R394). (Readings and choices of the model: log 48.) -/
def Obligations.MailboxAndDeviceMemory : Prop :=
  (∀ (opcode len : Word64) (v : BitVec 11) (p : List Byte) (s : State), barUp s = true → 2 ≤ s.hub.instar →
    s.hub.pause = false → s.hub.mb.busy = false → p.length = 3840 →
    let s1 := bump { s with hub := { s.hub with mb := { s.hub.mb with
      vector := v.toNat, busy := true, opcode := opcode.toNat, len := len.toNat, payload := p } } } 0x1200 1 1
    (1 ≤ opcode.toNat → opcode.toNat ≤ 4 → len.toNat ≤ 3840 → exec (.mbGo opcode len v p) s = .next
      { s1 with svc := { s1.svc with reqs := s1.svc.reqs ++
        [{ src := .mailbox, op := opcode.toNat, data := p.take len.toNat }] } }) ∧
    ((opcode.toNat = 0 ∨ 4 < opcode.toNat) → exec (.mbGo opcode len v p) s = .next (mbReject s1 1)) ∧
    (1 ≤ opcode.toNat → opcode.toNat ≤ 4 → 3840 < len.toNat → exec (.mbGo opcode len v p) s = .next (mbReject s1 2))) ∧
  (∀ (base size skip : Nat) (lock : Bool) (s : State), barUp s = true → s.hub.cxlMode = true →
    (tgetD s.hub.hdm 0 {}).committed = false →
    let put (h : Hdm) : State := { s with hub := { s.hub with hdm := tset s.hub.hdm 0 h } }
    (size ≠ 0 → base % mib256 = 0 → size % mib256 = 0 → skip % mib256 = 0 → skip + size ≤ 4 * dieSpan →
      exec (.hdmCommit 0 base size skip 1 lock) s =
        .next (put { base := base, size := size, skip := skip, committed := true, locked := lock })) ∧
    ((size = 0 ∨ base % mib256 ≠ 0 ∨ size % mib256 ≠ 0 ∨ skip % mib256 ≠ 0) →
      exec (.hdmCommit 0 base size skip 1 lock) s =
        .next (put { base := base, size := size, skip := skip, failed := true }))) ∧
  (∀ (p : Nat) (s : State), p % 64 = 0 → hostOk s p = true →
    let d := p / dieSpan
    (hostBacked s p = false →
      exec (.hostMemRead p) s = .next (readFill (bump s 0xE071 1 1) (List.replicate 64 0xFF)) ∧
      (∀ line, exec (.hostMemWrite p line) s = .next (bump s 0xE071 1 1))) ∧
    (hostBacked s p = true → ∀ w : Option (List Byte), (∀ line, w = some line → line.length = 64) →
      let cmd : Instr := match w with
        | none => .hostMemRead p
        | some line => .hostMemWrite p line
      let sx := crossing s 4 d (hostReq p w)
      let part := setting sx (dramIx d + 0x30) 1
      let s0 := admitReq sx d part false 64
      (partMode sx d part = 0 ∨ (64 ≤ tokensOf sx d part ∧ (getDie sx d).held.any (fun h => h.part = part) = false)) →
      swapTouches s0 d (p % dieSpan) 64 = false →
      (s0.dramUE.contains (p / 128) = false →
        exec cmd s = .next (match w with
          | none => readFill s0 (memReads s0.dram p 64)
          | some line => sendHostMem (dropWbacks { s0 with dram := memWrites s0.dram p line } (· = p / 128)) 1)) ∧
      (s0.dramUE.contains (p / 128) = true → repairable s0 (p / 128 * 128) = false →
        let u := countUe s0 (p / 128)
        exec cmd s = .next (match w with
          | none => readFill (sillage (postEvent (bump u 0xE070 1 1) 3 p) 0x0026 4 noJob (packItems [(40, p)]))
              (List.replicate 64 0xFF)
          | some _ => sendHostMem u 1)))) ∧
  (∀ (s : State) (r : RingNo) (rec1 : BitVec 256) (rest : List (BitVec 256)),
    barRead s (0x1000 * r + 0x10) 8 = (getRing s r).sqHead % 2 ^ 64 ∧
    barRead s (0x1000 * r + 0x18) 8 = (ringCode (getRing s r).state + 256 * (getRing s r).error) % 2 ^ 64 ∧
    barRead s (0x02000000 + 64 * r) 8 = ringContext s r % 2 ^ 64 ∧
    barRead s 0x02100008 8 = uptimeUs s % 2 ^ 64 ∧
    barRead s 0x02400000 8 = s.sillWritten % 2 ^ 64 ∧
    (s.sill = rec1 :: rest → s.sillWritten ≠ 0 → ∀ k < 4,
      barRead s (0x02401000 + 32 * ((s.sillWritten - 1) % 131072) + 8 * k) 8 = rec1.toNat / 2 ^ (64 * k) % 2 ^ 64) ∧
    (∀ o size, (size ≠ 4 ∧ size ≠ 8) ∨ o % size ≠ 0 → barRead s o size = 0))

/-! ### The dictionary -/

/-- One field was written by the mailbox and `t` is what it left: the clamp report has its one record, and the DICT_WRITE record
follows when an object changed (R427, R432, R448). The value that the report shows of a WO object is free (log 77). -/
def FieldDone (t : State) (index sub wrote code : Nat) (changed : Bool) : State :=
  closeWrite t 1 [{ index := index, sub := sub, code := code, wrote := wrote, after := valueAfter t index sub }] changed

/-- The dictionary service runs, and the hub not from its recovery image. -/
def DictServed (s : State) : Prop := svcUp s = true ∧ s.hub.recovery = false

/-- STORE, RESTORE and RESTORE_DEFAULTS with their keys, any other value being REFUSED_TYPE; a STORE while one runs or
within 1 s of the last is REFUSED_STATE; the end of a STORE gives the copy or the failure (R433, R435). SILL_CLEAR
empties the trail, RESET_CAUSE_CLEAR the causes (R487), PMBUS_CLEAR sends one CLEAR_FAULTS unless the PMBus is off,
FN_QUENCH quenches (R447); a wrong key or a malformed quench is REFUSED_TYPE. (Readings and choices of the model:
log 77, 79.) -/
def Obligations.SettingsAreStoredAndServiceObjectsAct : Prop :=
  ((∀ s : State, DictServed s →
     (∀ t, beginStore s = some t → exec (.store 0x53544F52) s = .next (FieldDone t 0x1F10 1 0x53544F52 0 true)) ∧
     (beginStore s = none → exec (.store 0x53544F52) s = .next (FieldDone s 0x1F10 1 0x53544F52 7 false)) ∧
     (exec (.restore 0x4C4F4144) s = .next (restoreStored (FieldDone s 0x1F11 1 0x4C4F4144 0 true))) ∧
     (exec (.restoreDefaults 0x44464C54) s = .next (restoreDefaults (FieldDone s 0x1F12 1 0x44464C54 0 true))) ∧
     (∀ v : Word32, v ≠ 0x53544F52 → exec (.store v) s = .next (FieldDone s 0x1F10 1 v.toNat 5 false)) ∧
     (∀ v : Word32, v ≠ 0x4C4F4144 → exec (.restore v) s = .next (FieldDone s 0x1F11 1 v.toNat 5 false)) ∧
     (∀ v : Word32, v ≠ 0x44464C54 → exec (.restoreDefaults v) s = .next (FieldDone s 0x1F12 1 v.toNat 5 false))) ∧
   (∀ (s : State) (c : Stored), s.svc.storing = some c →
     let svc := { s.svc with storing := none, storeUs := some (uptimeUs s) }
     exec (.storeDone false) s = .next { s with svc := { svc with failed := true } } ∧
     (s.svc.copyA.ok = true → exec (.storeDone true) s = .next { s with svc := { svc with failed := false, copyB := c } }) ∧
     (s.svc.copyA.ok = false → exec (.storeDone true) s = .next { s with svc := { svc with failed := false, copyA := c } }))) ∧
  (∀ s : State, DictServed s →
     (exec (.sillClear 0x434C5253) s = .next (FieldDone { s with sill := [], sillWritten := 0 } 0xE000 2 0x434C5253 0 true)) ∧
     (∀ v : Word32, v ≠ 0x434C5253 → exec (.sillClear v) s = .next (FieldDone s 0xE000 2 v.toNat 5 false)) ∧
     (exec (.resetCauseClear 0x52434C52) s = .next (FieldDone (clearCauses s) 0x2300 5 0x52434C52 0 true)) ∧
     (∀ v : Word32, v ≠ 0x52434C52 → exec (.resetCauseClear v) s = .next (FieldDone s 0x2300 5 v.toNat 5 false)) ∧
     (s.pmb.state ≠ 3 → exec (.pmbusClear 1) s = .next
       (FieldDone { s with pmb := { s.pmb with clears := s.pmb.clears + 1 } } 0x6040 4 1 0 true)) ∧
     (s.pmb.state = 3 → exec (.pmbusClear 1) s = .next (FieldDone s 0x6040 4 1 0 true)) ∧
     (∀ v : Byte, v ≠ 1 → exec (.pmbusClear v) s = .next (FieldDone s 0x6040 4 v.toNat 5 false)) ∧
     (∀ v : Word64, fnQuenchOk v.toNat = true → exec (.fnQuench v) s = .next (FieldDone
       (quench s 4 (v.toNat / 2 ^ 45 % 4) (v.toNat / 2 ^ 32 % 2 ^ 13) (v.toNat / 2 ^ 16 % 2 ^ 16) (v.toNat / 2 ^ 47 % 2 = 1)).1
       0x1110 1 v.toNat 0 true)) ∧
     (∀ v : Word64, fnQuenchOk v.toNat = false → exec (.fnQuench v) s = .next (FieldDone s 0x1110 1 v.toNat 5 false)))

/-- One field of an RW object is checked and applied in the order of R427: a locked, absent, read-only or ill-typed one
is refused with its code, another takes its nearest value; the port, the PMBus, the staging and LOSS_QUERY act on
their settings. (Readings and choices of the model: log 77, 78, 84, 85.) -/
def Obligations.SettingsTakeEffect : Prop :=
  (∀ (f : FieldWrite) (s : State), svcUp s = true →
    let i := f.index.toNat
    let j := f.sub.toNat
    let w := leNat (f.value.take 8)
    (locked s i = true → exec (.objectWrite f) s = .next (FieldDone s i j w 4 false)) ∧
    (locked s i = false → objAt s i j = none → exec (.objectWrite f) s = .next (FieldDone s i j w 8 false)) ∧
    (∀ r, locked s i = false → objAt s i j = some r →
      (r.acc = 0 ∨ 4 ≤ r.acc → exec (.objectWrite f) s = .next (FieldDone s i j w 4 false)) ∧
      (1 ≤ r.acc → r.acc ≤ 3 → typeOk r i j f.ty.toNat f.value = false →
        exec (.objectWrite f) s = .next (FieldDone s i j w 5 false)) ∧
      (typeOk r i j f.ty.toNat f.value = true → r.acc = 3 → ownerStopped s r i = false →
        exec (.objectWrite f) s = .next (FieldDone s i j w 7 false)) ∧
      (typeOk r i j f.ty.toNat f.value = true → (r.acc = 1 ∨ r.acc = 3 ∧ ownerStopped s r i = true) →
        let v := (clampValue s r i j (leNat f.value)).1
        let code := (clampValue s r i j (leNat f.value)).2
        let t := settingEffect (setSetting s i j (settingValue i v)) i j v
        exec (.objectWrite f) s = .next (FieldDone t i j w code (fieldChanged s t f code))))) ∧
  (∀ s : State, DictServed s →
    let keep (i j v n ty : Nat) (t : State) (code : Nat) : State := FieldDone t i j v code
      (fieldChanged s t ⟨BitVec.ofNat 16 i, BitVec.ofNat 8 j, BitVec.ofNat 8 ty, leBytes n v⟩ code)
    (∀ v : Byte, v.toNat ≤ 1 → exec (.fnEnable v) s =
      .next (keep 0x1100 1 v.toNat 1 1 (enablePort (setSetting s 0x1100 1 v.toNat) (v.toNat = 1)) 0)) ∧
    (∀ v : Byte, v.toNat ≤ 1 → exec (.pmbusEnable v) s =
      .next (keep 0x6040 3 v.toNat 1 1 (enablePmbus (setSetting s 0x6040 3 v.toNat) (v.toNat = 1)) 0)) ∧
    (∀ v : BitVec 16, 1750 ≤ v.toNat → v.toNat ≤ 1850 → v.toNat % 5 = 0 → s.pmb.state = 0 → exec (.vinCoreSetpoint v) s =
      .next (keep 0x6040 1 v.toNat 2 3 (sendSetpoint (setSetting s 0x6040 1 v.toNat)) 0)) ∧
    (∀ v : BitVec 16, 1850 < v.toNat → s.pmb.state ≠ 0 → exec (.vinCoreSetpoint v) s =
      .next (keep 0x6040 1 v.toNat 2 3 (setSetting s 0x6040 1 1850) 2)) ∧
    (∀ v : Word32, exec (.lossQuery v) s =
      .next (keep 0x2205 1 v.toNat 4 4 (lossQuery (setSetting s 0x2205 1 v.toNat) v.toNat) 0)) ∧
    (∀ v : Byte, v.toNat ≤ 3 → exec (.fwStageKind v) s = .next (keep 0x9100 1 v.toNat 1 10 (setSetting
      { setSetting s 0x9100 1 v.toNat with coc := { s.coc with stage := {}, stageState := 0 } } 0x9100 2 0) 0))) ∧
  (∀ s : State, svcUp s = true → setting s 0x6040 3 ≠ 0 →
    exec (.pmbusPoll none) s = .next { s with pmb := { s.pmb with state := 1 } } ∧
    (∀ x : PmbusReading, x.vinMv < 65536 → x.ioutA < 65536 → x.status &&& 0xF73F = 0 → exec (.pmbusPoll (some x)) s = .next
      { s with pmb := { s.pmb with vinMv := x.vinMv, amps := x.ioutA, status := x.status.toNat, state := 0 } }) ∧
    (∀ x : PmbusReading, x.vinMv < 65536 → x.ioutA < 65536 → x.status &&& 0xF73F ≠ 0 → exec (.pmbusPoll (some x)) s = .next
      { s with pmb := { s.pmb with vinMv := x.vinMv, amps := x.ioutA, status := x.status.toNat, state := 2 } }))

/-- DIE_SERVICE, CORE_RETIRE, the migration request, the staging of firmware and the bank swap act where the unit's
state allows them and are REFUSED_STATE else (R314, R471, R475 to R478, R525). (Readings and choices of the model:
log 75, 77, 80, 87.) -/
def Obligations.ServiceWritesAct : Prop :=
  (∀ (d : Die) (s : State), DictServed s →
    let serve (st : Option (Nat × Nat)) : State := { s with hub := { s.hub with service := st } }
    let quiet := ([0, 1, 2, 3].all (serving s)) = true ∧ updating s = false
    (role s d = 0 → exec (.drain d) s = .next (FieldDone (setRole (serve (some (1, d))) d 1) 0x2204 1 (0x100 + d) 0 true)) ∧
    (role s d ≠ 0 → exec (.drain d) s = .next (FieldDone s 0x2204 1 (0x100 + d) 7 false)) ∧
    (role s d = 1 → (getDie s d).upd = false →
      exec (.undrain d) s = .next (FieldDone (setRole (serve none) d 0) 0x2204 1 (0x300 + d) 0 true)) ∧
    (role s d ≠ 1 → exec (.undrain d) s = .next (FieldDone s 0x2204 1 (0x300 + d) 7 false)) ∧
    (quiet → exec (.update d) s = .next (FieldDone
      (setRole (updDie (serve (some (1, d))) d fun x => { x with upd := true }) d 1) 0x2204 1 (0x200 + d) 0 true)) ∧
    (quiet → exec .hubUpdate s = .next (FieldDone
      { s with hub := { s.hub with service := some (2, 4), update := true, pause := true } } 0x2204 1 0x204 0 true)) ∧
    (¬ quiet → exec (.update d) s = .next (FieldDone s 0x2204 1 (0x200 + d) 7 false)) ∧
    (¬ quiet → exec .hubUpdate s = .next (FieldDone s 0x2204 1 0x204 7 false)) ∧
    (role s d = 4 → (getDie s d).rejoin = false →
      exec (.rejoin d) s = .next (FieldDone (startRejoin s d false) 0x2204 1 (0x400 + d) 0 true)) ∧
    (role s d ≠ 4 → exec (.rejoin d) s = .next (FieldDone s 0x2204 1 (0x400 + d) 7 false)) ∧
    (∀ v : BitVec 16, v.toNat / 2 ^ 12 = 0 → v.toNat / 2 ^ 5 % 8 = 0 →
      let c := 512 * d + 32 * (v.toNat / 256 % 16) + v.toNat % 32
      let s1 := updDie s d fun x => { x with retire := if x.retire.contains c then x.retire else x.retire ++ [c] }
      let k := getCluster s1 (c / 32)
      let s2 := if k.spare = 0 ∧ k.swap.isNone = true then setCluster s1 (c / 32) { k with swap := some c } else s1
      (inService s c = true → exec (.coreRetire d v) s =
        .next (FieldDone s2 (0x4012 + 0x400 * d) 1 v.toNat 0 true)) ∧
      (inService s c = false → exec (.coreRetire d v) s = .next (FieldDone s (0x4012 + 0x400 * d) 1 v.toNat 7 false))) ∧
    (∀ ch : BitVec 8, migrateOk s d ch.toNat = true → exec (.migrateRequest d ch) s =
      .next (FieldDone (queueMig s d ch.toNat 2 false) (dramIx d + 0x20) 1 ch.toNat 0 true)) ∧
    (∀ ch : BitVec 8, migrateOk s d ch.toNat = false → exec (.migrateRequest d ch) s =
      .next (FieldDone s (dramIx d + 0x20) 1 ch.toNat 7 false))) ∧
  (∀ s : State, svcUp s = true →
    (∀ bs : List Byte, bs.length = 1024 ∨ bs.length = 2048 ∨ bs.length = 3072 →
      let o := setting s 0x9100 2
      (o + bs.length ≤ 2 ^ 26 → exec (.fwStageData bs) s = .next (FieldDone
        (setSetting { s with coc := { s.coc with stage := memWrites s.coc.stage o bs, stageState := 1 } } 0x9100 2 (o + bs.length))
        0x9100 3 (leNat (bs.take 8)) 0 true)) ∧
      (2 ^ 26 < o + bs.length → exec (.fwStageData bs) s = .next (FieldDone s 0x9100 3 (leNat (bs.take 8)) 7 false))) ∧
    (exec (.fwStageCommit 0x434F4D54) s = .next (FieldDone (stageCommit s).1 0x9100 4 0x434F4D54
      (if (stageCommit s).2 then 0 else 7) (stageCommit s).2)) ∧
    (s.coc.stageState = 3 → setting s 0x9100 1 = 0 → s.coc.restart = false → s.coc.up = true →
      exec (.cocoonBankSwap 0x53574150) s = .next (FieldDone (bump
        { s with coc := { s.coc with restart := true, swapping := true, aliasGen := false, aliasOk := false } } 0xE0B1 1 1)
        0x9101 1 0x53574150 0 true)) ∧
    (s.coc.stageState ≠ 3 → exec (.cocoonBankSwap 0x53574150) s = .next (FieldDone s 0x9101 1 0x53574150 7 false)))

/-- The requests of the mailbox and of the field network are served in the order of their arrival and answered: reads
and writes of the dictionary (R426, R439, R440), orders and claims with their ORDER_STATUS (R510 to R513),
attestations with their STATUS, each report using one leaf of the alias and the last one being recorded (R520,
R521). (Readings and choices of the model: log 70, 82, 86.) -/
def Obligations.RequestsAreAnswered : Prop :=
  ∀ (s : State) (q : Request), svcUp s = true →
    let s1 := { s with svc := { s.svc with reqs := s.svc.reqs.erase q } }
    (s.svc.reqs.find? (fun q => decide (q.op ≤ 2)) = some q →
      (q.op = 1 →
        (∀ e es, readEntries q.data = some (e :: es) →
          exec .dictRead s = .next (respond s1 q (some (readRecords s1 (e :: es) false [])))) ∧
        (readEntries q.data = none → exec .dictRead s = .next (respond s1 q none)) ∧
        (readEntries q.data = some [] → exec .dictRead s = .next (respond s1 q none))) ∧
      (q.op = 2 →
        (∀ fs t rs, parseWrite q.data = some fs → writeRequest s1 (clampSource q.src) fs = (t, rs) →
          exec .dictWrite s =
            .next (respond t q (some (leBytes 2 rs.length ++ List.replicate 6 0 ++ resultBytes rs)))) ∧
        (parseWrite q.data = none → exec .dictWrite s = .next (respond s1 q none)))) ∧
    (s.svc.reqs.find? (fun q => decide (3 ≤ q.op)) = some q → s.coc.restart = false →
      (q.op = 3 → isClaim q = false →
        (∀ n o t rs, checkOrder s1 (decide (q.src = .mailbox)) q.data = (n, some o) →
          applyOrder s1 o (decide (q.src = .mailbox)) q.data = (t, rs) →
          exec .changeOrder s = .next (respond t q (some (orderResponse 0 rs)))) ∧
        (∀ n, checkOrder s1 (decide (q.src = .mailbox)) q.data = (n, none) → exec .changeOrder s =
          .next (respond (bump s1 0xE0B0 1 1) q (some (leBytes 2 n ++ leBytes 2 0 ++ leBytes 4 0))))) ∧
      (isClaim q = true →
        (∀ n o t rs, checkOrder s1 (decide (q.src = .mailbox)) q.data = (n, some o) →
          applyOrder { s1 with coc := { s1.coc with keyLeft := s.coc.keyLeft + 1 } } o true q.data = (t, rs) →
          exec .claim s = .next (respond { t with coc := { t.coc with owned := true, keyLeft := s.coc.keyLeft } } q
            (some (orderResponse 0 rs)))) ∧
        (∀ n, checkOrder s1 (decide (q.src = .mailbox)) q.data = (n, none) → exec .claim s =
          .next (respond (bump s1 0xE0B0 1 1) q (some (leBytes 2 n ++ leBytes 2 0 ++ leBytes 4 0))))) ∧
      (q.op = 4 → asksCertificate q = false →
        (attestStatus s1 q.data ≠ 0 → exec .attestReport s =
          .next (respond s1 q (some (leBytes 2 (attestStatus s1 q.data) ++ leBytes 2 0 ++ leBytes 4 0)))) ∧
        (attestStatus s1 q.data = 0 →
          let body := reportBody s1 (q.data.drop 8)
          let answer := attestResponse 0 (body ++ fitTo 2692 (Config.xmssSign (s.coc.aliasNo + 1) s.coc.aliasLeaf body))
          let s2 := { s1 with coc := { s1.coc with aliasLeaf := s.coc.aliasLeaf + 1 } }
          (s.coc.aliasLeaf < 65535 → exec .attestReport s = .next (respond s2 q (some answer))) ∧
          (s.coc.aliasLeaf = 65535 → exec .attestReport s =
            .next (respond (sillage s2 0x0302 5 noJob (packItems [(32, s.coc.bootCount)])) q (some answer))))) ∧
      (asksCertificate q = true →
        (attestStatus s1 q.data ≠ 0 → exec .attestCertificate s =
          .next (respond s1 q (some (leBytes 2 (attestStatus s1 q.data) ++ leBytes 2 0 ++ leBytes 4 0)))) ∧
        (attestStatus s1 q.data = 0 → exec .attestCertificate s = .next (respond s1 q (some (attestResponse 0
          (certBody s1 ++ fitTo 2820 (Config.xmssSign 0 s.coc.certLeaf (certBody s1)))))))))

/-! ### The Cocoon, supplies, resets -/

/-- The generation of an alias ends with one identity leaf used, or with none left uncertified (R519); a lockstep
mismatch restarts the pair, a second one within 1 s trips (R506); the restart ends on the bank that passes, a bank
swap taking effect or counting as failed (R525). (Readings and choices of the model: log 67.) -/
def Obligations.PairRestartsAndAlias : Prop :=
  (∀ s : State, s.coc.aliasGen = true → s.coc.up = true → s.coc.restart = false →
    (s.coc.leaves = 0 → exec .aliasGenDone s = .next { s with coc := { s.coc with aliasGen := false } }) ∧
    (0 < s.coc.leaves → exec .aliasGenDone s = .next { s with coc := { s.coc with
      aliasGen := false, aliasOk := true, leaves := s.coc.leaves - 1, certLeaf := 1048576 - s.coc.leaves
      certMr0 := s.coc.mr[0] } })) ∧
  (∀ s : State, s.por = false → s.coc.up = true →
    let again := bump { s with coc := { s.coc with
      restart := true, mismatch := some s.nowNs, aliasGen := false, aliasOk := false } } 0xE0B1 1 1
    (s.coc.mismatch = none → exec .lockstepMismatch s = .next again) ∧
    (∀ t, s.coc.mismatch = some t → t + 1000000000 < s.nowNs → exec .lockstepMismatch s = .next again) ∧
    (∀ t, s.coc.mismatch = some t → s.nowNs ≤ t + 1000000000 → exec .lockstepMismatch s = .next (assertTrip s 6 0 0))) ∧
  (∀ s : State, s.por = false → s.coc.restart = true →
    let s0 := { s with coc := { s.coc with restart := false, swapping := false } }
    let old := s.coc.prefer[0]
    (s.coc.swapping = false → (bankImage s0 0 old).ok = true → ∀ ok,
      exec (.cocoonRestartDone ok) s = .next (startAlias (activate s0 0 0 old false))) ∧
    (s.coc.swapping = false → (bankImage s0 0 old).ok = false → (bankImage s0 0 (1 - old)).ok = true → ∀ ok,
      exec (.cocoonRestartDone ok) s = .next (startAlias (activate s0 0 0 (1 - old) false))) ∧
    (s.coc.swapping = true → (bankImage s0 0 (1 - old)).ok = true → exec (.cocoonRestartDone true) s =
      .next (startAlias (recordFw (activate s0 0 0 (1 - old) true) 1 4 0 (1 - old)))) ∧
    (s.coc.swapping = false → (bankImage s0 0 old).ok = false → (bankImage s0 0 (1 - old)).ok = false → ∀ ok,
      exec (.cocoonRestartDone ok) s = .next (startAlias { s0 with coc := { s0.coc with up := false } })) ∧
    (s.coc.swapping = true → exec (.cocoonRestartDone false) s =
      .next (startAlias (activate { s0 with coc := { s0.coc with stageState := 4 } } 0 0 old false))))

/-- A comparator's trip and the loss of VIN_CORE or VDRAM assert COCOON_TRIP, which records the cause (R490, R507); it
is released 1 s later when the part is cool (R508). The other supplies assert POR, which leaves the POR bit alone as
the cause and the epoch 0 (R482, R487); VAON ends uptime too (R490). The release of POR samples the straps and loads
the channel maps (R307, R488, R489). (Readings and choices of the model: log 62 to 66.) -/
def Obligations.TripsAndSupplies : Prop :=
  (∀ (cause : Fin 8) (sensor reading : BitVec 16) (s : State), tripDue s cause sensor.toNat reading.toInt = true →
    s.coc.trip = false → ∃ t, exec (.trip cause sensor reading) s = .next t ∧ t.coc.trip = true ∧ t.coc.tripCause = cause.val ∧
      t.coc.tripSensor = sensor.toNat ∧ t.coc.mr = zeroMr ∧ t.pins.tx = .idle ∧
      (t.pins.thermtrip = true ↔ cause = 1 ∨ cause = 2 ∨ cause = 7)) ∧
  (∀ (cause : Fin 8) (sensor reading : BitVec 16) (s : State), tripDue s cause sensor.toNat reading.toInt = false →
    exec (.trip cause sensor reading) s = .next s) ∧
  (∀ s : State, s.por = false → s.coc.trip = true →
    (s.coc.latched = false → s.coc.tripUs * 1000 + 1000000000 ≤ s.nowNs → exec (.tripRelease true) s = .next (releaseBoot
      { s with coc := { s.coc with trip := false }, pins := { s.pins with thermtrip := false } })) ∧
    (s.coc.latched = true → ∀ cool, exec (.tripRelease cool) s = .next s) ∧ (exec (.tripRelease false) s = .next s)) ∧
  (∀ s : State, s.por = false → ∃ t, exec .porAssert s = .next t ∧ t.por = true ∧ t.hub.cause = 1 ∧ t.accord.epoch = 0 ∧
    t.stats = [] ∧ exec (.supplyLoss .v1p8aux) s = .next t ∧ exec (.supplyLoss .vio) s = .next t ∧
    exec (.supplyLoss .vaon) s = .next { t with nowNs := 0, refOk := false }) ∧
  (∀ s : State, s.por = false → s.coc.trip = false →
    ∃ t u, exec (.supplyLoss .vdram) s = .next t ∧ t.coc.trip = true ∧ t.coc.tripCause = 5 ∧
      exec (.supplyLoss .vinCore) s = .next u ∧ u.coc.trip = true ∧ u.coc.tripCause = 5) ∧
  (∀ s : State, exec .referenceQualified s = .next { s with refOk := true }) ∧
  (∀ s : State, exec .vinCoreUp s = .next { s with pow := { s.pow with vinUp := true } }) ∧
  (∀ (b k : Fin 4) (s : State), s.por = true → exec (.porRelease b k) s = .next (strapRecord (releaseBoot (loadMaps
    { s with por := false, hub := { s.hub with bootSel := b, clkMode := k }
             pins := { idlePins s.pins with nandCe := .high, nandWp := .low, nandOut := .low, clkreq := .active
                                            xtal := if 2 ≤ k.val then .released else .active } }))))

/-- The resets of the function (R482, R486), the instars of the Cocoon, the hub and the dies (R489, R524), DIE_RST and
the release of a die (R457, R484, R491): while a die goes idle for DIE_RST a release is held as PENDING_ENABLE, and
another assertion cancels it (R492); at the end of the release the DRAM is trained where its contents were not kept,
and a migration that the reset abandoned is queued again (R318). (Readings and choices of the model: log 53, 55,
56.) -/
def Obligations.FunctionAndDieResets : Prop :=
  (∀ s : State, s.por = false → s.pins.perst = false → s.hub.linkUp = true →
    exec .hotReset s = .next (resetCxl (functionReset (pkgCause s 4 3))) ∧
    exec .flr s = .next (functionReset (pkgCause s 4 4))) ∧
  (∀ s : State, s.pins.perst = false →
    (s.por = true → exec .perstAssert s = .next { s with pins := { s.pins with perst := true } }) ∧
    (s.por = false → ∃ t, exec .perstAssert s = .next t ∧ t.hub.linkUp = false ∧ t.hub.ready = false ∧ t.pins.tx = .idle ∧
      t.hub.hdm = [] ∧ t.kvPages = [] ∧ t.chunks = [] ∧ t.sched = {})) ∧
  (∀ s : State, s.pins.perst = true →
    let s1 := { s with pins := { s.pins with perst := false }, dict := tdel s.dict (objKey 0x5810 2) }
    ((s.por = true ∨ s.coc.trip = true) → exec .perstRelease s = .next s1) ∧
    (s.por = false → s.coc.trip = false → exec .perstRelease s =
      .next (restartDie (restartDie (restartDie (restartDie s1 0) 1) 2) 3))) ∧
  (∀ (pass : Bool) (s : State), s.por = false → s.coc.trip = false → s.coc.restart = false →
    (s.coc.up = false → s.hub.recovery = false →
      (∀ b, bootBank s 0 0 pass = some b → exec (.instarStart .cocoon pass) s = .next (startCocoon s b)) ∧
      (bootBank s 0 0 pass = none → exec (.instarStart .cocoon pass) s = .next (startRecovery s))) ∧
    (s.coc.up = true → s.hub.instar < 2 → s.hub.recovery = false →
      (s.hub.bootSel = 2 → exec (.instarStart .hub pass) s = .next (startRecovery s)) ∧
      (∀ b, s.hub.bootSel ≠ 2 → bootBank s 1 1 pass = some b → exec (.instarStart .hub pass) s = .next (startHub s b)) ∧
      (s.hub.bootSel ≠ 2 → bootBank s 1 1 pass = none → exec (.instarStart .hub pass) s = .next (startRecovery s))) ∧
    (∀ d : Die, (getDie s d).phase = .running → (getDie s d).instar = 0xFF → s.coc.up = true →
      (∀ b, bootBank s (d.val + 2) 2 pass = some b → exec (.instarStart (.die d) pass) s =
        .next (extendMr (runFrom (updDie s d fun x => { x with instar := 2 }) (d.val + 2) b) (d.val + 2)
          (bankImage s 2 b).digestA "DIEFW")) ∧
      (bootBank s (d.val + 2) 2 pass = none → exec (.instarStart (.die d) pass) s = .next (failDieBoot s d)))) ∧
  (∀ (d : Die) (s : State), s.por = false →
    ((getDie s d).dieRst = false → (role s d = 4 ∨ role s d = 5) →
      (answersAlwaysOn s d = true → exec (.dieRstAssert d) s = .next (assertDie s d)) ∧
      (answersAlwaysOn s d = false → exec (.dieRstAssert d) s = .next s)) ∧
    (∀ ask, (getDie s d).dieRst = false → role s d ≠ 4 → role s d ≠ 5 → (getDie s d).rstAsk = some ask →
      exec (.dieRstAssert d) s = .next (setDie s d { getDie s d with enable := false }) ∧
      (s.coc.trip = false → 2 ≤ s.hub.instar → s.hub.recovery = false → s.pow.vinUp = true → role s d ≤ 3 →
        exec (.dieRstRelease d) s = .next (setDie s d { getDie s d with enable := true }))) ∧
    ((getDie s d).dieRst = false → role s d = 1 → (getDie s d).upd = false → (getDie s d).rstAsk = none →
      (getDie s d).phase = .done →
      exec (.dieRstAssert d) s = .next (setDie s d { getDie s d with rstAsk := some s.nowNs })) ∧
    (s.coc.trip = false → (getDie s d).dieRst = true → 2 ≤ s.hub.instar → s.hub.recovery = false → s.pow.vinUp = true →
      role s d ≤ 3 → exec (.dieRstRelease d) s = .next (startRelease s d)) ∧
    (3 < role s d → exec (.dieRstRelease d) s = .next s) ∧
    ((getDie s d).phase = .running → (getDie s d).instar = 2 →
      let x := getDie s d
      let s1 := requeueMig (setDie s d { x with phase := .done, instar := 3, dramKept := true,
                                                trained := if x.dramKept then x.trained else [],
                                                trainNs := if x.dramKept then x.trainNs else s.nowNs }) d
      let s2 := extendMr s1 (d + 2) (bankImage s1 2 (s1.coc.running.getD (d.val + 2) 0)).digestB "DIEFW"
      let s3 := setPool s2 d { getPool s2 d with gib := setting s2 (0x4040 + 0x400 * d) 1 }
      exec (.dieReleaseDone d) s = .next (settleReady (if x.rejoin then setRole s3 d 3 else s3))))

/-- A cluster or core in service is asked to go idle, and its reset follows when it reports idle, or after
IDLE_TIMEOUT_US, which is recorded (R485). (Readings and choices of the model: log 55, 60.) -/
def Obligations.BlocksGoIdleAndReset : Prop :=
  (∀ (k : ClusterNo) (s : State), dieUp s (k / 16) = true → (getCluster s k).power = .warm → (getCluster s k).rstAsk = none →
    exec (.clusterRst k) s = .next (askCores (setCluster s k { getCluster s k with rstAsk := some s.nowNs }) (.cluster k))) ∧
  (∀ (c : CoreNo) (s : State), dieUp s (c / 512) = true → (getCluster s (c / 32)).power = .warm →
    (getCore s c).retired = false → (getCore s c).idleReq = false →
    exec (.coreRst c) s = .next (setCore s c { getCore s c with idleReq := true, idleNs := s.nowNs })) ∧
  (∀ (b : IdleBlock) (s : State) (t : Nat), askedAt s b = some t →
    ((∀ c k, (c, k) ∈ s.cores → blockCores b c = true → coreActive k = false) → exec (.idleReport b) s =
      .next (assertBlock s b)) ∧
    ((∃ c k, (c, k) ∈ s.cores ∧ blockCores b c = true ∧ coreActive k = true) → exec (.idleReport b) s = .next s) ∧
    (t + setting s 0x2300 1 * 1000 ≤ s.nowNs → exec (.idleTimeout b) s = .next (assertBlock (forceCause s b) b)) ∧
    (s.nowNs < t + setting s 0x2300 1 * 1000 → exec (.idleTimeout b) s = .next s))

/-! ### Die loss and online service -/

/-- Heartbeats are kept by path, a die controller's sent in a CTRL flit; missed ones, a controller that does not come
back and a release that overruns declare a loss by their cause (R454 to R456), which DIE_LOSS then carries out
(R457). (Readings and choices of the model: log 49, 114.) -/
def Obligations.LossesAreDeclaredAndTaken : Prop :=
  (∀ (d : Die) (p : HbPath) (s : State),
    let s1 := { s with accord := { s.accord with hb := tset s.accord.hb (d * 8 + pathNo p) s.nowNs } }
    (p ≠ .alwaysOn → ∀ x, exec (.heartbeat d p x) s =
      .next (updDie (send s1 .ctrl d (pathNo p) 0 1) d fun y => { y with wdAt := none })) ∧
    (p = .alwaysOn →
      exec (.heartbeat d p false) s = .next (updDie s1 d fun y => { y with silent := false }) ∧
      exec (.heartbeat d p true) s =
        .next (updDie s1 d fun y => { y with silent := false, wdAt := some (y.wdAt.getD s.nowNs) }))) ∧
  (∀ (d : Die) (s : State),
    let losing (n : Nat) : State := { s with accord := { s.accord with declared := tset s.accord.declared d n } }
    let fresh := s.por = false ∧ s.coc.restart = false ∧ role s d ≤ 3 ∧ tget s.accord.declared d = none
    (fresh → stale s d 5 = true → exec (.heartbeatMiss d .alwaysOn) s =
      .next (updDie (losing 1) d fun x => { x with silent := true })) ∧
    (stale s d 5 = false → exec (.heartbeatMiss d .alwaysOn) s = .next s) ∧
    (∀ p, p ≠ .alwaysOn → fresh → watched s d = true → stale s d 5 = false →
      (∀ q, q < 5 → q ≠ d.val → stale s d q = true) → exec (.heartbeatMiss d p) s = .next (losing 2)) ∧
    (∀ p q, p ≠ .alwaysOn → q < 5 → q ≠ d.val → stale s d q = false → exec (.heartbeatMiss d p) s = .next s) ∧
    (watched s d = true → exec (.watchdogExpiry d) s =
      .next (updDie s d fun x => { x with wdAt := some (x.wdAt.getD s.nowNs) })) ∧
    (∀ t, (getDie s d).wdAt = some t → watched s d = true →
      (s.nowNs < t + 20000000 → exec (.watchdogRestartTimeout d) s = .next s) ∧
      (fresh → t + 20000000 ≤ s.nowNs → exec (.watchdogRestartTimeout d) s =
        .next (updDie (losing 3) d fun x => { x with wdAt := none }))) ∧
    ((getDie s d).phase = .running →
      (s.nowNs ≤ (getDie s d).releaseNs + releaseBound (getDie s d) + 20000000 →
        exec (.releaseSequenceOverrun d) s = .next s) ∧
      ((getDie s d).releaseNs + releaseBound (getDie s d) + 20000000 < s.nowNs → (getDie s d).rejoin = true →
        exec (.releaseSequenceOverrun d) s = .next { setDie s d { getDie s d with
          phase := .held, dieRst := true, rejoin := false, autoTried := true } with hub := { s.hub with service := none } }) ∧
      (fresh → (getDie s d).releaseNs + releaseBound (getDie s d) + 20000000 < s.nowNs → (getDie s d).rejoin = false →
        exec (.releaseSequenceOverrun d) s = .next (losing 3))) ∧
    (s.por = false → s.coc.restart = false → role s d ≤ 3 →
      (∀ c m, tget s.accord.declared d = some c → exec (.dieLoss d m) s = .next (loseDie s d c)) ∧
      (tget s.accord.declared d = none → exec (.dieLoss d true) s = .next (loseDie s d 4)) ∧
      (tget s.accord.declared d = none → exec (.dieLoss d false) s = .next s)))

/-- Rings of a die that no longer serves move in ascending order and return to it later, a group continues on its second
die, an interrupted job runs again or fails, second copies are made and become current (R463, R466, R468, R469).
(Readings and choices of the model: log 51, 52.) -/
def Obligations.WorkMovesToOtherDies : Prop :=
  (∀ (r : RingNo) (s : State), s.hub.pause = false →
    let d := ringHome s r
    let to' := [0, 1, 2, 3].filter (serving s)
    (serving s d = false → lowestRing s d = some r.val → to' ≠ [] →
      let new := to'.getD ((getDie s d).moved % to'.length) 0
      exec (.ringRehome r) s = .next (sillage (send (updRing (updDie s d fun x => { x with moved := (getDie s d).moved + 1 }) r
        fun x => { x with home := some new }) .ctrl 4 new 0 1) 0x0103 4 noJob (packItems [(16, r.val), (8, new)]))) ∧
    (serving s d = true → exec (.ringRehome r) s = .next s) ∧
    (r.val ≠ 0 → serving s (r.val / 2048) = true → (getDie s (r.val / 2048)).upd = false → d ≠ r.val / 2048 →
      (ringBusy s r = false → exec (.ringReturn r) s = .next (sillage (send (updRing s r fun x => { x with home := none })
        .ctrl 4 (r / 2048) 0 1) 0x0103 4 noJob (packItems [(16, r.val), (8, r.val / 2048)]))) ∧
      (ringBusy s r = true → exec (.ringReturn r) s = .next s))) ∧
  (∀ (g : GroupNo) (gr : Group) (c : Nat) (s : State), tget s.groups g = some gr → gr.second = some c → gr.stopped = true →
    inAccord s gr.home = false → serviceUp s c = true →
    (gr.lc = true ∨ ∀ o, o ∈ s.groups → ¬ (o.2.stopped = true ∧ o.2.lc = true ∧ o.2.second = some c)) →
    let back (s : State) (p : Nat × Nat) : State := match (tget s.groups g).bind fun gr => tget gr.futures p.1 with
      | some f => if fLive f then writeFstate (reserveAgain s g p.1 p.2) g p.1 else s
      | none => s
    exec (.groupRehome g) s = .next ((gr.futures.map fun f => (f.1, f.2.reserve)).foldl back (settleGroup
      (updGroup s g fun gr => { gr with home := c, stopped := false, second := none, copyFresh := false
                                        futures := tmap (fun _ f => { f with reserve := 0, resSlots := 0 }) gr.futures }) g))) ∧
  (∀ (n d : Nat) (j : Job) (s : State), tget s.jobs n = some j → j.interrupted = some d →
    (j.failed ≠ none → exec (.jobRequeue n) s = .next (updJob s n fun j => { j with interrupted := none })) ∧
    (j.failed = none → (mayRequeue s j = false ∨ tget s.aspaces j.asid = none) →
      exec (.jobRequeue n) s = .next (failLost s n d)) ∧
    (j.failed = none → mayRequeue s j = true → tget s.aspaces j.asid ≠ none → requeueReady s j = false →
      exec (.jobRequeue n) s = .next s) ∧
    (j.failed = none → mayRequeue s j = true → tget s.aspaces j.asid ≠ none → requeueReady s j = true →
      ∃ t, exec (.jobRequeue n) s = .next t ∧ ∀ x, tget t.jobs n = some x → x.state = .waiting ∧ x.cores = [] ∧
        x.interrupted = none ∧ x.requeued = true ∧ x.stepsDone = 0 ∧ x.snapIx = [] ∧ x.firsts = [])) ∧
  (∀ (asid : Nat) (a : ASpace) (s : State), tget s.aspaces asid = some a →
    (∀ c, a.copyDie = none → inAccord s a.tableDie = true → successor s a.tableDie = some c →
      exec (.secondDieFill (.aspace asid)) s = .next (updSpace s asid fun a => { a with copyDie := some c, copyFresh := false })) ∧
    (a.copyDie ≠ none → exec (.fillDone (.aspace asid)) s = .next (updSpace s asid fun a => { a with copyFresh := true }))) ∧
  (∀ (g : GroupNo) (gr : Group) (s : State), tget s.groups g = some gr → gr.stopped = false →
    (∀ c, gr.second = none → successor s gr.home = some c → exec (.secondDieFill (.group g)) s =
      .next (updGroup s g fun gr => { gr with second := some c, copyFresh := false })) ∧
    (gr.second ≠ none → exec (.fillDone (.group g)) s = .next (updGroup s g fun gr => { gr with copyFresh := true })))

/-- A retired die's imagos are repacked, the largest first, into the first layout that fits (R473); a lost die rejoins
by itself once (R471), and serves again when its units are rebuilt, its other DRAM undefined. (Readings and choices
of the model: log 50.) -/
def Obligations.RepackAndRejoin : Prop :=
  (∀ (n : Nat) (m : Imago) (s : State), repacking s = none → largest (repackable s) = some (n, m) →
    let fits (parity : Bool) := layoutFits s (addedPages m (survivors s m) parity)
    let chosen (mode : Nat) : State := updImago s n fun m => { m with newMode := mode }
    (fits true = true → exec .repack s = .next { chosen 3 with hub := { (chosen 3).hub with service := some (4, n) } }) ∧
    (fits true = false → fits false = true →
      exec .repack s = .next { chosen 4 with hub := { (chosen 4).hub with service := some (4, n) } }) ∧
    (fits true = false → fits false = false → exec .repack s = .next (chosen 2))) ∧
  (∀ (n frame : Nat) (m : Imago) (s : State), repacking s = some (n, m) →
    (takeFrames s frame (addedPages m (survivors s m) (m.newMode = 3)) [] = none → exec (.repackSwitch frame) s = .next s) ∧
    (∀ got, takeFrames s frame (addedPages m (survivors s m) (m.newMode = 3)) [] = some got →
      let gone := m.pages.filter fun p => !p.parity && !(survivors s m).contains p.die
      let moves := gone.zip (got.filter fun p => !p.parity)
      let at' (p : ImagoPage) : Nat := p.die * dieSpan + p.frame * 65536
      let copied := moves.foldl (fun (s : State) (q : ImagoPage × ImagoPage) =>
        { s with dram := memWrites s.dram (at' q.2) (memReads s.dram (at' q.1) 65536) }) s
      let new : Imago := { m with pages := (m.pages.filter fun p => !p.parity && (survivors s m).contains p.die) ++ got
                                  dies := survivors s m, mode := m.newMode, newMode := 0 }
      let formed := (got.filter (·.parity)).foldl (fun s p => formParity s new p) copied
      let switched := switchPtes { formed with imagos := tset formed.imagos n new } n moves
      exec (.repackSwitch frame) s = .next { switched with hub := { switched.hub with service := none } })) ∧
  (∀ (d : Die) (s : State), role s d = 4 → setting s 0x2203 2 ≠ 0 → (getDie s d).rejoin = false → s.coc.restart = false →
    1 ≤ s.accord.causes[d] → s.accord.causes[d] ≤ 4 →
    ((getDie s d).autoTried = false → (getDie s d).lossNs + 1000000000 ≤ s.nowNs →
      exec (.autoRejoin d) s = .next (startRejoin s d true)) ∧
    ((getDie s d).autoTried = true ∨ s.nowNs < (getDie s d).lossNs + 1000000000 → exec (.autoRejoin d) s = .next s)) ∧
  (∀ (d : Die) (s : State), role s d = 3 → s.coc.restart = false → (∀ i, i ∈ s.imagos → rebuildable s d i.2 = false) →
    ∃ t, exec (.rejoinDone d) s = .next t ∧ role t d = 0 ∧ t.hub.service = none ∧ (getDie t d).rejoin = false ∧
      t.accord.epoch = s.accord.epoch + 1 ∧ t.dram = memUndef s.dram (d * dieSpan) dieBacked s.free ∧
      t.dramUE = s.dramUE.filter fun c => c * 128 / dieSpan ≠ d.val)

/-- A core is retired with its spare in its place, or without one; a logic error retires a core and interrupts its jobs
(R475); a die that has drained is updated and serves again from the bank that passes, or is lost; the hub's update
ends the pause (R476, R477). (Readings and choices of the model: log 67, 73.) -/
def Obligations.SparesAndUpdates : Prop :=
  (∀ (c : CoreNo) (s : State), c.val ∈ (getDie s (c / 512)).retire → (getCore s c).be = none → (getCore s c).lc = none →
    (getCore s c).spill = none →
    let x := getCluster s (c / 32)
    let settled (s : State) : State := failOversize (recordRetired s c) (asideJobs s)
    (x.spare ≠ 0 → ∀ pass, exec (.spareSwapDone c pass) s = .next (settled s)) ∧
    (x.spare = 0 → x.power ≠ .warm → exec (.spareSwapDone c true) s = .next (settled s)) ∧
    (x.spare = 0 → x.power = .warm → exec (.spareSwapDone c true) s =
      .next (updCore (settled s) c fun k => { k with warm := true })) ∧
    (x.spare = 0 → exec (.spareSwapDone c false) s = .next (settled (updCluster
      { s with coc := { s.coc with retired := (c / 32 * 64 + 32) :: s.coc.retired } } (c / 32)
      fun x => { x with spare := 1 })))) ∧
  (∀ (c : CoreNo) (s : State), (getCore s c).retired = false → c.val ∉ (getDie s (c / 512)).retire →
    exec (.coreLogicUe c) s = .next ((coreTasks (getCore s c)).foldl (fun s t => interrupt s t.job (c / 512))
      (let waiting := updDie s (c / 512) fun x => { x with retire := x.retire ++ [c.val] }
       let x := getCluster waiting (c / 32)
       if x.spare = 0 ∧ x.swap = none then setCluster waiting (c / 32) { x with swap := some c.val } else waiting))) ∧
  (∀ (d : Die) (s : State), (getDie s d).upd = true → s.coc.restart = false →
    (role s d = 1 → dieBusy s d = true → exec (.updateRestart d) s = .next s) ∧
    (role s d = 1 → dieBusy s d = false →
      let s1 := updDie s d fun x => { x with updNs := some s.nowNs, updBank := true }
      exec (.updateRestart d) s = .next (setRole { s1 with hub := { s1.hub with service := some (2, d.val) } } d 2)) ∧
    (role s d = 2 → s.pins.perst = false →
      let old := s.coc.prefer.getD (d.val + 2) 0
      let s1 := updDie s d fun x => { x with upd := false, updNs := none }
      let done := setRole { s1 with hub := { s1.hub with service := none } } d 0
      ((bankImage s 2 (1 - old)).ok = true → exec (.updateDone d .newBank) s =
        .next (recordFw (activate done (d.val + 2) 2 (1 - old) true) 2 d 2 (1 - old))) ∧
      ((bankImage s 2 (1 - old)).ok = false → exec (.updateDone d .newBank) s =
        .next (recordFw (activate done (d.val + 2) 2 old false) 2 d 2 old)) ∧
      (exec (.updateDone d .oldBank) s = .next (recordFw (activate done (d.val + 2) 2 old false) 2 d 2 old)) ∧
      (exec (.updateDone d .none) s = .next (loseDie s d 6)))) ∧
  (∀ s : State, s.hub.update = true →
    let old := s.coc.prefer.getD 1 0
    let s1 := { s with hub := { s.hub with update := false, pause := false, service := none }
                       coc := { s.coc with mr := s.coc.mr.setIfInBounds 1 (List.replicate 32 0) } }
    ((bankImage s 1 (1 - old)).ok = true →
      exec .hubUpdateDone s = .next (recordFw (activate s1 1 1 (1 - old) true) 2 4 1 (1 - old))) ∧
    ((bankImage s 1 (1 - old)).ok = false →
      exec .hubUpdateDone s = .next (recordFw (activate s1 1 1 old true) 2 4 1 old)))

/-! ### The field network, bridges and hub links -/

/-- A frame for the port is counted, rejected with its cause where R442 to R445 refuse it, taken as a request when
whole, else reassembled (R441 to R446). A grant opens a session or is refused, a close is answered and closes it, a
session expires, a request not complete within 100 ms is dropped (R444, R445). (Readings and choices of the model:
log 68 to 71.) -/
def Obligations.FieldNetworkServes : Prop :=
  (∀ (bs : List Byte) (s : State), svcUp s = true →
    let f := parseFrame bs
    let s1 := bump s 0xE080 1 1
    (s.fnet.on = false → exec (.fnFrame bs) s = .next s) ∧
    (s.fnet.on = true → 14 ≤ bs.length → bs.length ≤ 1514 → netNat ((bs.drop 12).take 2) = s.fnet.ethertype →
      (f.dst = s.fnet.mac ∨ f.dst = 2 ^ 48 - 1 ∧ (f.op = 1 ∨ f.op = 4)) →
      (f.ok = false → exec (.fnFrame bs) s = .next (rejectLayout s1 f.src f.op)) ∧
      (f.ok = true → (f.op = 0 ∨ 4 < f.op ∧ f.op ≠ 0x10 ∧ f.op ≠ 0x11) →
        exec (.fnFrame bs) s = .next (rejectFrame s1 f.src f.op 6)) ∧
      (f.ok = true → (1 ≤ f.op ∧ f.op ≤ 4 ∨ f.op = 0x10 ∨ f.op = 0x11) →
        (∀ c, sessionCheck s1 f = some c → exec (.fnFrame bs) s = .next (rejectFrame s1 f.src f.op c)) ∧
        (sessionCheck s1 f = none → f.off = 0 → f.more = false → exec (.fnFrame bs) s =
          .next (acceptRequest s1 f.src f.session f.seq f.op f.payload)) ∧
        (sessionCheck s1 f = none → (f.off ≠ 0 ∨ f.more = true) → exec (.fnFrame bs) s = .next (takeFragment s1 f))))) ∧
  (∀ (mac q : Nat) (g : List Byte) (rest : List (Nat × Nat × List Byte)) (s : State), svcUp s = true →
    s.coc.restart = false → s.fnet.grants = (mac, q, g) :: rest →
    let s1 := { s with fnet := { s.fnet with grants := rest } }
    ((s.coc.up = false ∨ grantOk s1 g = false) → exec .sessionGrant s = .next (rejectFrame s1 mac 0x10 5)) ∧
    (s.coc.up = true → grantOk s1 g = true →
      let n := leNat ((g.drop 16).take 2)
      let e : Session := { peer := netNat ((g.drop 18).take 6), rights := (g.getD 24 0).toNat % 8
                           expiry := leNat ((g.drop 32).take 8)
                           key := kmacWith "JY-FN-SESSION" (s.coc.rootKey.getD []) (g.take 40) 32 }
      let s2 := { s1 with fnet := { s1.fnet with sessions := tset s.fnet.sessions n e } }
      exec .sessionGrant s = .next (fieldRespond (sillage s2 0x0032 4 noJob (packItems [(16, n), (8, 1), (8, 0)]))
        mac (q / 2 ^ 32) (q % 2 ^ 32) 0x10 []))) ∧
  (∀ (n : Nat) (rest : List Nat) (e : Session) (s : State), svcUp s = true → s.fnet.closes = n :: rest →
    tget s.fnet.sessions n = some e → exec .sessionClose s = .next (closeSession
      (fieldRespond { s with fnet := { s.fnet with closes := rest } } e.peer n (e.lastSeq.getD 0) 0x11 []) n 1)) ∧
  (∀ (n : BitVec 16) (e : Session) (s : State), tget s.fnet.sessions n.toNat = some e →
    (e.expiry ≤ uptimeUs s → exec (.sessionExpiry n) s = .next (sillage
      { s with fnet := { s.fnet with sessions := tdel s.fnet.sessions n.toNat } } 0x0032 4 noJob
      (packItems [(16, n.toNat), (8, 0), (8, 2)]))) ∧
    (uptimeUs s < e.expiry → exec (.sessionExpiry n) s = .next s)) ∧
  (∀ (b : Fin 4) (r : Reasm) (s : State), tget s.fnet.buffers b.val = some r →
    (r.first + 100000000 ≤ s.nowNs → exec (.reassemblyTimeout b) s = .next (dropReasm s (some b.val) r.mac r.op)) ∧
    (s.nowNs < r.first + 100000000 → exec (.reassemblyTimeout b) s = .next s))

/-- A link trains with spares in the place of bad lanes, fails with more bad lanes than spares and is DOWN at the third
failure (R28); a lane retrains online (R29); a fault takes the link DOWN with its record, while the dies at its ends
answer (R30). Where a bridge is DOWN, even pages go by the lower relay and odd ones by the higher, or all by the
only one (R31). At a flit boundary a waiting CTRL flit with a credit goes first, unless it has had its one of this
window of 64 while DATA waited; REQ and DATA then go by credits of their own (R24, R25; REQ before DATA is the
model's choice). Of 64 flits to the host at least 8 carry waiting CXL.io (R361). (Readings and choices of the model:
log 131, 132, 157.) -/
def Obligations.LinksTrainAndFail : Prop :=
  (∀ (l : Fin 10) (s : State),
    let x := getLink s l
    (x.up = false → x.state ≠ 2 → linkReady s l = true →
      (∀ n, n ≤ spareLanes l → exec (.linkTrain l n) s = .next (linkRecord (setLink s l
        { x with up := true, used := n, tries := 0, state := if n = 0 then 0 else 1 }) l)) ∧
      (∀ n, spareLanes l < n → x.tries < 2 → exec (.linkTrain l n) s = .next (setLink s l { x with tries := x.tries + 1 })) ∧
      (∀ n, spareLanes l < n → 2 ≤ x.tries →
        exec (.linkTrain l n) s = .next (linkRecord (setLink s l { x with tries := 0, state := 2 }) l))) ∧
    (x.up = true → ∀ n, exec (.linkTrain l n) s = .next s) ∧
    (x.up = true → x.state ≠ 2 → exec (.laneRetrain l) s = .next (setLink s l { x with retrain := true })) ∧
    (x.retrain = true → exec (.laneRetrainDone l) s = .next (setLink s l { x with retrain := false })) ∧
    (x.up = true → x.state ≠ 2 → (∀ d, d ∈ linkEnds l → answersAlwaysOn s d = true) →
      exec (.linkFault l) s = .next (linkRecord (downLink s l) l) ∧ (getLink (downLink s l) l).state = 2)) ∧
  (∀ (a b page : Nat) (s : State), a ≠ b →
    (linkUp s (bridgeOf a b) = true → diePath s a b page = some [bridgeHop a b]) ∧
    (linkUp s (bridgeOf a b) = false →
      (relays s a b = [] → diePath s a b page = none) ∧
      (∀ e, relays s a b = [e] → diePath s a b page = some [bridgeHop a e, bridgeHop e b]) ∧
      (∀ e f r, relays s a b = e :: f :: r →
        (page % 2 = 0 → diePath s a b page = some [bridgeHop a e, bridgeHop e b]) ∧
        (page % 2 = 1 → diePath s a b page = some [bridgeHop a f, bridgeHop f b])))) ∧
  (∀ x : LinkDir,
    let ctrlGoes := 0 < x.ctrlWait ∧ x.ctrlUsed < 16 ∧ ¬ (x.windowCtrl = true ∧ 0 < x.dataWait)
    (ctrlGoes → x.boundary.ctrlWait = x.ctrlWait - 1 ∧ x.boundary.ctrlUsed = x.ctrlUsed + 1 ∧
      x.boundary.reqWait = x.reqWait ∧ x.boundary.dataWait = x.dataWait ∧
      (x.window < 63 → x.boundary.windowCtrl = (x.windowCtrl || decide (0 < x.dataWait)))) ∧
    (¬ ctrlGoes → x.boundary.ctrlWait = x.ctrlWait ∧ x.boundary.ctrlUsed = x.ctrlUsed ∧
      (0 < x.reqWait ∧ x.reqUsed < classCredits .req →
        x.boundary.reqWait = x.reqWait - 1 ∧ x.boundary.reqUsed = x.reqUsed + 1 ∧ x.boundary.dataWait = x.dataWait) ∧
      (¬ (0 < x.reqWait ∧ x.reqUsed < classCredits .req) → 0 < x.dataWait → x.dataUsed < classCredits .data →
        x.boundary.dataWait = x.dataWait - 1 ∧ x.boundary.dataUsed = x.dataUsed + 1 ∧ x.boundary.reqWait = x.reqWait)) ∧
    (x.window = 63 → x.boundary ≠ x → x.boundary.window = 0 ∧ x.boundary.windowCtrl = false)) ∧
  (∀ x : HostTx, x.window = 0 → x.ioSent = 0 → 8 ≤ x.io → (HostTx.flits 64 x).io + 8 ≤ x.io)

end Statements
end

