-- ==== Sys2Proof/Laws/State.lean ====
section
/-! SUPPORT. What each update of one table of the state leaves unchanged: one lemma for each update and field. -/

namespace Sys2Proof.Machine

/-! ### setCore -/

section
variable (s : State) (c : Nat) (k : Core)

@[simp] theorem setCore_pending : (setCore s c k).pending = s.pending := rfl
@[simp] theorem setCore_nowNs : (setCore s c k).nowNs = s.nowNs := rfl
@[simp] theorem setCore_free : (setCore s c k).free = s.free := rfl
@[simp] theorem setCore_seq : (setCore s c k).seq = s.seq := rfl
@[simp] theorem setCore_dram : (setCore s c k).dram = s.dram := rfl
@[simp] theorem setCore_dramUE : (setCore s c k).dramUE = s.dramUE := rfl
@[simp] theorem setCore_hostMem : (setCore s c k).hostMem = s.hostMem := rfl
@[simp] theorem setCore_nand : (setCore s c k).nand = s.nand := rfl
@[simp] theorem setCore_scratch : (setCore s c k).scratch = s.scratch := rfl
@[simp] theorem setCore_scratchUE : (setCore s c k).scratchUE = s.scratchUE := rfl
@[simp] theorem setCore_jobs : (setCore s c k).jobs = s.jobs := rfl
@[simp] theorem setCore_aspaces : (setCore s c k).aspaces = s.aspaces := rfl
@[simp] theorem setCore_groups : (setCore s c k).groups = s.groups := rfl
@[simp] theorem setCore_kvPages : (setCore s c k).kvPages = s.kvPages := rfl
@[simp] theorem setCore_chunks : (setCore s c k).chunks = s.chunks := rfl
@[simp] theorem setCore_trees : (setCore s c k).trees = s.trees := rfl
@[simp] theorem setCore_pools : (setCore s c k).pools = s.pools := rfl
@[simp] theorem setCore_commits : (setCore s c k).commits = s.commits := rfl
@[simp] theorem setCore_stats : (setCore s c k).stats = s.stats := rfl
@[simp] theorem setCore_dict : (setCore s c k).dict = s.dict := rfl
@[simp] theorem setCore_sill : (setCore s c k).sill = s.sill := rfl
@[simp] theorem setCore_sillWritten : (setCore s c k).sillWritten = s.sillWritten := rfl
@[simp] theorem setCore_cmds : (setCore s c k).cmds = s.cmds := rfl
@[simp] theorem setCore_posts : (setCore s c k).posts = s.posts := rfl
@[simp] theorem setCore_rings : (setCore s c k).rings = s.rings := rfl
@[simp] theorem setCore_hub : (setCore s c k).hub = s.hub := rfl
@[simp] theorem setCore_svc : (setCore s c k).svc = s.svc := rfl
@[simp] theorem setCore_fnet : (setCore s c k).fnet = s.fnet := rfl
@[simp] theorem setCore_dies : (setCore s c k).dies = s.dies := rfl
@[simp] theorem setCore_clusters : (setCore s c k).clusters = s.clusters := rfl
@[simp] theorem setCore_links : (setCore s c k).links = s.links := rfl
@[simp] theorem setCore_pow : (setCore s c k).pow = s.pow := rfl
@[simp] theorem setCore_pmb : (setCore s c k).pmb = s.pmb := rfl
@[simp] theorem setCore_accord : (setCore s c k).accord = s.accord := rfl
@[simp] theorem setCore_coc : (setCore s c k).coc = s.coc := rfl
@[simp] theorem setCore_imagos : (setCore s c k).imagos = s.imagos := rfl
@[simp] theorem setCore_flash : (setCore s c k).flash = s.flash := rfl
@[simp] theorem setCore_pins : (setCore s c k).pins = s.pins := rfl
@[simp] theorem setCore_sched : (setCore s c k).sched = s.sched := rfl
@[simp] theorem setCore_refOk : (setCore s c k).refOk = s.refOk := rfl
@[simp] theorem setCore_por : (setCore s c k).por = s.por := rfl

end

/-! ### setDie -/

section
variable (s : State) (d : Nat) (x : DieHw)

@[simp] theorem setDie_pending : (setDie s d x).pending = s.pending := rfl
@[simp] theorem setDie_nowNs : (setDie s d x).nowNs = s.nowNs := rfl
@[simp] theorem setDie_free : (setDie s d x).free = s.free := rfl
@[simp] theorem setDie_seq : (setDie s d x).seq = s.seq := rfl
@[simp] theorem setDie_dram : (setDie s d x).dram = s.dram := rfl
@[simp] theorem setDie_dramUE : (setDie s d x).dramUE = s.dramUE := rfl
@[simp] theorem setDie_hostMem : (setDie s d x).hostMem = s.hostMem := rfl
@[simp] theorem setDie_nand : (setDie s d x).nand = s.nand := rfl
@[simp] theorem setDie_scratch : (setDie s d x).scratch = s.scratch := rfl
@[simp] theorem setDie_scratchUE : (setDie s d x).scratchUE = s.scratchUE := rfl
@[simp] theorem setDie_cores : (setDie s d x).cores = s.cores := rfl
@[simp] theorem setDie_jobs : (setDie s d x).jobs = s.jobs := rfl
@[simp] theorem setDie_aspaces : (setDie s d x).aspaces = s.aspaces := rfl
@[simp] theorem setDie_groups : (setDie s d x).groups = s.groups := rfl
@[simp] theorem setDie_kvPages : (setDie s d x).kvPages = s.kvPages := rfl
@[simp] theorem setDie_chunks : (setDie s d x).chunks = s.chunks := rfl
@[simp] theorem setDie_trees : (setDie s d x).trees = s.trees := rfl
@[simp] theorem setDie_pools : (setDie s d x).pools = s.pools := rfl
@[simp] theorem setDie_commits : (setDie s d x).commits = s.commits := rfl
@[simp] theorem setDie_stats : (setDie s d x).stats = s.stats := rfl
@[simp] theorem setDie_dict : (setDie s d x).dict = s.dict := rfl
@[simp] theorem setDie_sill : (setDie s d x).sill = s.sill := rfl
@[simp] theorem setDie_sillWritten : (setDie s d x).sillWritten = s.sillWritten := rfl
@[simp] theorem setDie_cmds : (setDie s d x).cmds = s.cmds := rfl
@[simp] theorem setDie_posts : (setDie s d x).posts = s.posts := rfl
@[simp] theorem setDie_rings : (setDie s d x).rings = s.rings := rfl
@[simp] theorem setDie_hub : (setDie s d x).hub = s.hub := rfl
@[simp] theorem setDie_svc : (setDie s d x).svc = s.svc := rfl
@[simp] theorem setDie_fnet : (setDie s d x).fnet = s.fnet := rfl
@[simp] theorem setDie_clusters : (setDie s d x).clusters = s.clusters := rfl
@[simp] theorem setDie_links : (setDie s d x).links = s.links := rfl
@[simp] theorem setDie_pow : (setDie s d x).pow = s.pow := rfl
@[simp] theorem setDie_pmb : (setDie s d x).pmb = s.pmb := rfl
@[simp] theorem setDie_accord : (setDie s d x).accord = s.accord := rfl
@[simp] theorem setDie_coc : (setDie s d x).coc = s.coc := rfl
@[simp] theorem setDie_imagos : (setDie s d x).imagos = s.imagos := rfl
@[simp] theorem setDie_flash : (setDie s d x).flash = s.flash := rfl
@[simp] theorem setDie_pins : (setDie s d x).pins = s.pins := rfl
@[simp] theorem setDie_sched : (setDie s d x).sched = s.sched := rfl
@[simp] theorem setDie_refOk : (setDie s d x).refOk = s.refOk := rfl
@[simp] theorem setDie_por : (setDie s d x).por = s.por := rfl

end

/-! ### setCluster -/

section
variable (s : State) (k : Nat) (x : Cluster)

@[simp] theorem setCluster_pending : (setCluster s k x).pending = s.pending := rfl
@[simp] theorem setCluster_nowNs : (setCluster s k x).nowNs = s.nowNs := rfl
@[simp] theorem setCluster_free : (setCluster s k x).free = s.free := rfl
@[simp] theorem setCluster_seq : (setCluster s k x).seq = s.seq := rfl
@[simp] theorem setCluster_dram : (setCluster s k x).dram = s.dram := rfl
@[simp] theorem setCluster_dramUE : (setCluster s k x).dramUE = s.dramUE := rfl
@[simp] theorem setCluster_hostMem : (setCluster s k x).hostMem = s.hostMem := rfl
@[simp] theorem setCluster_nand : (setCluster s k x).nand = s.nand := rfl
@[simp] theorem setCluster_scratch : (setCluster s k x).scratch = s.scratch := rfl
@[simp] theorem setCluster_scratchUE : (setCluster s k x).scratchUE = s.scratchUE := rfl
@[simp] theorem setCluster_cores : (setCluster s k x).cores = s.cores := rfl
@[simp] theorem setCluster_jobs : (setCluster s k x).jobs = s.jobs := rfl
@[simp] theorem setCluster_aspaces : (setCluster s k x).aspaces = s.aspaces := rfl
@[simp] theorem setCluster_groups : (setCluster s k x).groups = s.groups := rfl
@[simp] theorem setCluster_kvPages : (setCluster s k x).kvPages = s.kvPages := rfl
@[simp] theorem setCluster_chunks : (setCluster s k x).chunks = s.chunks := rfl
@[simp] theorem setCluster_trees : (setCluster s k x).trees = s.trees := rfl
@[simp] theorem setCluster_pools : (setCluster s k x).pools = s.pools := rfl
@[simp] theorem setCluster_commits : (setCluster s k x).commits = s.commits := rfl
@[simp] theorem setCluster_stats : (setCluster s k x).stats = s.stats := rfl
@[simp] theorem setCluster_dict : (setCluster s k x).dict = s.dict := rfl
@[simp] theorem setCluster_sill : (setCluster s k x).sill = s.sill := rfl
@[simp] theorem setCluster_sillWritten : (setCluster s k x).sillWritten = s.sillWritten := rfl
@[simp] theorem setCluster_cmds : (setCluster s k x).cmds = s.cmds := rfl
@[simp] theorem setCluster_posts : (setCluster s k x).posts = s.posts := rfl
@[simp] theorem setCluster_rings : (setCluster s k x).rings = s.rings := rfl
@[simp] theorem setCluster_hub : (setCluster s k x).hub = s.hub := rfl
@[simp] theorem setCluster_svc : (setCluster s k x).svc = s.svc := rfl
@[simp] theorem setCluster_fnet : (setCluster s k x).fnet = s.fnet := rfl
@[simp] theorem setCluster_dies : (setCluster s k x).dies = s.dies := rfl
@[simp] theorem setCluster_links : (setCluster s k x).links = s.links := rfl
@[simp] theorem setCluster_pow : (setCluster s k x).pow = s.pow := rfl
@[simp] theorem setCluster_pmb : (setCluster s k x).pmb = s.pmb := rfl
@[simp] theorem setCluster_accord : (setCluster s k x).accord = s.accord := rfl
@[simp] theorem setCluster_coc : (setCluster s k x).coc = s.coc := rfl
@[simp] theorem setCluster_imagos : (setCluster s k x).imagos = s.imagos := rfl
@[simp] theorem setCluster_flash : (setCluster s k x).flash = s.flash := rfl
@[simp] theorem setCluster_pins : (setCluster s k x).pins = s.pins := rfl
@[simp] theorem setCluster_sched : (setCluster s k x).sched = s.sched := rfl
@[simp] theorem setCluster_refOk : (setCluster s k x).refOk = s.refOk := rfl
@[simp] theorem setCluster_por : (setCluster s k x).por = s.por := rfl

end

/-! ### setRing -/

section
variable (s : State) (r : Nat) (x : Ring)

@[simp] theorem setRing_pending : (setRing s r x).pending = s.pending := rfl
@[simp] theorem setRing_nowNs : (setRing s r x).nowNs = s.nowNs := rfl
@[simp] theorem setRing_free : (setRing s r x).free = s.free := rfl
@[simp] theorem setRing_seq : (setRing s r x).seq = s.seq := rfl
@[simp] theorem setRing_dram : (setRing s r x).dram = s.dram := rfl
@[simp] theorem setRing_dramUE : (setRing s r x).dramUE = s.dramUE := rfl
@[simp] theorem setRing_hostMem : (setRing s r x).hostMem = s.hostMem := rfl
@[simp] theorem setRing_nand : (setRing s r x).nand = s.nand := rfl
@[simp] theorem setRing_scratch : (setRing s r x).scratch = s.scratch := rfl
@[simp] theorem setRing_scratchUE : (setRing s r x).scratchUE = s.scratchUE := rfl
@[simp] theorem setRing_cores : (setRing s r x).cores = s.cores := rfl
@[simp] theorem setRing_jobs : (setRing s r x).jobs = s.jobs := rfl
@[simp] theorem setRing_aspaces : (setRing s r x).aspaces = s.aspaces := rfl
@[simp] theorem setRing_groups : (setRing s r x).groups = s.groups := rfl
@[simp] theorem setRing_kvPages : (setRing s r x).kvPages = s.kvPages := rfl
@[simp] theorem setRing_chunks : (setRing s r x).chunks = s.chunks := rfl
@[simp] theorem setRing_trees : (setRing s r x).trees = s.trees := rfl
@[simp] theorem setRing_pools : (setRing s r x).pools = s.pools := rfl
@[simp] theorem setRing_commits : (setRing s r x).commits = s.commits := rfl
@[simp] theorem setRing_stats : (setRing s r x).stats = s.stats := rfl
@[simp] theorem setRing_dict : (setRing s r x).dict = s.dict := rfl
@[simp] theorem setRing_sill : (setRing s r x).sill = s.sill := rfl
@[simp] theorem setRing_sillWritten : (setRing s r x).sillWritten = s.sillWritten := rfl
@[simp] theorem setRing_cmds : (setRing s r x).cmds = s.cmds := rfl
@[simp] theorem setRing_posts : (setRing s r x).posts = s.posts := rfl
@[simp] theorem setRing_hub : (setRing s r x).hub = s.hub := rfl
@[simp] theorem setRing_svc : (setRing s r x).svc = s.svc := rfl
@[simp] theorem setRing_fnet : (setRing s r x).fnet = s.fnet := rfl
@[simp] theorem setRing_dies : (setRing s r x).dies = s.dies := rfl
@[simp] theorem setRing_clusters : (setRing s r x).clusters = s.clusters := rfl
@[simp] theorem setRing_links : (setRing s r x).links = s.links := rfl
@[simp] theorem setRing_pow : (setRing s r x).pow = s.pow := rfl
@[simp] theorem setRing_pmb : (setRing s r x).pmb = s.pmb := rfl
@[simp] theorem setRing_accord : (setRing s r x).accord = s.accord := rfl
@[simp] theorem setRing_coc : (setRing s r x).coc = s.coc := rfl
@[simp] theorem setRing_imagos : (setRing s r x).imagos = s.imagos := rfl
@[simp] theorem setRing_flash : (setRing s r x).flash = s.flash := rfl
@[simp] theorem setRing_pins : (setRing s r x).pins = s.pins := rfl
@[simp] theorem setRing_sched : (setRing s r x).sched = s.sched := rfl
@[simp] theorem setRing_refOk : (setRing s r x).refOk = s.refOk := rfl
@[simp] theorem setRing_por : (setRing s r x).por = s.por := rfl

end

/-! ### setGroup -/

section
variable (s : State) (n : Nat) (g : Group)

@[simp] theorem setGroup_pending : (setGroup s n g).pending = s.pending := rfl
@[simp] theorem setGroup_nowNs : (setGroup s n g).nowNs = s.nowNs := rfl
@[simp] theorem setGroup_free : (setGroup s n g).free = s.free := rfl
@[simp] theorem setGroup_seq : (setGroup s n g).seq = s.seq := rfl
@[simp] theorem setGroup_dram : (setGroup s n g).dram = s.dram := rfl
@[simp] theorem setGroup_dramUE : (setGroup s n g).dramUE = s.dramUE := rfl
@[simp] theorem setGroup_hostMem : (setGroup s n g).hostMem = s.hostMem := rfl
@[simp] theorem setGroup_nand : (setGroup s n g).nand = s.nand := rfl
@[simp] theorem setGroup_scratch : (setGroup s n g).scratch = s.scratch := rfl
@[simp] theorem setGroup_scratchUE : (setGroup s n g).scratchUE = s.scratchUE := rfl
@[simp] theorem setGroup_cores : (setGroup s n g).cores = s.cores := rfl
@[simp] theorem setGroup_jobs : (setGroup s n g).jobs = s.jobs := rfl
@[simp] theorem setGroup_aspaces : (setGroup s n g).aspaces = s.aspaces := rfl
@[simp] theorem setGroup_kvPages : (setGroup s n g).kvPages = s.kvPages := rfl
@[simp] theorem setGroup_chunks : (setGroup s n g).chunks = s.chunks := rfl
@[simp] theorem setGroup_trees : (setGroup s n g).trees = s.trees := rfl
@[simp] theorem setGroup_pools : (setGroup s n g).pools = s.pools := rfl
@[simp] theorem setGroup_commits : (setGroup s n g).commits = s.commits := rfl
@[simp] theorem setGroup_stats : (setGroup s n g).stats = s.stats := rfl
@[simp] theorem setGroup_dict : (setGroup s n g).dict = s.dict := rfl
@[simp] theorem setGroup_sill : (setGroup s n g).sill = s.sill := rfl
@[simp] theorem setGroup_sillWritten : (setGroup s n g).sillWritten = s.sillWritten := rfl
@[simp] theorem setGroup_cmds : (setGroup s n g).cmds = s.cmds := rfl
@[simp] theorem setGroup_posts : (setGroup s n g).posts = s.posts := rfl
@[simp] theorem setGroup_rings : (setGroup s n g).rings = s.rings := rfl
@[simp] theorem setGroup_hub : (setGroup s n g).hub = s.hub := rfl
@[simp] theorem setGroup_svc : (setGroup s n g).svc = s.svc := rfl
@[simp] theorem setGroup_fnet : (setGroup s n g).fnet = s.fnet := rfl
@[simp] theorem setGroup_dies : (setGroup s n g).dies = s.dies := rfl
@[simp] theorem setGroup_clusters : (setGroup s n g).clusters = s.clusters := rfl
@[simp] theorem setGroup_links : (setGroup s n g).links = s.links := rfl
@[simp] theorem setGroup_pow : (setGroup s n g).pow = s.pow := rfl
@[simp] theorem setGroup_pmb : (setGroup s n g).pmb = s.pmb := rfl
@[simp] theorem setGroup_accord : (setGroup s n g).accord = s.accord := rfl
@[simp] theorem setGroup_coc : (setGroup s n g).coc = s.coc := rfl
@[simp] theorem setGroup_imagos : (setGroup s n g).imagos = s.imagos := rfl
@[simp] theorem setGroup_flash : (setGroup s n g).flash = s.flash := rfl
@[simp] theorem setGroup_pins : (setGroup s n g).pins = s.pins := rfl
@[simp] theorem setGroup_sched : (setGroup s n g).sched = s.sched := rfl
@[simp] theorem setGroup_refOk : (setGroup s n g).refOk = s.refOk := rfl
@[simp] theorem setGroup_por : (setGroup s n g).por = s.por := rfl

end

/-! ### setPool -/

section
variable (s : State) (d : Nat) (p : KvPool)

@[simp] theorem setPool_pending : (setPool s d p).pending = s.pending := rfl
@[simp] theorem setPool_nowNs : (setPool s d p).nowNs = s.nowNs := rfl
@[simp] theorem setPool_free : (setPool s d p).free = s.free := rfl
@[simp] theorem setPool_seq : (setPool s d p).seq = s.seq := rfl
@[simp] theorem setPool_dram : (setPool s d p).dram = s.dram := rfl
@[simp] theorem setPool_dramUE : (setPool s d p).dramUE = s.dramUE := rfl
@[simp] theorem setPool_hostMem : (setPool s d p).hostMem = s.hostMem := rfl
@[simp] theorem setPool_nand : (setPool s d p).nand = s.nand := rfl
@[simp] theorem setPool_scratch : (setPool s d p).scratch = s.scratch := rfl
@[simp] theorem setPool_scratchUE : (setPool s d p).scratchUE = s.scratchUE := rfl
@[simp] theorem setPool_cores : (setPool s d p).cores = s.cores := rfl
@[simp] theorem setPool_jobs : (setPool s d p).jobs = s.jobs := rfl
@[simp] theorem setPool_aspaces : (setPool s d p).aspaces = s.aspaces := rfl
@[simp] theorem setPool_groups : (setPool s d p).groups = s.groups := rfl
@[simp] theorem setPool_kvPages : (setPool s d p).kvPages = s.kvPages := rfl
@[simp] theorem setPool_chunks : (setPool s d p).chunks = s.chunks := rfl
@[simp] theorem setPool_trees : (setPool s d p).trees = s.trees := rfl
@[simp] theorem setPool_commits : (setPool s d p).commits = s.commits := rfl
@[simp] theorem setPool_stats : (setPool s d p).stats = s.stats := rfl
@[simp] theorem setPool_dict : (setPool s d p).dict = s.dict := rfl
@[simp] theorem setPool_sill : (setPool s d p).sill = s.sill := rfl
@[simp] theorem setPool_sillWritten : (setPool s d p).sillWritten = s.sillWritten := rfl
@[simp] theorem setPool_cmds : (setPool s d p).cmds = s.cmds := rfl
@[simp] theorem setPool_posts : (setPool s d p).posts = s.posts := rfl
@[simp] theorem setPool_rings : (setPool s d p).rings = s.rings := rfl
@[simp] theorem setPool_hub : (setPool s d p).hub = s.hub := rfl
@[simp] theorem setPool_svc : (setPool s d p).svc = s.svc := rfl
@[simp] theorem setPool_fnet : (setPool s d p).fnet = s.fnet := rfl
@[simp] theorem setPool_dies : (setPool s d p).dies = s.dies := rfl
@[simp] theorem setPool_clusters : (setPool s d p).clusters = s.clusters := rfl
@[simp] theorem setPool_links : (setPool s d p).links = s.links := rfl
@[simp] theorem setPool_pow : (setPool s d p).pow = s.pow := rfl
@[simp] theorem setPool_pmb : (setPool s d p).pmb = s.pmb := rfl
@[simp] theorem setPool_accord : (setPool s d p).accord = s.accord := rfl
@[simp] theorem setPool_coc : (setPool s d p).coc = s.coc := rfl
@[simp] theorem setPool_imagos : (setPool s d p).imagos = s.imagos := rfl
@[simp] theorem setPool_flash : (setPool s d p).flash = s.flash := rfl
@[simp] theorem setPool_pins : (setPool s d p).pins = s.pins := rfl
@[simp] theorem setPool_sched : (setPool s d p).sched = s.sched := rfl
@[simp] theorem setPool_refOk : (setPool s d p).refOk = s.refOk := rfl
@[simp] theorem setPool_por : (setPool s d p).por = s.por := rfl

end

/-! ### setTree -/

section
variable (s : State) (d : Nat) (t : List TreeNode)

@[simp] theorem setTree_pending : (setTree s d t).pending = s.pending := rfl
@[simp] theorem setTree_nowNs : (setTree s d t).nowNs = s.nowNs := rfl
@[simp] theorem setTree_free : (setTree s d t).free = s.free := rfl
@[simp] theorem setTree_seq : (setTree s d t).seq = s.seq := rfl
@[simp] theorem setTree_dram : (setTree s d t).dram = s.dram := rfl
@[simp] theorem setTree_dramUE : (setTree s d t).dramUE = s.dramUE := rfl
@[simp] theorem setTree_hostMem : (setTree s d t).hostMem = s.hostMem := rfl
@[simp] theorem setTree_nand : (setTree s d t).nand = s.nand := rfl
@[simp] theorem setTree_scratch : (setTree s d t).scratch = s.scratch := rfl
@[simp] theorem setTree_scratchUE : (setTree s d t).scratchUE = s.scratchUE := rfl
@[simp] theorem setTree_cores : (setTree s d t).cores = s.cores := rfl
@[simp] theorem setTree_jobs : (setTree s d t).jobs = s.jobs := rfl
@[simp] theorem setTree_aspaces : (setTree s d t).aspaces = s.aspaces := rfl
@[simp] theorem setTree_groups : (setTree s d t).groups = s.groups := rfl
@[simp] theorem setTree_kvPages : (setTree s d t).kvPages = s.kvPages := rfl
@[simp] theorem setTree_chunks : (setTree s d t).chunks = s.chunks := rfl
@[simp] theorem setTree_pools : (setTree s d t).pools = s.pools := rfl
@[simp] theorem setTree_commits : (setTree s d t).commits = s.commits := rfl
@[simp] theorem setTree_stats : (setTree s d t).stats = s.stats := rfl
@[simp] theorem setTree_dict : (setTree s d t).dict = s.dict := rfl
@[simp] theorem setTree_sill : (setTree s d t).sill = s.sill := rfl
@[simp] theorem setTree_sillWritten : (setTree s d t).sillWritten = s.sillWritten := rfl
@[simp] theorem setTree_cmds : (setTree s d t).cmds = s.cmds := rfl
@[simp] theorem setTree_posts : (setTree s d t).posts = s.posts := rfl
@[simp] theorem setTree_rings : (setTree s d t).rings = s.rings := rfl
@[simp] theorem setTree_hub : (setTree s d t).hub = s.hub := rfl
@[simp] theorem setTree_svc : (setTree s d t).svc = s.svc := rfl
@[simp] theorem setTree_fnet : (setTree s d t).fnet = s.fnet := rfl
@[simp] theorem setTree_dies : (setTree s d t).dies = s.dies := rfl
@[simp] theorem setTree_clusters : (setTree s d t).clusters = s.clusters := rfl
@[simp] theorem setTree_links : (setTree s d t).links = s.links := rfl
@[simp] theorem setTree_pow : (setTree s d t).pow = s.pow := rfl
@[simp] theorem setTree_pmb : (setTree s d t).pmb = s.pmb := rfl
@[simp] theorem setTree_accord : (setTree s d t).accord = s.accord := rfl
@[simp] theorem setTree_coc : (setTree s d t).coc = s.coc := rfl
@[simp] theorem setTree_imagos : (setTree s d t).imagos = s.imagos := rfl
@[simp] theorem setTree_flash : (setTree s d t).flash = s.flash := rfl
@[simp] theorem setTree_pins : (setTree s d t).pins = s.pins := rfl
@[simp] theorem setTree_sched : (setTree s d t).sched = s.sched := rfl
@[simp] theorem setTree_refOk : (setTree s d t).refOk = s.refOk := rfl
@[simp] theorem setTree_por : (setTree s d t).por = s.por := rfl

end

/-! ### setLink -/

section
variable (s : State) (l : Nat) (x : Link)

@[simp] theorem setLink_pending : (setLink s l x).pending = s.pending := rfl
@[simp] theorem setLink_nowNs : (setLink s l x).nowNs = s.nowNs := rfl
@[simp] theorem setLink_free : (setLink s l x).free = s.free := rfl
@[simp] theorem setLink_seq : (setLink s l x).seq = s.seq := rfl
@[simp] theorem setLink_dram : (setLink s l x).dram = s.dram := rfl
@[simp] theorem setLink_dramUE : (setLink s l x).dramUE = s.dramUE := rfl
@[simp] theorem setLink_hostMem : (setLink s l x).hostMem = s.hostMem := rfl
@[simp] theorem setLink_nand : (setLink s l x).nand = s.nand := rfl
@[simp] theorem setLink_scratch : (setLink s l x).scratch = s.scratch := rfl
@[simp] theorem setLink_scratchUE : (setLink s l x).scratchUE = s.scratchUE := rfl
@[simp] theorem setLink_cores : (setLink s l x).cores = s.cores := rfl
@[simp] theorem setLink_jobs : (setLink s l x).jobs = s.jobs := rfl
@[simp] theorem setLink_aspaces : (setLink s l x).aspaces = s.aspaces := rfl
@[simp] theorem setLink_groups : (setLink s l x).groups = s.groups := rfl
@[simp] theorem setLink_kvPages : (setLink s l x).kvPages = s.kvPages := rfl
@[simp] theorem setLink_chunks : (setLink s l x).chunks = s.chunks := rfl
@[simp] theorem setLink_trees : (setLink s l x).trees = s.trees := rfl
@[simp] theorem setLink_pools : (setLink s l x).pools = s.pools := rfl
@[simp] theorem setLink_commits : (setLink s l x).commits = s.commits := rfl
@[simp] theorem setLink_stats : (setLink s l x).stats = s.stats := rfl
@[simp] theorem setLink_dict : (setLink s l x).dict = s.dict := rfl
@[simp] theorem setLink_sill : (setLink s l x).sill = s.sill := rfl
@[simp] theorem setLink_sillWritten : (setLink s l x).sillWritten = s.sillWritten := rfl
@[simp] theorem setLink_cmds : (setLink s l x).cmds = s.cmds := rfl
@[simp] theorem setLink_posts : (setLink s l x).posts = s.posts := rfl
@[simp] theorem setLink_rings : (setLink s l x).rings = s.rings := rfl
@[simp] theorem setLink_hub : (setLink s l x).hub = s.hub := rfl
@[simp] theorem setLink_svc : (setLink s l x).svc = s.svc := rfl
@[simp] theorem setLink_fnet : (setLink s l x).fnet = s.fnet := rfl
@[simp] theorem setLink_dies : (setLink s l x).dies = s.dies := rfl
@[simp] theorem setLink_clusters : (setLink s l x).clusters = s.clusters := rfl
@[simp] theorem setLink_pow : (setLink s l x).pow = s.pow := rfl
@[simp] theorem setLink_pmb : (setLink s l x).pmb = s.pmb := rfl
@[simp] theorem setLink_accord : (setLink s l x).accord = s.accord := rfl
@[simp] theorem setLink_coc : (setLink s l x).coc = s.coc := rfl
@[simp] theorem setLink_imagos : (setLink s l x).imagos = s.imagos := rfl
@[simp] theorem setLink_flash : (setLink s l x).flash = s.flash := rfl
@[simp] theorem setLink_pins : (setLink s l x).pins = s.pins := rfl
@[simp] theorem setLink_sched : (setLink s l x).sched = s.sched := rfl
@[simp] theorem setLink_refOk : (setLink s l x).refOk = s.refOk := rfl
@[simp] theorem setLink_por : (setLink s l x).por = s.por := rfl

end

/-! ### setSetting -/

section
variable (s : State) (i j v : Nat)

@[simp] theorem setSetting_pending : (setSetting s i j v).pending = s.pending := rfl
@[simp] theorem setSetting_nowNs : (setSetting s i j v).nowNs = s.nowNs := rfl
@[simp] theorem setSetting_free : (setSetting s i j v).free = s.free := rfl
@[simp] theorem setSetting_seq : (setSetting s i j v).seq = s.seq := rfl
@[simp] theorem setSetting_dram : (setSetting s i j v).dram = s.dram := rfl
@[simp] theorem setSetting_dramUE : (setSetting s i j v).dramUE = s.dramUE := rfl
@[simp] theorem setSetting_hostMem : (setSetting s i j v).hostMem = s.hostMem := rfl
@[simp] theorem setSetting_nand : (setSetting s i j v).nand = s.nand := rfl
@[simp] theorem setSetting_scratch : (setSetting s i j v).scratch = s.scratch := rfl
@[simp] theorem setSetting_scratchUE : (setSetting s i j v).scratchUE = s.scratchUE := rfl
@[simp] theorem setSetting_cores : (setSetting s i j v).cores = s.cores := rfl
@[simp] theorem setSetting_jobs : (setSetting s i j v).jobs = s.jobs := rfl
@[simp] theorem setSetting_aspaces : (setSetting s i j v).aspaces = s.aspaces := rfl
@[simp] theorem setSetting_groups : (setSetting s i j v).groups = s.groups := rfl
@[simp] theorem setSetting_kvPages : (setSetting s i j v).kvPages = s.kvPages := rfl
@[simp] theorem setSetting_chunks : (setSetting s i j v).chunks = s.chunks := rfl
@[simp] theorem setSetting_trees : (setSetting s i j v).trees = s.trees := rfl
@[simp] theorem setSetting_pools : (setSetting s i j v).pools = s.pools := rfl
@[simp] theorem setSetting_commits : (setSetting s i j v).commits = s.commits := rfl
@[simp] theorem setSetting_stats : (setSetting s i j v).stats = s.stats := rfl
@[simp] theorem setSetting_sill : (setSetting s i j v).sill = s.sill := rfl
@[simp] theorem setSetting_sillWritten : (setSetting s i j v).sillWritten = s.sillWritten := rfl
@[simp] theorem setSetting_cmds : (setSetting s i j v).cmds = s.cmds := rfl
@[simp] theorem setSetting_posts : (setSetting s i j v).posts = s.posts := rfl
@[simp] theorem setSetting_rings : (setSetting s i j v).rings = s.rings := rfl
@[simp] theorem setSetting_hub : (setSetting s i j v).hub = s.hub := rfl
@[simp] theorem setSetting_svc : (setSetting s i j v).svc = s.svc := rfl
@[simp] theorem setSetting_fnet : (setSetting s i j v).fnet = s.fnet := rfl
@[simp] theorem setSetting_dies : (setSetting s i j v).dies = s.dies := rfl
@[simp] theorem setSetting_clusters : (setSetting s i j v).clusters = s.clusters := rfl
@[simp] theorem setSetting_links : (setSetting s i j v).links = s.links := rfl
@[simp] theorem setSetting_pow : (setSetting s i j v).pow = s.pow := rfl
@[simp] theorem setSetting_pmb : (setSetting s i j v).pmb = s.pmb := rfl
@[simp] theorem setSetting_accord : (setSetting s i j v).accord = s.accord := rfl
@[simp] theorem setSetting_coc : (setSetting s i j v).coc = s.coc := rfl
@[simp] theorem setSetting_imagos : (setSetting s i j v).imagos = s.imagos := rfl
@[simp] theorem setSetting_flash : (setSetting s i j v).flash = s.flash := rfl
@[simp] theorem setSetting_pins : (setSetting s i j v).pins = s.pins := rfl
@[simp] theorem setSetting_sched : (setSetting s i j v).sched = s.sched := rfl
@[simp] theorem setSetting_refOk : (setSetting s i j v).refOk = s.refOk := rfl
@[simp] theorem setSetting_por : (setSetting s i j v).por = s.por := rfl

end

/-! ### bump -/

section
variable (s : State) (i j n : Nat)

@[simp] theorem bump_pending : (bump s i j n).pending = s.pending := rfl
@[simp] theorem bump_nowNs : (bump s i j n).nowNs = s.nowNs := rfl
@[simp] theorem bump_free : (bump s i j n).free = s.free := rfl
@[simp] theorem bump_seq : (bump s i j n).seq = s.seq := rfl
@[simp] theorem bump_dram : (bump s i j n).dram = s.dram := rfl
@[simp] theorem bump_dramUE : (bump s i j n).dramUE = s.dramUE := rfl
@[simp] theorem bump_hostMem : (bump s i j n).hostMem = s.hostMem := rfl
@[simp] theorem bump_nand : (bump s i j n).nand = s.nand := rfl
@[simp] theorem bump_scratch : (bump s i j n).scratch = s.scratch := rfl
@[simp] theorem bump_scratchUE : (bump s i j n).scratchUE = s.scratchUE := rfl
@[simp] theorem bump_cores : (bump s i j n).cores = s.cores := rfl
@[simp] theorem bump_jobs : (bump s i j n).jobs = s.jobs := rfl
@[simp] theorem bump_aspaces : (bump s i j n).aspaces = s.aspaces := rfl
@[simp] theorem bump_groups : (bump s i j n).groups = s.groups := rfl
@[simp] theorem bump_kvPages : (bump s i j n).kvPages = s.kvPages := rfl
@[simp] theorem bump_chunks : (bump s i j n).chunks = s.chunks := rfl
@[simp] theorem bump_trees : (bump s i j n).trees = s.trees := rfl
@[simp] theorem bump_pools : (bump s i j n).pools = s.pools := rfl
@[simp] theorem bump_commits : (bump s i j n).commits = s.commits := rfl
@[simp] theorem bump_dict : (bump s i j n).dict = s.dict := rfl
@[simp] theorem bump_sill : (bump s i j n).sill = s.sill := rfl
@[simp] theorem bump_sillWritten : (bump s i j n).sillWritten = s.sillWritten := rfl
@[simp] theorem bump_cmds : (bump s i j n).cmds = s.cmds := rfl
@[simp] theorem bump_posts : (bump s i j n).posts = s.posts := rfl
@[simp] theorem bump_rings : (bump s i j n).rings = s.rings := rfl
@[simp] theorem bump_hub : (bump s i j n).hub = s.hub := rfl
@[simp] theorem bump_svc : (bump s i j n).svc = s.svc := rfl
@[simp] theorem bump_fnet : (bump s i j n).fnet = s.fnet := rfl
@[simp] theorem bump_dies : (bump s i j n).dies = s.dies := rfl
@[simp] theorem bump_clusters : (bump s i j n).clusters = s.clusters := rfl
@[simp] theorem bump_links : (bump s i j n).links = s.links := rfl
@[simp] theorem bump_pow : (bump s i j n).pow = s.pow := rfl
@[simp] theorem bump_pmb : (bump s i j n).pmb = s.pmb := rfl
@[simp] theorem bump_accord : (bump s i j n).accord = s.accord := rfl
@[simp] theorem bump_coc : (bump s i j n).coc = s.coc := rfl
@[simp] theorem bump_imagos : (bump s i j n).imagos = s.imagos := rfl
@[simp] theorem bump_flash : (bump s i j n).flash = s.flash := rfl
@[simp] theorem bump_pins : (bump s i j n).pins = s.pins := rfl
@[simp] theorem bump_sched : (bump s i j n).sched = s.sched := rfl
@[simp] theorem bump_refOk : (bump s i j n).refOk = s.refOk := rfl
@[simp] theorem bump_por : (bump s i j n).por = s.por := rfl

end

/-! ### sillage -/

section
variable (s : State) (e o j d : Nat)

@[simp] theorem sillage_pending : (sillage s e o j d).pending = s.pending := rfl
@[simp] theorem sillage_nowNs : (sillage s e o j d).nowNs = s.nowNs := rfl
@[simp] theorem sillage_free : (sillage s e o j d).free = s.free := rfl
@[simp] theorem sillage_seq : (sillage s e o j d).seq = s.seq := rfl
@[simp] theorem sillage_dram : (sillage s e o j d).dram = s.dram := rfl
@[simp] theorem sillage_dramUE : (sillage s e o j d).dramUE = s.dramUE := rfl
@[simp] theorem sillage_hostMem : (sillage s e o j d).hostMem = s.hostMem := rfl
@[simp] theorem sillage_nand : (sillage s e o j d).nand = s.nand := rfl
@[simp] theorem sillage_scratch : (sillage s e o j d).scratch = s.scratch := rfl
@[simp] theorem sillage_scratchUE : (sillage s e o j d).scratchUE = s.scratchUE := rfl
@[simp] theorem sillage_cores : (sillage s e o j d).cores = s.cores := rfl
@[simp] theorem sillage_jobs : (sillage s e o j d).jobs = s.jobs := rfl
@[simp] theorem sillage_aspaces : (sillage s e o j d).aspaces = s.aspaces := rfl
@[simp] theorem sillage_groups : (sillage s e o j d).groups = s.groups := rfl
@[simp] theorem sillage_kvPages : (sillage s e o j d).kvPages = s.kvPages := rfl
@[simp] theorem sillage_chunks : (sillage s e o j d).chunks = s.chunks := rfl
@[simp] theorem sillage_trees : (sillage s e o j d).trees = s.trees := rfl
@[simp] theorem sillage_pools : (sillage s e o j d).pools = s.pools := rfl
@[simp] theorem sillage_commits : (sillage s e o j d).commits = s.commits := rfl
@[simp] theorem sillage_stats : (sillage s e o j d).stats = s.stats := rfl
@[simp] theorem sillage_dict : (sillage s e o j d).dict = s.dict := rfl
@[simp] theorem sillage_cmds : (sillage s e o j d).cmds = s.cmds := rfl
@[simp] theorem sillage_posts : (sillage s e o j d).posts = s.posts := rfl
@[simp] theorem sillage_rings : (sillage s e o j d).rings = s.rings := rfl
@[simp] theorem sillage_hub : (sillage s e o j d).hub = s.hub := rfl
@[simp] theorem sillage_svc : (sillage s e o j d).svc = s.svc := rfl
@[simp] theorem sillage_fnet : (sillage s e o j d).fnet = s.fnet := rfl
@[simp] theorem sillage_dies : (sillage s e o j d).dies = s.dies := rfl
@[simp] theorem sillage_clusters : (sillage s e o j d).clusters = s.clusters := rfl
@[simp] theorem sillage_links : (sillage s e o j d).links = s.links := rfl
@[simp] theorem sillage_pow : (sillage s e o j d).pow = s.pow := rfl
@[simp] theorem sillage_pmb : (sillage s e o j d).pmb = s.pmb := rfl
@[simp] theorem sillage_accord : (sillage s e o j d).accord = s.accord := rfl
@[simp] theorem sillage_coc : (sillage s e o j d).coc = s.coc := rfl
@[simp] theorem sillage_imagos : (sillage s e o j d).imagos = s.imagos := rfl
@[simp] theorem sillage_flash : (sillage s e o j d).flash = s.flash := rfl
@[simp] theorem sillage_pins : (sillage s e o j d).pins = s.pins := rfl
@[simp] theorem sillage_sched : (sillage s e o j d).sched = s.sched := rfl
@[simp] theorem sillage_refOk : (sillage s e o j d).refOk = s.refOk := rfl
@[simp] theorem sillage_por : (sillage s e o j d).por = s.por := rfl

end

end Sys2Proof.Machine
end

