-- ==== Sys2Proof/Laws/Fabric.lean ====
section
/-! SUPPORT. What sending flits can do: it changes the links and nothing else. -/

namespace Sys2Proof.Machine

theorem sendHops_links (c : TrafficClass) (n : Nat) (hs : List Hop) (s : State) :
    ∃ l, hs.foldl (sendHop c n) s = { s with links := l } := by
  induction hs generalizing s with
  | nil => exact ⟨s.links, rfl⟩
  | cons h t ih => obtain ⟨l, e⟩ := ih (sendHop c n s h); exact ⟨l, by rw [List.foldl_cons, e]; rfl⟩

/-- A flit sent changes the links alone. -/
theorem send_links (s : State) (c : TrafficClass) (a b page n : Nat) : ∃ l, send s c a b page n = { s with links := l } := by
  unfold send
  split
  · exact sendHops_links c n _ s
  · exact ⟨s.links, rfl⟩

/-- Telling every die changes the links alone. -/
theorem sendCtrlAll_links (s : State) : ∃ l, sendCtrlAll s = { s with links := l } := by
  simp only [sendCtrlAll, List.foldl_cons, List.foldl_nil]
  obtain ⟨l, e⟩ := send_links s .ctrl 4 0 0 1; rw [e]
  obtain ⟨l, e⟩ := send_links { s with links := l } .ctrl 4 1 0 1; rw [e]
  obtain ⟨l, e⟩ := send_links { s with links := l } .ctrl 4 2 0 1; rw [e]
  obtain ⟨l, e⟩ := send_links { s with links := l } .ctrl 4 3 0 1; rw [e]
  exact ⟨l, rfl⟩

end Sys2Proof.Machine
end

