-- ==== Sys2Proof/Laws/Tables.lean ====
section
/-! SUPPORT. Reading a table after a change, and reading a unit of the state after an update of it. -/

namespace Sys2Proof.Machine

theorem tget_tset {α : Type} (t : Tab α) (n m : Nat) (x : α) : tget (tset t n x) m = if m = n then some x else tget t m := by
  induction t with
  | nil => simp only [tset, tget, eq_comm]
  | cons p t ih =>
    obtain ⟨k, v⟩ := p
    simp only [tset]
    split
    · simp only [tget]; grind
    · split
      · simp only [tget]; grind
      · simp only [tget, ih]; grind

@[simp] theorem tget_tset_self {α : Type} (t : Tab α) (n : Nat) (x : α) : tget (tset t n x) n = some x := by simp [tget_tset]

theorem tget_tset_ne {α : Type} (t : Tab α) {n m : Nat} (x : α) (h : m ≠ n) : tget (tset t n x) m = tget t m := by
  simp [tget_tset, h]

theorem tgetD_tset {α : Type} (t : Tab α) (n m : Nat) (x d : α) : tgetD (tset t n x) m d = if m = n then x else tgetD t m d := by
  simp only [tgetD, tget_tset]; split <;> rfl

theorem tget_tdel_ne {α : Type} (t : Tab α) {n m : Nat} (h : m ≠ n) : tget (tdel t n) m = tget t m := by
  induction t with
  | nil => rfl
  | cons p t ih =>
    obtain ⟨k, v⟩ := p
    simp only [tdel]
    split
    · simp only [tget]; grind
    · simp only [tget, ih]

theorem tget_tmap {α : Type} (f : Nat → α → α) (t : Tab α) (n : Nat) : tget (tmap f t) n = (tget t n).map (f n) := by
  induction t with
  | nil => rfl
  | cons p t ih =>
    obtain ⟨k, v⟩ := p
    simp only [tmap, List.map_cons, tget] at ih ⊢
    split
    · next h => subst h; rfl
    · exact ih

theorem getCore_setCore (s : State) (c d : Nat) (k : Core) : getCore (setCore s c k) d = if d = c then k else getCore s d :=
  tgetD_tset ..

theorem getDie_setDie (s : State) (c d : Nat) (x : DieHw) : getDie (setDie s c x) d = if d = c then x else getDie s d :=
  tgetD_tset ..

theorem getCluster_setCluster (s : State) (c d : Nat) (x : Cluster) :
    getCluster (setCluster s c x) d = if d = c then x else getCluster s d := tgetD_tset ..

theorem getRing_setRing (s : State) (c d : Nat) (x : Ring) : getRing (setRing s c x) d = if d = c then x else getRing s d := by
  simp only [getRing, setRing, tgetD_tset]

theorem getLink_setLink (s : State) (c d : Nat) (x : Link) : getLink (setLink s c x) d = if d = c then x else getLink s d :=
  tgetD_tset ..

theorem setting_setSetting (s : State) (i j v : Nat) : setting (setSetting s i j v) i j = v := by
  simp [setting, setSetting, tgetD]

theorem getTask_setTask (s : State) (c : Nat) (lc : Bool) (t : Option Task) : getTask (setTask s c lc t) c lc = t := by
  simp only [getTask, setTask, updCore, getCore_setCore]; cases lc <;> simp

theorem updTask_some {s : State} {c : Nat} {lc : Bool} {t : Task} (h : getTask s c lc = some t) (f : Task → Task) :
    updTask s c lc f = setTask s c lc (some (f t)) := by simp [updTask, h]

theorem updJob_some {s : State} {n : Nat} {j : Job} (h : tget s.jobs n = some j) (f : Job → Job) :
    updJob s n f = { s with jobs := tset s.jobs n (f j) } := by simp [updJob, h]

end Sys2Proof.Machine
end

