-- ==== Sys2Proof/Laws/Memory.lean ====
section
/-! SUPPORT. The canonical form of memory: every operation keeps it; a read after a write. -/

namespace Sys2Proof.Machine

/-- The addresses of the cells lie above a bound and rise strictly. -/
def risingFrom : Nat → List Host.Cell → Prop
  | _, [] => True
  | n, a :: t => n ≤ a.1 ∧ risingFrom (a.1 + 1) t

theorem risingFrom_mono {m n : Nat} {l : List Host.Cell} (h : risingFrom n l) (hm : m ≤ n) : risingFrom m l := by
  cases l with
  | nil => trivial
  | cons a t => exact ⟨hm.trans h.1, h.2⟩

theorem cellsSorted_iff (l : List Host.Cell) : cellsSorted l = true ↔ risingFrom 0 l := by
  suffices ∀ a, cellsSorted (a :: l) = true ↔ risingFrom (a.1 + 1) l by
    cases l with
    | nil => exact iff_of_true rfl trivial
    | cons a t =>
      have key : ∀ (t : List Host.Cell) a, cellsSorted (a :: t) = true ↔ risingFrom (a.1 + 1) t := by
        intro t
        induction t with
        | nil => exact fun a => iff_of_true rfl trivial
        | cons b t ih => intro a; simp only [cellsSorted, Bool.and_eq_true, decide_eq_true_eq, ih, risingFrom]; rfl
      rw [key]; exact ⟨fun h => ⟨Nat.zero_le _, h⟩, fun h => h.2⟩
  induction l with
  | nil => exact fun a => iff_of_true rfl trivial
  | cons b t ih => intro a; simp only [cellsSorted, Bool.and_eq_true, decide_eq_true_eq, ih, risingFrom]; rfl

theorem risingFrom_cellSet {n a : Nat} {b : Byte} {l : List Host.Cell} (h : risingFrom n l) (ha : n ≤ a) :
    risingFrom n (cellSet l a b) := by
  induction l generalizing n with
  | nil => exact ⟨ha, trivial⟩
  | cons c t ih =>
    obtain ⟨k, v⟩ := c
    simp only [cellSet]
    split
    · next hk => exact ⟨ha, hk, h.2⟩
    · split
      · next _ hk => subst hk; exact ⟨ha, h.2⟩
      · next h1 h2 => exact ⟨h.1, ih h.2 (by omega)⟩

theorem risingFrom_cellDel {n a : Nat} {l : List Host.Cell} (h : risingFrom n l) : risingFrom n (cellDel l a) := by
  induction l generalizing n with
  | nil => trivial
  | cons c t ih =>
    obtain ⟨k, v⟩ := c
    simp only [cellDel]
    have h1 : n ≤ k := h.1
    split
    · exact risingFrom_mono h.2 (by simp only; omega)
    · exact ⟨h.1, ih h.2⟩

theorem risingFrom_filter {n : Nat} {p : Host.Cell → Bool} {l : List Host.Cell} (h : risingFrom n l) : risingFrom n (l.filter p) := by
  induction l generalizing n with
  | nil => trivial
  | cons c t ih =>
    rw [List.filter_cons]
    split
    · exact ⟨h.1, ih h.2⟩
    · have h1 : n ≤ c.1 := h.1
      exact ih (risingFrom_mono h.2 (by omega))

theorem mem_cellSet {a : Nat} {b : Byte} {l : List Host.Cell} {c : Host.Cell} (h : c ∈ cellSet l a b) : c = (a, b) ∨ c ∈ l := by
  induction l with
  | nil => simpa [cellSet] using h
  | cons d t ih =>
    obtain ⟨k, v⟩ := d
    simp only [cellSet] at h
    split at h
    · simpa using h
    · split at h
      · simp only [List.mem_cons] at h ⊢; tauto
      · simp only [List.mem_cons] at h ⊢; tauto

theorem mem_cellDel {a : Nat} {l : List Host.Cell} {c : Host.Cell} (h : c ∈ cellDel l a) : c ∈ l := by
  induction l with
  | nil => exact h
  | cons d t ih =>
    obtain ⟨k, v⟩ := d
    simp only [cellDel] at h
    split at h
    · exact List.mem_cons_of_mem _ h
    · simp only [List.mem_cons] at h ⊢; tauto

theorem memWf_iff (m : Mem) : memWf m = true ↔
    risingFrom 0 m.cells ∧ ∀ c ∈ m.cells, c.2 ≠ 0 ∨ (undefAt m c.1).isSome = true := by
  simp only [memWf, Bool.and_eq_true, cellsSorted_iff, List.all_eq_true, Bool.or_eq_true, Bool.not_eq_true', beq_eq_false_iff_ne]

theorem memWrite_wf {m : Mem} (h : memWf m = true) (a : Nat) (b : Byte) : memWf (memWrite m a b) = true := by
  rw [memWf_iff] at h ⊢
  unfold memWrite
  split
  · exact ⟨risingFrom_cellDel h.1, fun c hc => h.2 c (mem_cellDel hc)⟩
  · next hn =>
    refine ⟨risingFrom_cellSet h.1 (Nat.zero_le _), fun c hc => ?_⟩
    rcases mem_cellSet hc with rfl | hc
    · by_cases hb : b = 0
      · right
        have : ¬ (undefAt m a).isNone = true := fun hu => hn ⟨hb, hu⟩
        show (undefAt m a).isSome = true
        exact Option.isSome_iff_ne_none.2 (by simpa using this)
      · exact .inl hb
    · exact h.2 c hc

theorem memWrites_wf {m : Mem} (h : memWf m = true) (a : Nat) (bs : List Byte) : memWf (memWrites m a bs) = true := by
  induction bs generalizing m a with
  | nil => exact h
  | cons b bs ih => exact ih (memWrite_wf h a b) (a + 1)

theorem memUndef_wf {m : Mem} (h : memWf m = true) (base len token : Nat) : memWf (memUndef m base len token) = true := by
  rw [memWf_iff] at h ⊢
  refine ⟨risingFrom_filter h.1, fun c hc => ?_⟩
  rw [memUndef, List.mem_filter] at hc
  rcases h.2 c hc.1 with h0 | h0
  · exact .inl h0
  · right
    have hout : inRange c.1 { base := base, len := len, token := token } = false := by simpa using hc.2
    simp only [undefAt, memUndef, List.find?_isSome] at h0 ⊢
    obtain ⟨u, hu, hi⟩ := h0
    refine ⟨u, List.mem_cons_of_mem _ (List.mem_filter.2 ⟨hu, ?_⟩), hi⟩
    simp only [inRange, Bool.and_eq_true, decide_eq_true_eq, Bool.and_eq_false_iff, decide_eq_false_iff_not] at hi hout
    simp only [Bool.not_eq_true', Bool.and_eq_false_iff, decide_eq_false_iff_not]
    omega

@[simp] theorem memWf_empty : memWf {} = true := rfl

theorem cellGet_cellSet (l : List Host.Cell) (a i : Nat) (b : Byte) :
    cellGet (cellSet l a b) i = if i = a then some b else cellGet l i := by
  induction l with
  | nil => simp only [cellSet, cellGet, eq_comm]
  | cons p t ih =>
    obtain ⟨k, v⟩ := p
    simp only [cellSet]
    split
    · simp only [cellGet]; grind
    · split
      · simp only [cellGet]; grind
      · simp only [cellGet, ih]; grind

theorem cellGet_below {n i : Nat} {l : List Host.Cell} (h : risingFrom n l) (hi : i < n) : cellGet l i = none := by
  induction l generalizing n with
  | nil => rfl
  | cons c t ih =>
    have h1 : n ≤ c.1 := h.1
    simp only [cellGet]
    rw [if_neg (by omega)]
    exact ih h.2 (by omega)

theorem cellGet_cellDel {n : Nat} {l : List Host.Cell} (h : risingFrom n l) (a i : Nat) :
    cellGet (cellDel l a) i = if i = a then none else cellGet l i := by
  induction l generalizing n with
  | nil => simp [cellDel, cellGet]
  | cons c t ih =>
    obtain ⟨k, v⟩ := c
    have h2 := h.2
    simp only [cellDel]
    split
    · next hk =>
      subst hk
      split
      · next hi => subst hi; exact cellGet_below h2 (Nat.lt_succ_self _)
      · next hi => simp only [cellGet]; rw [if_neg (fun e => hi e.symm)]
    · next hk =>
      simp only [cellGet, ih h2]
      split
      · next hi => split <;> simp_all
      · rfl

/-- A byte reads as it was last written. -/
theorem memRead_memWrite_self {m : Mem} (h : memWf m = true) (a : Nat) (b : Byte) : memRead (memWrite m a b) a = b := by
  rw [memWf_iff] at h
  unfold memWrite
  split
  · next hn =>
    simp only [memRead, cellGet_cellDel h.1, if_true]
    have : undefAt { m with cells := cellDel m.cells a } a = none := by simpa [undefAt] using hn.2
    rw [this]; exact hn.1.symm
  · simp only [memRead, cellGet_cellSet, if_true]

/-- A write leaves every other byte as it was. -/
theorem memRead_memWrite_ne {m : Mem} (h : memWf m = true) {a i : Nat} (b : Byte) (hi : i ≠ a) :
    memRead (memWrite m a b) i = memRead m i := by
  rw [memWf_iff] at h
  unfold memWrite
  split
  · simp only [memRead, cellGet_cellDel h.1, if_neg hi]; rfl
  · simp only [memRead, cellGet_cellSet, if_neg hi]; rfl

/-- Writes leave every byte outside their range as it was. -/
theorem memRead_memWrites_ne {m : Mem} (h : memWf m = true) {a i : Nat} (bs : List Byte) (hi : i < a ∨ a + bs.length ≤ i) :
    memRead (memWrites m a bs) i = memRead m i := by
  induction bs generalizing m a with
  | nil => rfl
  | cons b bs ih =>
    simp only [List.length_cons] at hi
    rw [memWrites, ih (memWrite_wf h a b) (by omega), memRead_memWrite_ne h b (by omega)]

/-- A byte of a write reads back. -/
theorem memRead_memWrites {m : Mem} (h : memWf m = true) {a i : Nat} (bs : List Byte) (hi : i < bs.length) :
    memRead (memWrites m a bs) (a + i) = bs[i] := by
  induction bs generalizing m a i with
  | nil => simp at hi
  | cons b bs ih =>
    rw [memWrites]
    cases i with
    | zero =>
      rw [memRead_memWrites_ne (memWrite_wf h a b) bs (by omega)]
      exact memRead_memWrite_self h a b
    | succ i =>
      rw [show a + (i + 1) = a + 1 + i by omega, ih (memWrite_wf h a b) (by simpa using hi)]
      rfl

theorem reset_memWf : memWf State.reset.dram = true ∧ memWf State.reset.hostMem = true ∧ memWf State.reset.nand = true
    ∧ memWf State.reset.scratch = true := ⟨rfl, rfl, rfl, rfl⟩

end Sys2Proof.Machine
end

