-- ==== Sys2Proof/Laws/Kept.lean ====
section
/-! SUPPORT. What every operation of the model keeps: the queue, the blown fuses, the canonical memories, the bound of the trail, PRIV
of ring 0, and the class of every task. -/

namespace Sys2Proof.Machine

/-- Each task stands in the place of its class. -/
def TasksOk (s : State) : Prop :=
  ∀ c, (∀ t, (getCore s c).be = some t → t.lc = false) ∧ (∀ t, (getCore s c).lc = some t → t.lc = true)

/-- What every operation keeps of a state. -/
structure Kept (s t : State) : Prop where
  pending : t.pending = s.pending
  fuses : ∀ d : Fin 4, s.coc.fuses[d] = true → t.coc.fuses[d] = true
  dram : memWf s.dram = true → memWf t.dram = true
  host : memWf s.hostMem = true → memWf t.hostMem = true
  nand : memWf s.nand = true → memWf t.nand = true
  scratch : memWf s.scratch = true → memWf t.scratch = true
  sill : s.sill.length ≤ 131072 → t.sill.length ≤ 131072
  ring : (getRing s 0).priv = true → (getRing t 0).priv = true
  tasks : TasksOk s → TasksOk t

theorem Kept.refl (s : State) : Kept s s :=
  ⟨rfl, fun _ h => h, fun h => h, fun h => h, fun h => h, fun h => h, fun h => h, fun h => h, fun h => h⟩

theorem Kept.trans {s t u : State} (h : Kept s t) (k : Kept t u) : Kept s u :=
  ⟨k.pending.trans h.pending, fun d p => k.fuses d (h.fuses d p), fun p => k.dram (h.dram p), fun p => k.host (h.host p),
   fun p => k.nand (h.nand p), fun p => k.scratch (h.scratch p), fun p => k.sill (h.sill p), fun p => k.ring (h.ring p),
   fun p => k.tasks (h.tasks p)⟩

/-- An update of other fields. -/
theorem Kept.upd {s0 s t : State} (h : Kept s0 s) (e1 : t.pending = s.pending) (e2 : t.coc.fuses = s.coc.fuses)
    (e3 : t.dram = s.dram) (e4 : t.hostMem = s.hostMem) (e5 : t.nand = s.nand) (e6 : t.scratch = s.scratch)
    (e7 : t.sill = s.sill) (e8 : t.rings = s.rings) (e9 : t.cores = s.cores) : Kept s0 t := by
  refine h.trans ⟨e1, ?_, ?_, ?_, ?_, ?_, ?_, ?_, ?_⟩
  · intro d p; rw [e2]; exact p
  · rw [e3]; exact id
  · rw [e4]; exact id
  · rw [e5]; exact id
  · rw [e6]; exact id
  · rw [e7]; exact id
  · intro p; simpa only [getRing, e8] using p
  · intro p; simpa only [TasksOk, getCore, e9] using p

/-- An update of memories and other fields. -/
theorem Kept.mem {s0 s t : State} (h : Kept s0 s) (e3 : memWf s.dram = true → memWf t.dram = true)
    (e4 : memWf s.hostMem = true → memWf t.hostMem = true) (e5 : memWf s.nand = true → memWf t.nand = true)
    (e6 : memWf s.scratch = true → memWf t.scratch = true) (e1 : t.pending = s.pending) (e2 : t.coc.fuses = s.coc.fuses)
    (e7 : t.sill = s.sill) (e8 : t.rings = s.rings) (e9 : t.cores = s.cores) : Kept s0 t := by
  refine h.trans ⟨e1, ?_, e3, e4, e5, e6, ?_, ?_, ?_⟩
  · intro d p; rw [e2]; exact p
  · rw [e7]; exact id
  · intro p; simpa only [getRing, e8] using p
  · intro p; simpa only [TasksOk, getCore, e9] using p

section Written
variable {s0 s : State} {nowNs free seq sillWritten : Nat} {dramUE scratchUE : List Nat} {jobs : Tab Job} {aspaces : Tab ASpace}
  {groups : Tab Group} {kvPages : Tab KvPage} {chunks : Tab Chunk} {trees : Tab (List TreeNode)} {pools : Tab
  KvPool} {commits : List CommitReq} {stats dict : Tab Nat} {cmds : Tab Cmd} {posts : List Post} {hub : Hub}
  {svc : DictSvc} {fnet : FieldNet} {dies : Tab DieHw} {clusters : Tab Cluster} {links : Tab Link} {pow : Power}
  {pmb : Pmbus} {accord : Accord} {coc : Cocoon} {imagos : Tab Imago} {flash : Flash} {pins : Pins} {sched :
  Sched} {refOk por : Bool}

/-- A state written out over another, its memories, cores, rings and trail as they were. -/
theorem Kept.lit (h : Kept s0 s) (hf : ∀ d : Fin 4, s.coc.fuses[d] = true → coc.fuses[d] = true) :
    Kept s0 (State.mk s.pending nowNs free seq s.dram dramUE s.hostMem s.nand s.scratch scratchUE s.cores jobs aspaces groups
      kvPages chunks trees pools commits stats dict s.sill sillWritten cmds posts s.rings hub svc fnet dies clusters
      links pow pmb accord coc imagos flash pins sched refOk por) :=
  h.trans ⟨rfl, hf, id, id, id, id, id, id, id⟩

/-- The same with another dram. -/
theorem Kept.lit_dram {dram : Mem} (h : Kept s0 s) (hf : ∀ d : Fin 4, s.coc.fuses[d] = true → coc.fuses[d] = true)
    (hm : memWf s.dram = true → memWf dram = true) : Kept s0 (State.mk s.pending nowNs free seq dram dramUE s.hostMem s.nand s.scratch scratchUE s.cores jobs aspaces groups
      kvPages chunks trees pools commits stats dict s.sill sillWritten cmds posts s.rings hub svc fnet dies clusters
      links pow pmb accord coc imagos flash pins sched refOk por) :=
  h.trans ⟨rfl, hf, hm, id, id, id, id, id, id⟩

/-- The same with another hostMem. -/
theorem Kept.lit_hostMem {hostMem : Mem} (h : Kept s0 s) (hf : ∀ d : Fin 4, s.coc.fuses[d] = true → coc.fuses[d] = true)
    (hm : memWf s.hostMem = true → memWf hostMem = true) : Kept s0 (State.mk s.pending nowNs free seq s.dram dramUE hostMem s.nand s.scratch scratchUE s.cores jobs aspaces groups
      kvPages chunks trees pools commits stats dict s.sill sillWritten cmds posts s.rings hub svc fnet dies clusters
      links pow pmb accord coc imagos flash pins sched refOk por) :=
  h.trans ⟨rfl, hf, id, hm, id, id, id, id, id⟩

/-- The same with another nand. -/
theorem Kept.lit_nand {nand : Mem} (h : Kept s0 s) (hf : ∀ d : Fin 4, s.coc.fuses[d] = true → coc.fuses[d] = true)
    (hm : memWf s.nand = true → memWf nand = true) : Kept s0 (State.mk s.pending nowNs free seq s.dram dramUE s.hostMem nand s.scratch scratchUE s.cores jobs aspaces groups
      kvPages chunks trees pools commits stats dict s.sill sillWritten cmds posts s.rings hub svc fnet dies clusters
      links pow pmb accord coc imagos flash pins sched refOk por) :=
  h.trans ⟨rfl, hf, id, id, hm, id, id, id, id⟩

/-- The same with another scratch. -/
theorem Kept.lit_scratch {scratch : Mem} (h : Kept s0 s) (hf : ∀ d : Fin 4, s.coc.fuses[d] = true → coc.fuses[d] = true)
    (hm : memWf s.scratch = true → memWf scratch = true) : Kept s0 (State.mk s.pending nowNs free seq s.dram dramUE s.hostMem s.nand scratch scratchUE s.cores jobs aspaces groups
      kvPages chunks trees pools commits stats dict s.sill sillWritten cmds posts s.rings hub svc fnet dies clusters
      links pow pmb accord coc imagos flash pins sched refOk por) :=
  h.trans ⟨rfl, hf, id, id, id, hm, id, id, id⟩

end Written

/-- What holds of a result, if there is one. -/
def OkAll {α : Type} (P : α → Prop) : Res α → Prop
  | .ok a => P a
  | .error _ => True

/-- What holds of a value, if there is one. -/
def SomeAll {α : Type} (P : α → Prop) : Option α → Prop
  | some a => P a
  | none => True

theorem okAll_ok {α : Type} {P : α → Prop} {x : Res α} {a : α} (h : OkAll P x) (e : x = .ok a) : P a := by subst e; exact h
theorem someAll_some {α : Type} {P : α → Prop} {x : Option α} {a : α} (h : SomeAll P x) (e : x = some a) : P a := by subst e; exact h

theorem okAll_mk {α : Type} {P : α → Prop} {a : α} (h : P a) : OkAll P (.ok a) := h
theorem okAll_pure {α : Type} {P : α → Prop} {a : α} (h : P a) : OkAll P (pure a) := h
theorem someAll_mk {α : Type} {P : α → Prop} {a : α} (h : P a) : SomeAll P (some a) := h
theorem someAll_pure {α : Type} {P : α → Prop} {a : α} (h : P a) : SomeAll P (pure a) := h

theorem OkAll.bind {α β : Type} {P : α → Prop} {Q : β → Prop} {x : Res α} {f : α → Res β} (h : OkAll P x)
    (hf : ∀ a, P a → OkAll Q (f a)) : OkAll Q (x >>= f) := by
  cases x with
  | error e => trivial
  | ok a => exact hf a h

theorem OkAll.bindKept {s0 : State} {β : Type} {Q : β → Prop} {x : Res State} {f : State → Res β} (h : OkAll (Kept s0) x)
    (hf : ∀ a, Kept s0 a → OkAll Q (f a)) : OkAll Q (x >>= f) := h.bind hf

theorem OkAll.bindFst {s0 : State} {α β : Type} {Q : β → Prop} {x : Res (State × α)} {f : State × α → Res β}
    (h : OkAll (fun p => Kept s0 p.1) x) (hf : ∀ a, Kept s0 a.1 → OkAll Q (f a)) : OkAll Q (x >>= f) := h.bind hf

theorem OkAll.bindSnd {s0 : State} {α β : Type} {Q : β → Prop} {x : Res (α × State)} {f : α × State → Res β}
    (h : OkAll (fun p => Kept s0 p.2) x) (hf : ∀ a, Kept s0 a.2 → OkAll Q (f a)) : OkAll Q (x >>= f) := h.bind hf

theorem OkAll.bind' {α β : Type} {Q : β → Prop} {x : Res α} {f : α → Res β} (hf : ∀ a, OkAll Q (f a)) : OkAll Q (x >>= f) := by
  cases x with
  | error e => trivial
  | ok a => exact hf a

theorem SomeAll.bind {α β : Type} {P : α → Prop} {Q : β → Prop} {x : Option α} {f : α → Option β} (h : SomeAll P x)
    (hf : ∀ a, P a → SomeAll Q (f a)) : SomeAll Q (x >>= f) := by
  cases x with
  | none => trivial
  | some a => exact hf a h

theorem SomeAll.bind' {α β : Type} {Q : β → Prop} {x : Option α} {f : α → Option β} (hf : ∀ a, SomeAll Q (f a)) :
    SomeAll Q (x >>= f) := by
  cases x with
  | none => trivial
  | some a => exact hf a

theorem pair_fst {α β : Type} {P : α → Prop} {p : α × β} {a : α} {b : β} (h : P p.1) (e : p = (a, b)) : P a := by subst e; exact h
theorem pair_snd {α β : Type} {P : β → Prop} {p : α × β} {a : α} {b : β} (h : P p.2) (e : p = (a, b)) : P b := by subst e; exact h

theorem okAll_kept {s0 t : State} {x : Res State} (h : OkAll (Kept s0) x) (e : x = .ok t) : Kept s0 t := by subst e; exact h
theorem okAll_fst {α : Type} {s0 t : State} {a : α} {x : Res (State × α)} (h : OkAll (fun p => Kept s0 p.1) x) (e : x = .ok (t, a)) :
    Kept s0 t := by subst e; exact h
theorem okAll_snd {α : Type} {s0 t : State} {a : α} {x : Res (α × State)} (h : OkAll (fun p => Kept s0 p.2) x) (e : x = .ok (a, t)) :
    Kept s0 t := by subst e; exact h
theorem someAll_kept {s0 t : State} {x : Option State} (h : SomeAll (Kept s0) x) (e : x = some t) : Kept s0 t := by subst e; exact h
theorem someAll_fst {α : Type} {s0 t : State} {a : α} {x : Option (State × α)} (h : SomeAll (fun p => Kept s0 p.1) x)
    (e : x = some (t, a)) : Kept s0 t := by subst e; exact h
theorem someAll_snd {α : Type} {s0 t : State} {a : α} {x : Option (α × State)} (h : SomeAll (fun p => Kept s0 p.2) x)
    (e : x = some (a, t)) : Kept s0 t := by subst e; exact h
theorem someAll_snd' {α : Type} {s0 : State} {r : α × State} {x : Option (α × State)} (h : SomeAll (fun p => Kept s0 p.2) x)
    (e : x = some r) : Kept s0 r.2 := by subst e; exact h

theorem SomeAll.map' {α β : Type} {P : β → Prop} {x : Option α} {f : α → β} (hf : ∀ a, P (f a)) : SomeAll P (x.map f) := by
  cases x with
  | none => trivial
  | some a => exact hf a

theorem SomeAll.mapSnd {s0 : State} {α β : Type} {P : β → Prop} {x : Option (α × State)} {f : α × State → β}
    (h : SomeAll (fun p => Kept s0 p.2) x) (hf : ∀ a, Kept s0 a.2 → P (f a)) : SomeAll P (x.map f) := by
  cases x with
  | none => trivial
  | some a => exact hf a h

theorem SomeAll.mapKept {s0 : State} {β : Type} {P : β → Prop} {x : Option State} {f : State → β}
    (h : SomeAll (Kept s0) x) (hf : ∀ a, Kept s0 a → P (f a)) : SomeAll P (x.map f) := by
  cases x with
  | none => trivial
  | some a => exact hf a h

theorem foldl_kept {α : Type} {s0 s : State} {f : State → α → State} (l : List α) (h : Kept s0 s)
    (hf : ∀ s a, Kept s0 s → Kept s0 (f s a)) : Kept s0 (l.foldl f s) := by
  induction l generalizing s with
  | nil => exact h
  | cons a l ih => exact ih (hf s a h)

theorem foldlM_kept {α : Type} {s0 s : State} {f : State → α → Res State} (l : List α) (h : Kept s0 s)
    (hf : ∀ s a, Kept s0 s → OkAll (Kept s0) (f s a)) : OkAll (Kept s0) (l.foldlM f s) := by
  induction l generalizing s with
  | nil => exact h
  | cons a l ih => rw [List.foldlM_cons]; exact OkAll.bind (hf s a h) fun t ht => ih ht

theorem foldlMO_keptSnd {α β : Type} {s0 : State} {f : β × State → α → Option (β × State)} (l : List α) {b : β × State}
    (h : Kept s0 b.2) (hf : ∀ b a, Kept s0 b.2 → SomeAll (fun p => Kept s0 p.2) (f b a)) :
    SomeAll (fun p => Kept s0 p.2) (l.foldlM f b) := by
  induction l generalizing b with
  | nil => exact h
  | cons a l ih => rw [List.foldlM_cons]; exact SomeAll.bind (hf b a h) fun t ht => ih ht

theorem SomeAll.bindSnd {s0 : State} {α β : Type} {Q : β → Prop} {x : Option (α × State)} {f : α × State → Option β}
    (h : SomeAll (fun p => Kept s0 p.2) x) (hf : ∀ a, Kept s0 a.2 → SomeAll Q (f a)) : SomeAll Q (x.bind f) := by
  cases x with
  | none => trivial
  | some a => exact hf a h

theorem SomeAll.bindOne {s0 : State} {β : Type} {Q : β → Prop} {x : Option State} {f : State → Option β}
    (h : SomeAll (Kept s0) x) (hf : ∀ a, Kept s0 a → SomeAll Q (f a)) : SomeAll Q (x.bind f) := by
  cases x with
  | none => trivial
  | some a => exact hf a h

theorem SomeAll.bindAny {α β : Type} {Q : β → Prop} {x : Option α} {f : α → Option β} (hf : ∀ a, SomeAll Q (f a)) :
    SomeAll Q (x.bind f) := by
  cases x with
  | none => trivial
  | some a => exact hf a

theorem SomeAll.getD {s0 s : State} {x : Option State} (h : SomeAll (Kept s0) x) (hs : Kept s0 s) : Kept s0 (x.getD s) := by
  cases x with
  | none => exact hs
  | some a => exact h

theorem foldlMO_kept {α : Type} {s0 s : State} {f : State → α → Option State} (l : List α) (h : Kept s0 s)
    (hf : ∀ s a, Kept s0 s → SomeAll (Kept s0) (f s a)) : SomeAll (Kept s0) (l.foldlM f s) := by
  induction l generalizing s with
  | nil => exact h
  | cons a l ih => rw [List.foldlM_cons]; exact SomeAll.bind (hf s a h) fun t ht => ih ht

theorem memFold_wf {α : Type} {m : Mem} {f : Mem → α → Mem} (l : List α) (h : memWf m = true)
    (hf : ∀ m a, memWf m = true → memWf (f m a) = true) : memWf (l.foldl f m) = true := by
  induction l generalizing m with
  | nil => exact h
  | cons a l ih => exact ih (hf m a h)

/-- A fold that carries more than the state. -/
theorem foldl_keptP {α β : Type} {s0 : State} {b : β} {get : β → State} {f : β → α → β} (l : List α) (h : Kept s0 (get b))
    (hf : ∀ b a, Kept s0 (get b) → Kept s0 (get (f b a))) : Kept s0 (get (l.foldl f b)) := by
  induction l generalizing b with
  | nil => exact h
  | cons a l ih => exact ih (hf b a h)

/-- A fold that carries more than the state and may stop. -/
theorem foldlM_keptP {α β : Type} {s0 : State} {b : β} {get : β → State} {f : β → α → Res β} (l : List α) (h : Kept s0 (get b))
    (hf : ∀ b a, Kept s0 (get b) → OkAll (fun c => Kept s0 (get c)) (f b a)) :
    OkAll (fun c => Kept s0 (get c)) (l.foldlM f b) := by
  induction l generalizing b with
  | nil => exact h
  | cons a l ih => rw [List.foldlM_cons]; exact OkAll.bind (hf b a h) fun t ht => ih ht

theorem setCore_kept {s0 s : State} {c : Nat} {k : Core} (h : Kept s0 s)
    (hk : TasksOk s → (∀ t, k.be = some t → t.lc = false) ∧ (∀ t, k.lc = some t → t.lc = true)) : Kept s0 (setCore s c k) := by
  refine h.trans ⟨rfl, fun _ p => p, id, id, id, id, id, id, ?_⟩
  intro p d
  rw [getCore_setCore]
  split
  · exact hk p
  · exact p d

/-- A change of a core that keeps the classes of its tasks. -/
theorem updCore_kept {s0 s : State} {c : Nat} {f : Core → Core} (h : Kept s0 s)
    (hf : ∀ k : Core, (∀ t, k.be = some t → t.lc = false) → (∀ t, k.lc = some t → t.lc = true) →
      (∀ t, (f k).be = some t → t.lc = false) ∧ (∀ t, (f k).lc = some t → t.lc = true)) : Kept s0 (updCore s c f) :=
  setCore_kept h fun p => hf _ (p c).1 (p c).2

theorem tget_mapVal {α : Type} (f : α → α) (l : Tab α) (n : Nat) : tget (l.map fun p => (p.1, f p.2)) n = (tget l n).map f := by
  have := tget_tmap (fun _ => f) l n
  simpa [tmap] using this

/-- A change of every task that keeps its class. -/
theorem mapTasks_kept {s0 s : State} {m : Nat → Task → Task} (h : Kept s0 s) (hm : ∀ c t, (m c t).lc = t.lc) :
    Kept s0 { s with cores := tmap (fun c k => { k with be := k.be.map (m c), lc := k.lc.map (m c) }) s.cores } := by
  refine h.trans ⟨rfl, fun _ p => p, id, id, id, id, id, id, ?_⟩
  intro p c
  obtain ⟨b, l⟩ := p c
  simp only [getCore, tgetD] at b l ⊢
  rw [tget_tmap]
  cases hc : tget s.cores c with
  | none => exact ⟨by simp, by simp⟩
  | some k =>
    rw [hc] at b l
    refine ⟨fun t e => ?_, fun t e => ?_⟩
    · obtain ⟨u, hu, rfl⟩ := Option.map_eq_some_iff.1 e
      rw [hm]; exact b u hu
    · obtain ⟨u, hu, rfl⟩ := Option.map_eq_some_iff.1 e
      rw [hm]; exact l u hu

/-- A change of every core that keeps the classes of its tasks. -/
theorem mapCores_kept {s0 s : State} {f : Core → Core} (h : Kept s0 s) (hb : ∀ k, (f k).be = k.be) (hl : ∀ k, (f k).lc = k.lc) :
    Kept s0 { s with cores := s.cores.map fun p => (p.1, f p.2) } := by
  refine h.trans ⟨rfl, fun _ p => p, id, id, id, id, id, id, ?_⟩
  intro p c
  have := p c
  simp only [getCore, tgetD, tget_mapVal] at this ⊢
  cases q : tget s.cores c with
  | none => exact ⟨by simp, by simp⟩
  | some k => rw [q] at this; simpa [hb, hl] using this

theorem setTask_kept {s0 s : State} {c : Nat} {lc : Bool} {t : Option Task} (h : Kept s0 s)
    (ht : TasksOk s → ∀ u, t = some u → u.lc = lc) : Kept s0 (setTask s c lc t) := by
  refine setCore_kept h fun p => ?_
  cases lc with
  | false => exact ⟨fun u hu => ht p u hu, (p c).2⟩
  | true => exact ⟨(p c).1, fun u hu => ht p u hu⟩

theorem TasksOk.task {s : State} (h : TasksOk s) {c : Nat} {lc : Bool} {t : Task} (e : getTask s c lc = some t) : t.lc = lc := by
  cases lc with
  | false => exact (h c).1 t e
  | true => exact (h c).2 t e

theorem updTask_kept {s0 s : State} {c : Nat} {lc : Bool} {f : Task → Task} (h : Kept s0 s)
    (hf : ∀ t, t.lc = lc → (f t).lc = lc) : Kept s0 (updTask s c lc f) := by
  unfold updTask
  split
  · next t e =>
    refine setTask_kept h fun p u hu => ?_
    cases hu
    exact hf t (p.task e)
  · exact h

theorem setRing_kept {s0 s : State} {r : Nat} {x : Ring} (h : Kept s0 s)
    (hx : (getRing s 0).priv = true → r = 0 → x.priv = true) : Kept s0 (setRing s r x) := by
  refine h.trans ⟨rfl, fun _ p => p, id, id, id, id, id, ?_, id⟩
  intro p
  rw [getRing_setRing]
  split
  · next e => exact hx p e.symm
  · exact p

theorem updRing_kept {s0 s : State} {r : Nat} {f : Ring → Ring} (h : Kept s0 s)
    (hf : ∀ x : Ring, x.priv = true → (f x).priv = true) : Kept s0 (updRing s r f) :=
  setRing_kept h fun p e => hf _ (by subst e; exact p)

theorem sillage_kept {s0 s : State} {e o j d : Nat} (h : Kept s0 s) : Kept s0 (sillage s e o j d) := by
  refine h.trans ⟨rfl, fun _ p => p, id, id, id, id, ?_, id, id⟩
  intro _
  exact (List.length_take_le _ _)

theorem setSpace_kept {s0 s : State} {sp : MemSpace} {m : Mem} (h : Kept s0 s)
    (hm : memWf (spaceMem s sp) = true → memWf m = true) : Kept s0 (setSpace s sp m) := by
  cases sp with
  | dram => exact Kept.mem h hm id id id rfl rfl rfl rfl rfl
  | host => exact Kept.mem h id hm id id rfl rfl rfl rfl rfl
  | nand => exact Kept.mem h id id hm id rfl rfl rfl rfl rfl

end Sys2Proof.Machine
end

