-- ==== Sys2Proof/Laws/KeptOps.lean ====
section
/-! SUPPORT. What the state operations, the operand forms, the numbers and the queues of an engine keep. `Kept` says what; one lemma per operation. -/

namespace Sys2Proof.Machine

set_option linter.unusedTactic false
set_option linter.unreachableTactic false
set_option linter.unusedSimpArgs false

theorem takeFree_kept {s0 : State} (s : State) (kept : Kept s0 s) :
    Kept s0 (takeFree s).2 := by
  unfold takeFree
  repeat' first
      | with_reducible assumption
      | (fail_if_no_progress with_reducible refine Kept.lit ?_ (fun _ p => p))
      | trivial
      | split
      | dsimp only

theorem bump_kept {s0 : State} (s : State) (index sub n : Nat) (kept : Kept s0 s) :
    Kept s0 (bump s index sub n) := by
  unfold bump
  repeat' first
      | with_reducible assumption
      | (fail_if_no_progress with_reducible refine Kept.lit ?_ (fun _ p => p))
      | trivial
      | split
      | dsimp only

theorem bumpIf_kept {s0 : State} (s : State) (index sub n : Nat) (kept : Kept s0 s) :
    Kept s0 (bumpIf s index sub n) := by
  unfold bumpIf
  repeat' first
      | with_reducible assumption
      | with_reducible apply bump_kept
      | (fail_if_no_progress with_reducible refine Kept.lit ?_ (fun _ p => p))
      | trivial
      | split
      | dsimp only

theorem updJob_kept {s0 : State} (s : State) (j : Nat) (f : Job → Job) (kept : Kept s0 s) :
    Kept s0 (updJob s j f) := by
  unfold updJob
  repeat' first
      | with_reducible assumption
      | (fail_if_no_progress with_reducible refine Kept.lit ?_ (fun _ p => p))
      | trivial
      | split
      | dsimp only

theorem setDie_kept {s0 : State} (s : State) (d : Nat) (x : DieHw) (kept : Kept s0 s) :
    Kept s0 (setDie s d x) := by
  unfold setDie
  repeat' first
      | with_reducible assumption
      | (fail_if_no_progress with_reducible refine Kept.lit ?_ (fun _ p => p))
      | trivial
      | split
      | dsimp only

theorem updDie_kept {s0 : State} (s : State) (d : Nat) (f : DieHw → DieHw) (kept : Kept s0 s) :
    Kept s0 (updDie s d f) := by
  unfold updDie
  repeat' first
      | with_reducible assumption
      | with_reducible apply setDie_kept
      | (fail_if_no_progress with_reducible refine Kept.lit ?_ (fun _ p => p))
      | trivial
      | split
      | dsimp only

theorem setCluster_kept {s0 : State} (s : State) (k : Nat) (x : Cluster) (kept : Kept s0 s) :
    Kept s0 (setCluster s k x) := by
  unfold setCluster
  repeat' first
      | with_reducible assumption
      | (fail_if_no_progress with_reducible refine Kept.lit ?_ (fun _ p => p))
      | trivial
      | split
      | dsimp only

theorem updCluster_kept {s0 : State} (s : State) (k : Nat) (f : Cluster → Cluster) (kept : Kept s0 s) :
    Kept s0 (updCluster s k f) := by
  unfold updCluster
  repeat' first
      | with_reducible assumption
      | with_reducible apply setCluster_kept
      | (fail_if_no_progress with_reducible refine Kept.lit ?_ (fun _ p => p))
      | trivial
      | split
      | dsimp only

theorem clearUe_kept {s0 : State} (s : State) (cw : Nat) (kept : Kept s0 s) :
    Kept s0 (clearUe s cw) := by
  unfold clearUe
  repeat' first
      | with_reducible assumption
      | (fail_if_no_progress with_reducible refine Kept.lit ?_ (fun _ p => p))
      | trivial
      | split
      | dsimp only

theorem countUe_kept {s0 : State} (s : State) (cw : Nat) (kept : Kept s0 s) :
    Kept s0 (countUe s cw) := by
  unfold countUe
  repeat' first
      | with_reducible assumption
      | with_reducible apply sillage_kept
      | with_reducible apply bump_kept
      | (fail_if_no_progress with_reducible refine Kept.lit ?_ (fun _ p => p))
      | trivial
      | split
      | dsimp only

theorem repairUe_kept {s0 : State} (s : State) (cw : Nat) (kept : Kept s0 s) :
    Kept s0 (repairUe s cw) := by
  unfold repairUe
  repeat' first
      | with_reducible assumption
      | with_reducible apply sillage_kept
      | with_reducible apply bump_kept
      | with_reducible apply clearUe_kept
      | with_reducible apply countUe_kept
      | (fail_if_no_progress with_reducible refine Kept.lit ?_ (fun _ p => p))
      | trivial
      | split
      | dsimp only

theorem dropWbacks_kept {s0 : State} (s : State) (hit : Nat → Bool) (kept : Kept s0 s) :
    Kept s0 (dropWbacks s hit) := by
  unfold dropWbacks
  repeat' first
      | with_reducible assumption
      | (fail_if_no_progress with_reducible refine Kept.lit ?_ (fun _ p => p))
      | trivial
      | split
      | dsimp only

theorem countFail_kept {s0 : State} (s : State) (f : Fail) (kept : Kept s0 s) :
    Kept s0 (countFail s f) := by
  unfold countFail
  repeat' first
      | with_reducible assumption
      | with_reducible apply countUe_kept
      | (fail_if_no_progress with_reducible refine Kept.lit ?_ (fun _ p => p))
      | trivial
      | split
      | dsimp only

theorem raiseOk_kept {s0 : State} (s : State) (j rank : Nat) (kept : Kept s0 s) :
    Kept s0 (raiseOk s j rank) := by
  unfold raiseOk
  repeat' first
      | with_reducible assumption
      | with_reducible apply updJob_kept
      | (fail_if_no_progress with_reducible refine Kept.lit ?_ (fun _ p => p))
      | trivial
      | split
      | dsimp only

theorem firstEvent_kept {s0 : State} (s : State) (j : Nat) (e : FirstEvent) (k event source detail : Nat) (kept : Kept s0 s) :
    Kept s0 (firstEvent s j e k event source detail) := by
  unfold firstEvent
  repeat' first
      | with_reducible assumption
      | with_reducible apply sillage_kept
      | with_reducible apply updJob_kept
      | (fail_if_no_progress with_reducible refine Kept.lit ?_ (fun _ p => p))
      | trivial
      | split
      | dsimp only

theorem undefSpace_kept {s0 : State} (s : State) (sp : MemSpace) (base len : Nat) (kept : Kept s0 s) :
    Kept s0 (undefSpace s sp base len) := by
  unfold undefSpace
  repeat' first
      | with_reducible assumption
      | with_reducible apply setSpace_kept
      | exact fun h => memWrites_wf h _ _
      | exact fun h => memWrite_wf h _ _
      | exact fun h => memUndef_wf h _ _ _
      | (fail_if_no_progress with_reducible refine Kept.lit ?_ (fun _ p => p))
      | trivial
      | split
      | dsimp only

theorem undefScratch_kept {s0 : State} (s : State) (c base len : Nat) (kept : Kept s0 s) :
    Kept s0 (undefScratch s c base len) := by
  unfold undefScratch
  repeat' first
      | with_reducible assumption
      | (fail_if_no_progress with_reducible refine Kept.lit ?_ (fun _ p => p))
      | (fail_if_no_progress with_reducible refine Kept.lit_scratch ?_ (fun _ p => p) (fun h => ?_))
      | exact memWrite_wf (by assumption) _ _
      | exact memWrites_wf (by assumption) _ _
      | exact memUndef_wf (by assumption) _ _ _
      | refine memFold_wf _ (by assumption) (fun m a h => ?_)
      | trivial
      | split
      | dsimp only

theorem undefJobData_kept {s0 : State} (s : State) (j : Job) (kept : Kept s0 s) :
    Kept s0 (undefJobData s j) := by
  unfold undefJobData
  repeat' first
      | with_reducible assumption
      | with_reducible apply undefSpace_kept
      | with_reducible apply undefScratch_kept
      | (with_reducible refine foldl_kept _ ?_ (fun _ _ _ => ?_))
      | (with_reducible refine foldl_keptP (get := Prod.fst) _ ?_ (fun _ _ _ => ?_))
      | (with_reducible refine foldl_keptP (get := Prod.snd) _ ?_ (fun _ _ _ => ?_))
      | (fail_if_no_progress with_reducible refine Kept.lit ?_ (fun _ p => p))
      | trivial
      | split
      | dsimp only

theorem stopJob_kept {s0 : State} (s : State) (n : Nat) (j : Job) (h : Kept s0 s) :
    Kept s0 (stopJob s n j) := by
  unfold stopJob
  refine foldl_kept _ h fun s c hs => updTask_kept hs fun t e => ?_
  split <;> exact e

theorem failJob_kept {s0 : State} (s : State) (n : Nat) (core pc : Nat) (f : Fail) (kept : Kept s0 s) :
    Kept s0 (failJob s n core pc f) := by
  unfold failJob
  repeat' first
      | with_reducible assumption
      | with_reducible apply sillage_kept
      | with_reducible apply updJob_kept
      | with_reducible apply countFail_kept
      | with_reducible apply undefJobData_kept
      | with_reducible apply stopJob_kept
      | (with_reducible refine OkAll.bindKept (s0 := s0) ?_ (fun _ _ => ?_))
      | (with_reducible refine OkAll.bind' (fun _ => ?_))
      | (with_reducible refine SomeAll.bind' (fun _ => ?_))
      | (fail_if_no_progress with_reducible refine Kept.lit ?_ (fun _ p => p))
      | trivial
      | split
      | dsimp only

theorem failJobService_kept {s0 : State} (s : State) (n : Nat) (f : Fail) (kept : Kept s0 s) :
    Kept s0 (failJobService s n f) := by
  unfold failJobService
  repeat' first
      | with_reducible assumption
      | with_reducible apply failJob_kept
      | (fail_if_no_progress with_reducible refine Kept.lit ?_ (fun _ p => p))
      | trivial
      | split
      | dsimp only

theorem physWrite_kept {s0 : State} (s : State) (p : PAddr) (b : Byte) (kept : Kept s0 s) :
    Kept s0 (physWrite s p b) := by
  unfold physWrite
  repeat' first
      | with_reducible assumption
      | with_reducible apply setSpace_kept
      | exact fun h => memWrites_wf h _ _
      | exact fun h => memWrite_wf h _ _
      | exact fun h => memUndef_wf h _ _ _
      | (fail_if_no_progress with_reducible refine Kept.lit ?_ (fun _ p => p))
      | trivial
      | split
      | dsimp only

theorem physWrites_kept {s0 : State} (s : State) (ws : List (PAddr × Byte)) (kept : Kept s0 s) :
    OkAll (Kept s0) (physWrites s ws) := by
  unfold physWrites
  repeat' first
      | with_reducible assumption
      | with_reducible apply dropWbacks_kept
      | with_reducible apply physWrite_kept
      | (with_reducible refine foldl_kept _ ?_ (fun _ _ _ => ?_))
      | (with_reducible refine foldl_keptP (get := Prod.fst) _ ?_ (fun _ _ _ => ?_))
      | (with_reducible refine foldl_keptP (get := Prod.snd) _ ?_ (fun _ _ _ => ?_))
      | with_reducible apply okAll_mk
      | with_reducible apply okAll_pure
      | with_reducible apply someAll_mk
      | with_reducible apply someAll_pure
      | (fail_if_no_progress with_reducible refine Kept.lit ?_ (fun _ p => p))
      | trivial
      | split
      | dsimp only

theorem jobWrites_kept {s0 : State} (s : State) (asid : Nat) (va : Int) (bs : List Byte) (kept : Kept s0 s) :
    OkAll (Kept s0) (jobWrites s asid va bs) := by
  unfold jobWrites
  repeat' first
      | with_reducible assumption
      | with_reducible apply physWrites_kept
      | (with_reducible refine OkAll.bind (physWrites_kept (s0 := s0) _ _ ?_) (fun _ _ => ?_))
      | (with_reducible refine okAll_kept (physWrites_kept (s0 := s0) _ _ ?_) (by assumption))
      | (with_reducible refine OkAll.bindKept (s0 := s0) ?_ (fun _ _ => ?_))
      | (with_reducible refine OkAll.bindFst (s0 := s0) ?_ (fun _ _ => ?_))
      | (with_reducible refine OkAll.bindSnd (s0 := s0) ?_ (fun _ _ => ?_))
      | (with_reducible refine OkAll.bind' (fun _ => ?_))
      | (with_reducible refine SomeAll.bind' (fun _ => ?_))
      | with_reducible apply okAll_mk
      | with_reducible apply okAll_pure
      | with_reducible apply someAll_mk
      | with_reducible apply someAll_pure
      | (fail_if_no_progress with_reducible refine Kept.lit ?_ (fun _ p => p))
      | trivial
      | split
      | dsimp only

theorem jobWritesD_kept {s0 : State} (s : State) (asid : Nat) (va : Int) (bs : List Byte) (kept : Kept s0 s) :
    Kept s0 (jobWritesD s asid va bs) := by
  unfold jobWritesD
  repeat' first
      | with_reducible assumption
      | with_reducible apply jobWrites_kept
      | (with_reducible refine OkAll.bind (jobWrites_kept (s0 := s0) _ _ _ _ ?_) (fun _ _ => ?_))
      | (with_reducible refine okAll_kept (jobWrites_kept (s0 := s0) _ _ _ _ ?_) (by assumption))
      | (fail_if_no_progress with_reducible refine Kept.lit ?_ (fun _ p => p))
      | trivial
      | split
      | dsimp only

theorem markWatches_kept {s0 : State} (s : State) (asid : Nat) (va : Int) (kept : Kept s0 s) :
    Kept s0 (markWatches s asid va) := by
  unfold markWatches
  split
  · exact kept
  · refine mapTasks_kept kept fun _ t => ?_
    split
    · split <;> rfl
    · rfl

theorem add32_kept {s0 : State} (s : State) (asid : Nat) (va : Int) (n : Int) (kept : Kept s0 s) :
    OkAll (fun p => Kept s0 p.2) (add32 s asid va n) := by
  unfold add32
  repeat' first
      | with_reducible assumption
      | with_reducible apply jobWrites_kept
      | (with_reducible refine OkAll.bind (jobWrites_kept (s0 := s0) _ _ _ _ ?_) (fun _ _ => ?_))
      | (with_reducible refine okAll_kept (jobWrites_kept (s0 := s0) _ _ _ _ ?_) (by assumption))
      | with_reducible apply markWatches_kept
      | (with_reducible refine OkAll.bindKept (s0 := s0) ?_ (fun _ _ => ?_))
      | (with_reducible refine OkAll.bind' (fun _ => ?_))
      | (with_reducible refine SomeAll.bind' (fun _ => ?_))
      | with_reducible apply okAll_mk
      | with_reducible apply okAll_pure
      | with_reducible apply someAll_mk
      | with_reducible apply someAll_pure
      | (fail_if_no_progress with_reducible refine Kept.lit ?_ (fun _ p => p))
      | trivial
      | split
      | dsimp only

theorem setLink_kept {s0 : State} (s : State) (l : Nat) (x : Link) (kept : Kept s0 s) :
    Kept s0 (setLink s l x) := by
  unfold setLink
  repeat' first
      | with_reducible assumption
      | with_reducible apply bump_kept
      | with_reducible apply bumpIf_kept
      | with_reducible apply sillage_kept
      | (fail_if_no_progress with_reducible refine Kept.lit ?_ (fun _ p => p))
      | trivial
      | split
      | dsimp only

theorem linksTick_kept {s0 : State} (s : State) (kept : Kept s0 s) :
    Kept s0 (linksTick s) := by
  unfold linksTick
  repeat' first
      | with_reducible assumption
      | with_reducible apply bump_kept
      | with_reducible apply bumpIf_kept
      | with_reducible apply sillage_kept
      | (fail_if_no_progress with_reducible refine Kept.lit ?_ (fun _ p => p))
      | trivial
      | split
      | dsimp only

theorem sendHop_kept {s0 : State} (c : TrafficClass) (n : Nat) (s : State) (h : Hop) (kept : Kept s0 s) :
    Kept s0 (sendHop c n s h) := by
  unfold sendHop
  repeat' first
      | with_reducible assumption
      | with_reducible apply setLink_kept
      | with_reducible apply bump_kept
      | with_reducible apply bumpIf_kept
      | with_reducible apply sillage_kept
      | (fail_if_no_progress with_reducible refine Kept.lit ?_ (fun _ p => p))
      | trivial
      | split
      | dsimp only

theorem send_kept {s0 : State} (s : State) (c : TrafficClass) (a b page n : Nat) (kept : Kept s0 s) :
    Kept s0 (send s c a b page n) := by
  unfold send
  repeat' first
      | with_reducible assumption
      | with_reducible apply sendHop_kept
      | (with_reducible refine foldl_kept _ ?_ (fun _ _ _ => ?_))
      | (with_reducible refine foldl_keptP (get := Prod.fst) _ ?_ (fun _ _ _ => ?_))
      | (with_reducible refine foldl_keptP (get := Prod.snd) _ ?_ (fun _ _ _ => ?_))
      | with_reducible apply bump_kept
      | with_reducible apply bumpIf_kept
      | with_reducible apply sillage_kept
      | (fail_if_no_progress with_reducible refine Kept.lit ?_ (fun _ p => p))
      | trivial
      | split
      | dsimp only

theorem sendCtrlAll_kept {s0 : State} (s : State) (kept : Kept s0 s) :
    Kept s0 (sendCtrlAll s) := by
  unfold sendCtrlAll
  repeat' first
      | with_reducible assumption
      | with_reducible apply send_kept
      | (with_reducible refine foldl_kept _ ?_ (fun _ _ _ => ?_))
      | (with_reducible refine foldl_keptP (get := Prod.fst) _ ?_ (fun _ _ _ => ?_))
      | (with_reducible refine foldl_keptP (get := Prod.snd) _ ?_ (fun _ _ _ => ?_))
      | with_reducible apply bump_kept
      | with_reducible apply bumpIf_kept
      | with_reducible apply sillage_kept
      | (fail_if_no_progress with_reducible refine Kept.lit ?_ (fun _ p => p))
      | trivial
      | split
      | dsimp only

theorem admitReq_kept {s0 : State} (s : State) (d p : Nat) (lc : Bool) (len : Nat) (kept : Kept s0 s) :
    Kept s0 (admitReq s d p lc len) := by
  unfold admitReq
  repeat' first
      | with_reducible assumption
      | with_reducible apply bumpIf_kept
      | with_reducible apply updDie_kept
      | with_reducible apply bump_kept
      | with_reducible apply sillage_kept
      | (fail_if_no_progress with_reducible refine Kept.lit ?_ (fun _ p => p))
      | trivial
      | split
      | dsimp only

theorem sendHostIo_kept {s0 : State} (s : State) (n : Nat) (kept : Kept s0 s) :
    Kept s0 (sendHostIo s n) := by
  unfold sendHostIo
  repeat' first
      | with_reducible assumption
      | with_reducible apply bump_kept
      | with_reducible apply bumpIf_kept
      | with_reducible apply sillage_kept
      | (fail_if_no_progress with_reducible refine Kept.lit ?_ (fun _ p => p))
      | trivial
      | split
      | dsimp only

theorem sendHostMem_kept {s0 : State} (s : State) (n : Nat) (kept : Kept s0 s) :
    Kept s0 (sendHostMem s n) := by
  unfold sendHostMem
  repeat' first
      | with_reducible assumption
      | with_reducible apply bump_kept
      | with_reducible apply bumpIf_kept
      | with_reducible apply sillage_kept
      | (fail_if_no_progress with_reducible refine Kept.lit ?_ (fun _ p => p))
      | trivial
      | split
      | dsimp only

theorem hostTick_kept {s0 : State} (s : State) (kept : Kept s0 s) :
    Kept s0 (hostTick s) := by
  unfold hostTick
  repeat' first
      | with_reducible assumption
      | with_reducible apply bump_kept
      | with_reducible apply bumpIf_kept
      | with_reducible apply sillage_kept
      | (fail_if_no_progress with_reducible refine Kept.lit ?_ (fun _ p => p))
      | trivial
      | split
      | dsimp only

theorem scratchStores_kept {s0 : State} (x : Ctx) (s : State) (core : Nat) (sts : List Store) (kept : Kept s0 s) :
    OkAll (Kept s0) (scratchStores x s core sts) := by
  unfold scratchStores
  repeat' first
      | with_reducible assumption
      | (with_reducible refine foldl_kept _ ?_ (fun _ _ _ => ?_))
      | (with_reducible refine foldl_keptP (get := Prod.fst) _ ?_ (fun _ _ _ => ?_))
      | (with_reducible refine foldl_keptP (get := Prod.snd) _ ?_ (fun _ _ _ => ?_))
      | (with_reducible refine OkAll.bindKept (s0 := s0) ?_ (fun _ _ => ?_))
      | (with_reducible refine OkAll.bindFst (s0 := s0) ?_ (fun _ _ => ?_))
      | (with_reducible refine OkAll.bindSnd (s0 := s0) ?_ (fun _ _ => ?_))
      | (with_reducible refine OkAll.bind' (fun _ => ?_))
      | (with_reducible refine SomeAll.bind' (fun _ => ?_))
      | with_reducible apply okAll_mk
      | with_reducible apply okAll_pure
      | with_reducible apply someAll_mk
      | with_reducible apply someAll_pure
      | (fail_if_no_progress with_reducible refine Kept.lit ?_ (fun _ p => p))
      | (fail_if_no_progress with_reducible refine Kept.lit_scratch ?_ (fun _ p => p) (fun h => ?_))
      | exact memWrite_wf (by assumption) _ _
      | exact memWrites_wf (by assumption) _ _
      | exact memUndef_wf (by assumption) _ _ _
      | refine memFold_wf _ (by assumption) (fun m a h => ?_)
      | trivial
      | split
      | dsimp only

theorem jobStores_kept {s0 : State} (s : State) (asid : Nat) (sts : List Store) (kept : Kept s0 s) :
    OkAll (Kept s0) (jobStores s asid sts) := by
  unfold jobStores
  repeat' first
      | with_reducible assumption
      | with_reducible apply physWrites_kept
      | (with_reducible refine OkAll.bind (physWrites_kept (s0 := s0) _ _ ?_) (fun _ _ => ?_))
      | (with_reducible refine okAll_kept (physWrites_kept (s0 := s0) _ _ ?_) (by assumption))
      | (with_reducible refine foldlM_keptP (get := Prod.fst) _ ?_ (fun _ _ _ => ?_))
      | (with_reducible refine foldlM_keptP (get := Prod.snd) _ ?_ (fun _ _ _ => ?_))
      | (with_reducible refine foldlM_kept _ ?_ (fun _ _ _ => ?_))
      | (with_reducible refine foldlMO_kept _ ?_ (fun _ _ _ => ?_))
      | (with_reducible refine OkAll.bindKept (s0 := s0) ?_ (fun _ _ => ?_))
      | (with_reducible refine OkAll.bindFst (s0 := s0) ?_ (fun _ _ => ?_))
      | (with_reducible refine OkAll.bindSnd (s0 := s0) ?_ (fun _ _ => ?_))
      | (with_reducible refine OkAll.bind' (fun _ => ?_))
      | (with_reducible refine SomeAll.bind' (fun _ => ?_))
      | with_reducible apply okAll_mk
      | with_reducible apply okAll_pure
      | with_reducible apply someAll_mk
      | with_reducible apply someAll_pure
      | (fail_if_no_progress with_reducible refine Kept.lit ?_ (fun _ p => p))
      | trivial
      | split
      | dsimp only

theorem doStores_kept {s0 : State} (x : Ctx) (s : State) (sts : List Store) (kept : Kept s0 s) :
    OkAll (Kept s0) (doStores x s sts) := by
  unfold doStores
  repeat' first
      | with_reducible assumption
      | with_reducible apply scratchStores_kept
      | (with_reducible refine OkAll.bind (scratchStores_kept (s0 := s0) _ _ _ _ ?_) (fun _ _ => ?_))
      | (with_reducible refine okAll_kept (scratchStores_kept (s0 := s0) _ _ _ _ ?_) (by assumption))
      | with_reducible apply jobStores_kept
      | (with_reducible refine OkAll.bind (jobStores_kept (s0 := s0) _ _ _ ?_) (fun _ _ => ?_))
      | (with_reducible refine okAll_kept (jobStores_kept (s0 := s0) _ _ _ ?_) (by assumption))
      | with_reducible apply okAll_mk
      | with_reducible apply okAll_pure
      | with_reducible apply someAll_mk
      | with_reducible apply someAll_pure
      | (fail_if_no_progress with_reducible refine Kept.lit ?_ (fun _ p => p))
      | trivial
      | split
      | dsimp only

theorem drawn_kept {s0 : State} (s : State) (core : Nat) (md : Rnd) (n : Nat) (kept : Kept s0 s) :
    Kept s0 (drawn s core md n) := by
  unfold drawn
  repeat' first
      | with_reducible assumption
      | (with_reducible refine updCore_kept ?_ (fun _ a b => ⟨a, b⟩))
      | with_reducible apply bump_kept
      | with_reducible apply bumpIf_kept
      | with_reducible apply sillage_kept
      | (fail_if_no_progress with_reducible refine Kept.lit ?_ (fun _ p => p))
      | trivial
      | split
      | dsimp only

theorem convAll_kept {s0 : State} (s : State) (core : Nat) (f : Fmt) (md : Rnd) (sat : Bool) (xs : List Num) (kept : Kept s0 s) :
    Kept s0 (convAll s core f md sat xs).2 := by
  unfold convAll
  repeat' first
      | with_reducible assumption
      | with_reducible apply drawn_kept
      | with_reducible apply bump_kept
      | with_reducible apply bumpIf_kept
      | with_reducible apply sillage_kept
      | (fail_if_no_progress with_reducible refine Kept.lit ?_ (fun _ p => p))
      | trivial
      | split
      | dsimp only

theorem countSpecial_kept {s0 : State} (x : Ctx) (pc : Nat) (s : State) (nsat nnon : Nat) (kept : Kept s0 s) :
    Kept s0 (countSpecial x pc s nsat nnon) := by
  unfold countSpecial
  repeat' first
      | with_reducible assumption
      | with_reducible apply bump_kept
      | with_reducible apply firstEvent_kept
      | with_reducible apply bumpIf_kept
      | with_reducible apply sillage_kept
      | (fail_if_no_progress with_reducible refine Kept.lit ?_ (fun _ p => p))
      | trivial
      | split
      | dsimp only

theorem countConv_kept {s0 : State} (x : Ctx) (pc : Nat) (s : State) (cs : List Conv) (kept : Kept s0 s) :
    Kept s0 (countConv x pc s cs) := by
  unfold countConv
  repeat' first
      | with_reducible assumption
      | with_reducible apply countSpecial_kept
      | with_reducible apply bump_kept
      | with_reducible apply bumpIf_kept
      | with_reducible apply sillage_kept
      | (fail_if_no_progress with_reducible refine Kept.lit ?_ (fun _ p => p))
      | trivial
      | split
      | dsimp only

theorem fenceCore_kept {s0 : State} (x : Ctx) (pc : Nat) (s : State) (kept : Kept s0 s) :
    Kept s0 (fenceCore x pc s) := by
  unfold fenceCore
  repeat' first
      | with_reducible assumption
      | with_reducible apply sillage_kept
      | (with_reducible refine updCore_kept ?_ (fun _ a b => ⟨a, b⟩))
      | with_reducible apply bump_kept
      | with_reducible apply bumpIf_kept
      | (fail_if_no_progress with_reducible refine Kept.lit ?_ (fun _ p => p))
      | trivial
      | split
      | dsimp only

theorem coreFn_kept {s0 : State} (x : Ctx) (pc : Nat) (s : State) (f : Nat) (pwl : Bool) (fault : Option Nat) (xs : List Num) (kept : Kept s0 s) :
    Kept s0 (coreFn x pc s f pwl fault xs).2 := by
  unfold coreFn
  repeat' first
      | with_reducible assumption
      | with_reducible apply fenceCore_kept
      | with_reducible apply bump_kept
      | with_reducible apply bumpIf_kept
      | with_reducible apply sillage_kept
      | (fail_if_no_progress with_reducible refine Kept.lit ?_ (fun _ p => p))
      | trivial
      | split
      | dsimp only

theorem setGroup_kept {s0 : State} (s : State) (n : Nat) (g : Group) (kept : Kept s0 s) :
    Kept s0 (setGroup s n g) := by
  unfold setGroup
  repeat' first
      | with_reducible assumption
      | with_reducible apply bump_kept
      | with_reducible apply bumpIf_kept
      | with_reducible apply sillage_kept
      | (fail_if_no_progress with_reducible refine Kept.lit ?_ (fun _ p => p))
      | trivial
      | split
      | dsimp only

theorem updGroup_kept {s0 : State} (s : State) (n : Nat) (f : Group → Group) (kept : Kept s0 s) :
    Kept s0 (updGroup s n f) := by
  unfold updGroup
  repeat' first
      | with_reducible assumption
      | with_reducible apply setGroup_kept
      | with_reducible apply bump_kept
      | with_reducible apply bumpIf_kept
      | with_reducible apply sillage_kept
      | (fail_if_no_progress with_reducible refine Kept.lit ?_ (fun _ p => p))
      | trivial
      | split
      | dsimp only

theorem setFuture_kept {s0 : State} (s : State) (n i : Nat) (f : Future) (kept : Kept s0 s) :
    Kept s0 (setFuture s n i f) := by
  unfold setFuture
  repeat' first
      | with_reducible assumption
      | with_reducible apply updGroup_kept
      | with_reducible apply bump_kept
      | with_reducible apply bumpIf_kept
      | with_reducible apply sillage_kept
      | (fail_if_no_progress with_reducible refine Kept.lit ?_ (fun _ p => p))
      | trivial
      | split
      | dsimp only

theorem updFuture_kept {s0 : State} (s : State) (n i : Nat) (u : Future → Future) (kept : Kept s0 s) :
    Kept s0 (updFuture s n i u) := by
  unfold updFuture
  repeat' first
      | with_reducible assumption
      | with_reducible apply updGroup_kept
      | with_reducible apply bump_kept
      | with_reducible apply bumpIf_kept
      | with_reducible apply sillage_kept
      | (fail_if_no_progress with_reducible refine Kept.lit ?_ (fun _ p => p))
      | trivial
      | split
      | dsimp only

theorem setPool_kept {s0 : State} (s : State) (d : Nat) (p : KvPool) (kept : Kept s0 s) :
    Kept s0 (setPool s d p) := by
  unfold setPool
  repeat' first
      | with_reducible assumption
      | with_reducible apply bump_kept
      | with_reducible apply bumpIf_kept
      | with_reducible apply sillage_kept
      | (fail_if_no_progress with_reducible refine Kept.lit ?_ (fun _ p => p))
      | trivial
      | split
      | dsimp only

theorem allocSlot_kept {s0 : State} (s : State) (d size : Nat) (res : Bool) (kept : Kept s0 s) :
    SomeAll (fun p => Kept s0 p.2) (allocSlot s d size res) := by
  unfold allocSlot
  repeat' first
      | with_reducible assumption
      | with_reducible apply setPool_kept
      | with_reducible apply okAll_mk
      | with_reducible apply okAll_pure
      | with_reducible apply someAll_mk
      | with_reducible apply someAll_pure
      | with_reducible apply bump_kept
      | with_reducible apply bumpIf_kept
      | with_reducible apply sillage_kept
      | (fail_if_no_progress with_reducible refine Kept.lit ?_ (fun _ p => p))
      | trivial
      | split
      | dsimp only

theorem freeSlotAt_kept {s0 : State} (s : State) (key : Nat) (kept : Kept s0 s) :
    Kept s0 (freeSlotAt s key) := by
  unfold freeSlotAt
  repeat' first
      | with_reducible assumption
      | with_reducible apply setPool_kept
      | with_reducible apply bump_kept
      | with_reducible apply bumpIf_kept
      | with_reducible apply sillage_kept
      | (fail_if_no_progress with_reducible refine Kept.lit ?_ (fun _ p => p))
      | trivial
      | split
      | dsimp only

theorem updPage_kept {s0 : State} (s : State) (key : Nat) (f : KvPage → KvPage) (kept : Kept s0 s) :
    Kept s0 (updPage s key f) := by
  unfold updPage
  repeat' first
      | with_reducible assumption
      | with_reducible apply bump_kept
      | with_reducible apply bumpIf_kept
      | with_reducible apply sillage_kept
      | (fail_if_no_progress with_reducible refine Kept.lit ?_ (fun _ p => p))
      | trivial
      | split
      | dsimp only

theorem updChunk_kept {s0 : State} (s : State) (key : Nat) (f : Chunk → Chunk) (kept : Kept s0 s) :
    Kept s0 (updChunk s key f) := by
  unfold updChunk
  repeat' first
      | with_reducible assumption
      | with_reducible apply bump_kept
      | with_reducible apply bumpIf_kept
      | with_reducible apply sillage_kept
      | (fail_if_no_progress with_reducible refine Kept.lit ?_ (fun _ p => p))
      | trivial
      | split
      | dsimp only

theorem rekeyPage_kept {s0 : State} (s : State) (old new : Nat) (p : KvPage) (kept : Kept s0 s) :
    Kept s0 (rekeyPage s old new p) := by
  unfold rekeyPage
  repeat' first
      | with_reducible assumption
      | with_reducible apply updPage_kept
      | with_reducible apply bump_kept
      | with_reducible apply bumpIf_kept
      | with_reducible apply sillage_kept
      | (fail_if_no_progress with_reducible refine Kept.lit ?_ (fun _ p => p))
      | trivial
      | split
      | dsimp only

theorem rekeyChunk_kept {s0 : State} (s : State) (old new : Nat) (c : Chunk) (kept : Kept s0 s) :
    Kept s0 (rekeyChunk s old new c) := by
  unfold rekeyChunk
  repeat' first
      | with_reducible assumption
      | with_reducible apply bump_kept
      | with_reducible apply bumpIf_kept
      | with_reducible apply sillage_kept
      | (fail_if_no_progress with_reducible refine Kept.lit ?_ (fun _ p => p))
      | trivial
      | split
      | dsimp only

theorem kvTouch_kept {s0 : State} (s : State) (k : KvSeq) (kept : Kept s0 s) :
    Kept s0 (kvTouch s k) := by
  unfold kvTouch
  repeat' first
      | with_reducible assumption
      | with_reducible apply updPage_kept
      | (with_reducible refine foldl_kept _ ?_ (fun _ _ _ => ?_))
      | (with_reducible refine foldl_keptP (get := Prod.fst) _ ?_ (fun _ _ _ => ?_))
      | (with_reducible refine foldl_keptP (get := Prod.snd) _ ?_ (fun _ _ _ => ?_))
      | with_reducible apply bump_kept
      | with_reducible apply bumpIf_kept
      | with_reducible apply sillage_kept
      | (fail_if_no_progress with_reducible refine Kept.lit ?_ (fun _ p => p))
      | trivial
      | split
      | dsimp only

theorem setQueue_lc (t : Task) (exe : Bool) (q : List QEntry) : (setQueue t exe q).lc = t.lc := by cases exe <;> rfl

/-- An effect keeps what every operation keeps. -/
def EffectKept (f : Effect) : Prop :=
  ∀ (s0 : State) (x : Ctx) (e : QEntry) (s : State), Kept s0 s → OkAll (fun r => Kept s0 r.st) (f x e s)

theorem EffectKept.of {s0 : State} {f : Effect} {x : Ctx} {e : QEntry} {s : State} {r : Eff} (hf : EffectKept f)
    (h : Kept s0 s) (p : f x e s = .ok r) : Kept s0 r.st := by
  have := hf s0 x e s h
  rw [p] at this
  exact this

theorem goto_kept {s0 : State} (s : State) (x : Ctx) (target : Nat) (kept : Kept s0 s) :
    Kept s0 (goto s x target) := by
  unfold goto
  repeat' first
      | with_reducible assumption
      | (with_reducible refine updTask_kept ?_ (fun _ e => e))
      | (with_reducible refine updTask_kept ?_ (fun t e => ?_))
      | ((try dsimp only); first | exact e | (simp only [setQueue_lc]; exact e) | (split <;> exact e) | (split <;> split <;> exact e))
      | with_reducible apply bump_kept
      | with_reducible apply bumpIf_kept
      | with_reducible apply sillage_kept
      | (fail_if_no_progress with_reducible refine Kept.lit ?_ (fun _ p => p))
      | trivial
      | split
      | dsimp only

theorem nextPc_kept {s0 : State} (s : State) (x : Ctx) (kept : Kept s0 s) :
    Kept s0 (nextPc s x) := by
  unfold nextPc
  repeat' first
      | with_reducible assumption
      | with_reducible apply goto_kept
      | with_reducible apply bump_kept
      | with_reducible apply bumpIf_kept
      | with_reducible apply sillage_kept
      | (fail_if_no_progress with_reducible refine Kept.lit ?_ (fun _ p => p))
      | trivial
      | split
      | dsimp only

theorem branch_kept {s0 : State} (s : State) (x : Ctx) (off : Nat) (kept : Kept s0 s) :
    Kept s0 (branch s x off) := by
  unfold branch
  repeat' first
      | with_reducible assumption
      | with_reducible apply failJob_kept
      | with_reducible apply goto_kept
      | with_reducible apply bump_kept
      | with_reducible apply bumpIf_kept
      | with_reducible apply sillage_kept
      | (fail_if_no_progress with_reducible refine Kept.lit ?_ (fun _ p => p))
      | trivial
      | split
      | dsimp only

theorem setIx_kept {s0 : State} (s : State) (x : Ctx) (n : Nat) (v : Int) (kept : Kept s0 s) :
    Kept s0 (setIx s x n v) := by
  unfold setIx
  repeat' first
      | with_reducible assumption
      | (with_reducible refine updTask_kept ?_ (fun _ e => e))
      | (with_reducible refine updTask_kept ?_ (fun t e => ?_))
      | ((try dsimp only); first | exact e | (simp only [setQueue_lc]; exact e) | (split <;> exact e) | (split <;> split <;> exact e))
      | with_reducible apply bump_kept
      | with_reducible apply bumpIf_kept
      | with_reducible apply sillage_kept
      | (fail_if_no_progress with_reducible refine Kept.lit ?_ (fun _ p => p))
      | trivial
      | split
      | dsimp only

theorem failHere_kept {s0 : State} (s : State) (x : Ctx) (f : Fail) (kept : Kept s0 s) :
    Kept s0 (failHere s x f) := by
  unfold failHere
  repeat' first
      | with_reducible assumption
      | with_reducible apply failJob_kept
      | with_reducible apply bump_kept
      | with_reducible apply bumpIf_kept
      | with_reducible apply sillage_kept
      | (fail_if_no_progress with_reducible refine Kept.lit ?_ (fun _ p => p))
      | trivial
      | split
      | dsimp only

theorem setEntry_kept {s0 : State} (s : State) (c : Nat) (lc exe : Bool) (k : Nat) (e : QEntry) (h : Kept s0 s) :
    Kept s0 (setEntry s c lc exe k e) := by
  unfold setEntry
  exact updTask_kept h fun t p => by rw [setQueue_lc]; exact p

theorem landAdd_kept {s0 : State} (s : State) (asid va : Nat) (n : Int) (kept : Kept s0 s) :
    Kept s0 (landAdd s asid va n) := by
  unfold landAdd
  repeat' first
      | with_reducible assumption
      | (with_reducible refine updTask_kept ?_ (fun _ e => e))
      | (with_reducible refine updTask_kept ?_ (fun t e => ?_))
      | ((try dsimp only); first | exact e | (simp only [setQueue_lc]; exact e) | (split <;> exact e) | (split <;> split <;> exact e))
      | (with_reducible refine foldl_kept _ ?_ (fun _ _ _ => ?_))
      | (with_reducible refine foldl_keptP (get := Prod.fst) _ ?_ (fun _ _ _ => ?_))
      | (with_reducible refine foldl_keptP (get := Prod.snd) _ ?_ (fun _ _ _ => ?_))
      | with_reducible apply bump_kept
      | with_reducible apply bumpIf_kept
      | with_reducible apply sillage_kept
      | (fail_if_no_progress with_reducible refine Kept.lit ?_ (fun _ p => p))
      | trivial
      | split
      | dsimp only

theorem landAt_kept {s0 : State} (s : State) (a : Nat) (n : Int) (kept : Kept s0 s) :
    Kept s0 (landAt s a n) := by
  unfold landAt
  repeat' first
      | with_reducible assumption
      | with_reducible apply markWatches_kept
      | with_reducible apply landAdd_kept
      | (with_reducible refine foldl_kept _ ?_ (fun _ _ _ => ?_))
      | (with_reducible refine foldl_keptP (get := Prod.fst) _ ?_ (fun _ _ _ => ?_))
      | (with_reducible refine foldl_keptP (get := Prod.snd) _ ?_ (fun _ _ _ => ?_))
      | with_reducible apply bump_kept
      | with_reducible apply bumpIf_kept
      | with_reducible apply sillage_kept
      | (fail_if_no_progress with_reducible refine Kept.lit ?_ (fun _ p => p))
      | trivial
      | split
      | dsimp only

theorem memAdd32_kept {s0 : State} (s : State) (asid va : Nat) (n : Int) (kept : Kept s0 s) :
    OkAll (fun p => Kept s0 p.2) (memAdd32 s asid va n) := by
  unfold memAdd32
  repeat' first
      | with_reducible assumption
      | with_reducible apply add32_kept
      | (with_reducible refine OkAll.bind (add32_kept (s0 := s0) _ _ _ _ ?_) (fun _ _ => ?_))
      | (with_reducible refine okAll_snd (add32_kept (s0 := s0) _ _ _ _ ?_) (by assumption))
      | with_reducible apply landAdd_kept
      | (with_reducible refine OkAll.bindKept (s0 := s0) ?_ (fun _ _ => ?_))
      | (with_reducible refine OkAll.bind' (fun _ => ?_))
      | (with_reducible refine SomeAll.bind' (fun _ => ?_))
      | with_reducible apply okAll_mk
      | with_reducible apply okAll_pure
      | with_reducible apply someAll_mk
      | with_reducible apply someAll_pure
      | with_reducible apply bump_kept
      | with_reducible apply bumpIf_kept
      | with_reducible apply sillage_kept
      | (fail_if_no_progress with_reducible refine Kept.lit ?_ (fun _ p => p))
      | trivial
      | split
      | dsimp only

theorem semAdd_kept {s0 : State} (s : State) (c : Nat) (lc : Bool) (pc n cnt : Nat) (kept : Kept s0 s) :
    Kept s0 (semAdd s c lc pc n cnt) := by
  unfold semAdd
  repeat' first
      | with_reducible assumption
      | (with_reducible refine updTask_kept ?_ (fun _ e => e))
      | (with_reducible refine updTask_kept ?_ (fun t e => ?_))
      | ((try dsimp only); first | exact e | (simp only [setQueue_lc]; exact e) | (split <;> exact e) | (split <;> split <;> exact e))
      | with_reducible apply failJob_kept
      | with_reducible apply bump_kept
      | with_reducible apply bumpIf_kept
      | with_reducible apply sillage_kept
      | (fail_if_no_progress with_reducible refine Kept.lit ?_ (fun _ p => p))
      | trivial
      | split
      | dsimp only

theorem finishWait_kept {s0 : State} (s : State) (c : Nat) (lc : Bool) (sem : Bool) (kept : Kept s0 s) :
    Kept s0 (finishWait s c lc sem) := by
  unfold finishWait
  repeat' first
      | with_reducible assumption
      | (with_reducible refine updTask_kept ?_ (fun _ e => e))
      | (with_reducible refine updTask_kept ?_ (fun t e => ?_))
      | ((try dsimp only); first | exact e | (simp only [setQueue_lc]; exact e) | (split <;> exact e) | (split <;> split <;> exact e))
      | with_reducible apply nextPc_kept
      | with_reducible apply semAdd_kept
      | with_reducible apply bump_kept
      | with_reducible apply bumpIf_kept
      | with_reducible apply sillage_kept
      | (fail_if_no_progress with_reducible refine Kept.lit ?_ (fun _ p => p))
      | trivial
      | split
      | dsimp only

theorem releaseBarrier_kept {s0 : State} (s : State) (jobn : Nat) (j : Job) (bid : Nat) (kept : Kept s0 s) :
    Kept s0 (releaseBarrier s jobn j bid) := by
  unfold releaseBarrier
  repeat' first
      | with_reducible assumption
      | with_reducible apply finishWait_kept
      | (with_reducible refine foldl_kept _ ?_ (fun _ _ _ => ?_))
      | (with_reducible refine foldl_keptP (get := Prod.fst) _ ?_ (fun _ _ _ => ?_))
      | (with_reducible refine foldl_keptP (get := Prod.snd) _ ?_ (fun _ _ _ => ?_))
      | with_reducible apply bump_kept
      | with_reducible apply bumpIf_kept
      | with_reducible apply sillage_kept
      | (fail_if_no_progress with_reducible refine Kept.lit ?_ (fun _ p => p))
      | trivial
      | split
      | dsimp only

theorem arrive_kept {s0 : State} (s : State) (c : Nat) (lc : Bool) (t : Task) (bid npart : Nat) (kept : Kept s0 s) :
    Kept s0 (arrive s c lc t bid npart) := by
  unfold arrive
  repeat' first
      | with_reducible assumption
      | (with_reducible refine updTask_kept ?_ (fun _ e => e))
      | (with_reducible refine updTask_kept ?_ (fun t e => ?_))
      | ((try dsimp only); first | exact e | (simp only [setQueue_lc]; exact e) | (split <;> exact e) | (split <;> split <;> exact e))
      | with_reducible apply updJob_kept
      | with_reducible apply releaseBarrier_kept
      | with_reducible apply bump_kept
      | with_reducible apply bumpIf_kept
      | with_reducible apply sillage_kept
      | (fail_if_no_progress with_reducible refine Kept.lit ?_ (fun _ p => p))
      | trivial
      | split
      | dsimp only

theorem poke_kept {s0 : State} (s : State) (c : Nat) (lc : Bool) (kept : Kept s0 s) :
    Kept s0 (poke s c lc) := by
  unfold poke
  repeat' first
      | with_reducible assumption
      | (with_reducible refine updTask_kept ?_ (fun _ e => e))
      | (with_reducible refine updTask_kept ?_ (fun t e => ?_))
      | ((try dsimp only); first | exact e | (simp only [setQueue_lc]; exact e) | (split <;> exact e) | (split <;> split <;> exact e))
      | with_reducible apply semAdd_kept
      | with_reducible apply finishWait_kept
      | with_reducible apply arrive_kept
      | with_reducible apply bump_kept
      | with_reducible apply bumpIf_kept
      | with_reducible apply sillage_kept
      | (fail_if_no_progress with_reducible refine Kept.lit ?_ (fun _ p => p))
      | trivial
      | split
      | dsimp only

theorem beginWait_kept {s0 : State} (s : State) (x : Ctx) (b : Body) (w : Blocked) (kept : Kept s0 s) :
    Kept s0 (beginWait s x b w) := by
  unfold beginWait
  repeat' first
      | with_reducible assumption
      | (with_reducible refine updTask_kept ?_ (fun _ e => e))
      | (with_reducible refine updTask_kept ?_ (fun t e => ?_))
      | ((try dsimp only); first | exact e | (simp only [setQueue_lc]; exact e) | (split <;> exact e) | (split <;> split <;> exact e))
      | with_reducible apply poke_kept
      | (with_reducible refine OkAll.bindKept (s0 := s0) ?_ (fun _ _ => ?_))
      | (with_reducible refine OkAll.bind' (fun _ => ?_))
      | (with_reducible refine SomeAll.bind' (fun _ => ?_))
      | with_reducible apply bump_kept
      | with_reducible apply bumpIf_kept
      | with_reducible apply sillage_kept
      | (fail_if_no_progress with_reducible refine Kept.lit ?_ (fun _ p => p))
      | trivial
      | split
      | dsimp only

theorem writeOuts_kept {s0 : State} (s : State) (c : Nat) (lc : Bool) (e : QEntry) (kept : Kept s0 s) :
    Kept s0 (writeOuts s c lc e) := by
  unfold writeOuts
  repeat' first
      | with_reducible assumption
      | with_reducible apply failJob_kept
      | with_reducible apply doStores_kept
      | (with_reducible refine OkAll.bind (doStores_kept (s0 := s0) _ _ _ ?_) (fun _ _ => ?_))
      | (with_reducible refine okAll_kept (doStores_kept (s0 := s0) _ _ _ ?_) (by assumption))
      | (with_reducible refine OkAll.bindKept (s0 := s0) ?_ (fun _ _ => ?_))
      | (with_reducible refine OkAll.bind' (fun _ => ?_))
      | (with_reducible refine SomeAll.bind' (fun _ => ?_))
      | with_reducible apply bump_kept
      | with_reducible apply bumpIf_kept
      | with_reducible apply sillage_kept
      | (fail_if_no_progress with_reducible refine Kept.lit ?_ (fun _ p => p))
      | trivial
      | split
      | dsimp only

theorem retireEntry_kept {s0 : State} (s : State) (c : Nat) (lc exe : Bool) (k : Nat) (e : QEntry) (kept : Kept s0 s) :
    Kept s0 (retireEntry s c lc exe k e) := by
  unfold retireEntry
  repeat' first
      | with_reducible assumption
      | (with_reducible refine updTask_kept ?_ (fun _ e => e))
      | (with_reducible refine updTask_kept ?_ (fun t e => ?_))
      | ((try dsimp only); first | exact e | (simp only [setQueue_lc]; exact e) | (split <;> exact e) | (split <;> split <;> exact e))
      | with_reducible apply semAdd_kept
      | with_reducible apply poke_kept
      | with_reducible apply writeOuts_kept
      | (with_reducible refine OkAll.bindKept (s0 := s0) ?_ (fun _ _ => ?_))
      | (with_reducible refine OkAll.bind' (fun _ => ?_))
      | (with_reducible refine SomeAll.bind' (fun _ => ?_))
      | with_reducible apply bump_kept
      | with_reducible apply bumpIf_kept
      | with_reducible apply sillage_kept
      | (fail_if_no_progress with_reducible refine Kept.lit ?_ (fun _ p => p))
      | trivial
      | split
      | dsimp only

theorem displace_kept {s0 : State} (s : State) (x : Ctx) (pc sid uid : Nat) (kept : Kept s0 s) :
    Kept s0 (displace s x pc sid uid) := by
  unfold displace
  repeat' first
      | with_reducible assumption
      | with_reducible apply bump_kept
      | with_reducible apply firstEvent_kept
      | with_reducible apply retireEntry_kept
      | with_reducible apply bumpIf_kept
      | with_reducible apply sillage_kept
      | (fail_if_no_progress with_reducible refine Kept.lit ?_ (fun _ p => p))
      | trivial
      | split
      | dsimp only

theorem holdEntry_kept {s0 : State} (s : State) (c : Nat) (lc exe : Bool) (k : Nat) (e : QEntry) (h : Hold) (kept : Kept s0 s) :
    Kept s0 (holdEntry s c lc exe k e h) := by
  unfold holdEntry
  repeat' first
      | with_reducible assumption
      | with_reducible apply bump_kept
      | with_reducible apply setEntry_kept
      | with_reducible apply bumpIf_kept
      | with_reducible apply sillage_kept
      | (fail_if_no_progress with_reducible refine Kept.lit ?_ (fun _ p => p))
      | trivial
      | split
      | dsimp only

theorem noteReads_kept {s0 : State} (s : State) (core asid : Nat) (reads : List Touch) (kept : Kept s0 s) :
    Kept s0 (noteReads s core asid reads) := by
  unfold noteReads
  repeat' first
      | with_reducible assumption
      | with_reducible apply bumpIf_kept
      | with_reducible apply repairUe_kept
      | (with_reducible refine foldl_kept _ ?_ (fun _ _ _ => ?_))
      | (with_reducible refine foldl_keptP (get := Prod.fst) _ ?_ (fun _ _ _ => ?_))
      | (with_reducible refine foldl_keptP (get := Prod.snd) _ ?_ (fun _ _ _ => ?_))
      | with_reducible apply bump_kept
      | with_reducible apply sillage_kept
      | (fail_if_no_progress with_reducible refine Kept.lit ?_ (fun _ p => p))
      | trivial
      | split
      | dsimp only

theorem tryStart_kept {s0 : State} (f : Effect) (s : State) (c : Nat) (lc exe : Bool) (k : Nat) (hf : EffectKept f)
    (h : Kept s0 s) : Kept s0 (tryStart f s c lc exe k).1 := by
  unfold tryStart
  repeat' first
      | with_reducible assumption
      | with_reducible apply holdEntry_kept
      | with_reducible apply noteReads_kept
      | with_reducible apply displace_kept
      | (with_reducible refine updCore_kept ?_ (fun _ a b => ⟨a, b⟩))
      | exact hf.of h (by assumption)
      | exact hf
      | with_reducible apply tryStart_kept
      | with_reducible apply failHere_kept
      | with_reducible apply failJob_kept
      | with_reducible apply setEntry_kept
      | with_reducible apply bump_kept
      | with_reducible apply nextPc_kept
      | (with_reducible refine updTask_kept ?_ (fun t p => by rw [setQueue_lc]; exact p))
      | (fail_if_no_progress with_reducible refine Kept.lit ?_ (fun _ p => p))
      | split
      | dsimp only

theorem issueEngine_kept {s0 : State} (exe : Bool) (op : BitVec 8) (b : Body) (fault : Option Nat) (order : List Nat)
    (wiOk : Bool) (word : Ctx → Res Unit) (f : Effect) (ident : Bool) (s : State) (c : Nat) (hf : EffectKept f)
    (h : Kept s0 s) : Kept s0 (issueEngine exe op b fault order wiOk word f ident s c) := by
  unfold issueEngine
  repeat' first
      | with_reducible assumption
      | with_reducible apply holdEntry_kept
      | with_reducible apply noteReads_kept
      | with_reducible apply displace_kept
      | (with_reducible refine updCore_kept ?_ (fun _ a b => ⟨a, b⟩))
      | exact hf.of h (by assumption)
      | exact hf
      | with_reducible apply tryStart_kept
      | with_reducible apply failHere_kept
      | with_reducible apply failJob_kept
      | with_reducible apply setEntry_kept
      | with_reducible apply bump_kept
      | with_reducible apply nextPc_kept
      | (with_reducible refine updTask_kept ?_ (fun t p => by rw [setQueue_lc]; exact p))
      | (fail_if_no_progress with_reducible refine Kept.lit ?_ (fun _ p => p))
      | split
      | dsimp only

end Sys2Proof.Machine
end

