-- ==== Sys2Proof/Laws/KeptEngine.lean ====
section
/-! SUPPORT. What the effects of the instructions of a backend core and the starts of their entries keep. `Kept` says what; one lemma per operation. -/

namespace Sys2Proof.Machine

set_option linter.unusedTactic false
set_option linter.unreachableTactic false

theorem numberLdt_kept {s0 : State} (x : Ctx) (g : Nat) (s : State) (p : LdtPlan) (h : Kept s0 s) :
    Kept s0 (numberLdt x g s p) := by
  cases p with
  | plain => exact h
  | _ => exact updTask_kept h fun _ e => e

theorem deliver_kept {s0 : State} (x : Ctx) (s : State) (y : Ctx) (src : Source) (t dst : Tile) (lo hi : Nat) (kept : Kept s0 s) :
    OkAll (Kept s0) (deliver x s y src t dst lo hi) := by
  unfold deliver
  repeat' first
      | with_reducible assumption
      | with_reducible apply scratchStores_kept
      | (with_reducible refine OkAll.bind (scratchStores_kept (s0 := s0) _ _ _ _ ?_) (fun _ _ => ?_))
      | (with_reducible refine okAll_kept (scratchStores_kept (s0 := s0) _ _ _ _ ?_) (by assumption))
      | (with_reducible refine OkAll.bindKept (s0 := s0) ?_ (fun _ _ => ?_))
      | (with_reducible refine OkAll.bind' (fun _ => ?_))
      | (with_reducible refine SomeAll.bind' (fun _ => ?_))
      | with_reducible apply okAll_mk
      | with_reducible apply okAll_pure
      | with_reducible apply someAll_mk
      | with_reducible apply someAll_pure
      | with_reducible apply bump_kept
      | with_reducible apply bumpIf_kept
      | with_reducible apply sillage_kept
      | (fail_if_no_progress with_reducible refine Kept.lit ?_ (fun _ p => p))
      | trivial
      | split
      | dsimp only

theorem deliverCopy_kept {s0 : State} (x : Ctx) (s : State) (y : Ctx) (src : Source) (t own dst : Tile) (lo hi : Nat) (kept : Kept s0 s) :
    OkAll (Kept s0) (deliverCopy x s y src t own dst lo hi) := by
  unfold deliverCopy
  repeat' first
      | with_reducible assumption
      | with_reducible apply scratchStores_kept
      | (with_reducible refine OkAll.bind (scratchStores_kept (s0 := s0) _ _ _ _ ?_) (fun _ _ => ?_))
      | (with_reducible refine okAll_kept (scratchStores_kept (s0 := s0) _ _ _ _ ?_) (by assumption))
      | (with_reducible refine OkAll.bindKept (s0 := s0) ?_ (fun _ _ => ?_))
      | (with_reducible refine OkAll.bindFst (s0 := s0) ?_ (fun _ _ => ?_))
      | (with_reducible refine OkAll.bindSnd (s0 := s0) ?_ (fun _ _ => ?_))
      | (with_reducible refine OkAll.bind' (fun _ => ?_))
      | (with_reducible refine SomeAll.bind' (fun _ => ?_))
      | with_reducible apply okAll_mk
      | with_reducible apply okAll_pure
      | with_reducible apply someAll_mk
      | with_reducible apply someAll_pure
      | with_reducible apply bump_kept
      | with_reducible apply bumpIf_kept
      | with_reducible apply sillage_kept
      | (fail_if_no_progress with_reducible refine Kept.lit ?_ (fun _ p => p))
      | trivial
      | split
      | dsimp only

theorem countDetach_kept {s0 : State} (s : State) (x : Ctx) (g rank core : Nat) (kept : Kept s0 s) :
    Kept s0 (countDetach s x g rank core) := by
  unfold countDetach
  repeat' first
      | with_reducible assumption
      | with_reducible apply bump_kept
      | with_reducible apply firstEvent_kept
      | with_reducible apply bumpIf_kept
      | with_reducible apply sillage_kept
      | (fail_if_no_progress with_reducible refine Kept.lit ?_ (fun _ p => p))
      | trivial
      | split
      | dsimp only

theorem sendPart_kept {s0 : State} (x : Ctx) (e : QEntry) (s : State) (g nth : Nat) (ge : GroupEntry) (src : Source) (t dst : Tile) (kept : Kept s0 s) :
    OkAll (fun r => Kept s0 r.st) (sendPart x e s g nth ge src t dst) := by
  unfold sendPart
  repeat' first
      | with_reducible assumption
      | with_reducible apply updJob_kept
      | with_reducible apply countDetach_kept
      | (with_reducible refine foldl_kept _ ?_ (fun _ _ _ => ?_))
      | (with_reducible refine foldl_keptP (get := Prod.fst) _ ?_ (fun _ _ _ => ?_))
      | (with_reducible refine foldl_keptP (get := Prod.snd) _ ?_ (fun _ _ _ => ?_))
      | (with_reducible refine OkAll.bindKept (s0 := s0) ?_ (fun _ _ => ?_))
      | (with_reducible refine OkAll.bind' (fun _ => ?_))
      | (with_reducible refine SomeAll.bind' (fun _ => ?_))
      | with_reducible apply okAll_mk
      | with_reducible apply okAll_pure
      | with_reducible apply someAll_mk
      | with_reducible apply someAll_pure
      | with_reducible apply bump_kept
      | with_reducible apply bumpIf_kept
      | with_reducible apply sillage_kept
      | (fail_if_no_progress with_reducible refine Kept.lit ?_ (fun _ p => p))
      | trivial
      | split
      | dsimp only

theorem receivePart_kept {s0 : State} (x : Ctx) (e : QEntry) (s : State) (g : Nat) (ge : GroupEntry) (kept : Kept s0 s) :
    OkAll (fun r => Kept s0 r.st) (receivePart x e s g ge) := by
  unfold receivePart
  repeat' first
      | with_reducible assumption
      | with_reducible apply updJob_kept
      | with_reducible apply deliver_kept
      | (with_reducible refine OkAll.bind (deliver_kept (s0 := s0) _ _ _ _ _ _ _ _ ?_) (fun _ _ => ?_))
      | (with_reducible refine okAll_kept (deliver_kept (s0 := s0) _ _ _ _ _ _ _ _ ?_) (by assumption))
      | with_reducible apply deliverCopy_kept
      | (with_reducible refine OkAll.bind (deliverCopy_kept (s0 := s0) _ _ _ _ _ _ _ _ _ ?_) (fun _ _ => ?_))
      | (with_reducible refine okAll_kept (deliverCopy_kept (s0 := s0) _ _ _ _ _ _ _ _ _ ?_) (by assumption))
      | (with_reducible refine OkAll.bindKept (s0 := s0) ?_ (fun _ _ => ?_))
      | (with_reducible refine OkAll.bind' (fun _ => ?_))
      | (with_reducible refine SomeAll.bind' (fun _ => ?_))
      | with_reducible apply okAll_mk
      | with_reducible apply okAll_pure
      | with_reducible apply someAll_mk
      | with_reducible apply someAll_pure
      | with_reducible apply numberLdt_kept
      | with_reducible apply bump_kept
      | with_reducible apply bumpIf_kept
      | with_reducible apply sillage_kept
      | (fail_if_no_progress with_reducible refine Kept.lit ?_ (fun _ p => p))
      | trivial
      | split
      | dsimp only

theorem ldtMove_kept {s0 : State} (x : Ctx) (e : QEntry) (s : State) (plan : LdtPlan) (nth : Nat) (src : Source) (t dst : Tile) (kept : Kept s0 s) :
    OkAll (fun r => Kept s0 r.st) (ldtMove x e s plan nth src t dst) := by
  unfold ldtMove
  repeat' first
      | with_reducible assumption
      | with_reducible apply scratchStores_kept
      | (with_reducible refine OkAll.bind (scratchStores_kept (s0 := s0) _ _ _ _ ?_) (fun _ _ => ?_))
      | (with_reducible refine okAll_kept (scratchStores_kept (s0 := s0) _ _ _ _ ?_) (by assumption))
      | with_reducible apply sendPart_kept
      | (with_reducible refine OkAll.bind (sendPart_kept (s0 := s0) _ _ _ _ _ _ _ _ _ ?_) (fun _ _ => ?_))
      | (with_reducible refine okAll_snd (sendPart_kept (s0 := s0) _ _ _ _ _ _ _ _ _ ?_) (by assumption))
      | (with_reducible refine OkAll.bindKept (s0 := s0) ?_ (fun _ _ => ?_))
      | (with_reducible refine OkAll.bind' (fun _ => ?_))
      | (with_reducible refine SomeAll.bind' (fun _ => ?_))
      | with_reducible apply okAll_mk
      | with_reducible apply okAll_pure
      | with_reducible apply someAll_mk
      | with_reducible apply someAll_pure
      | with_reducible apply bump_kept
      | with_reducible apply bumpIf_kept
      | with_reducible apply sillage_kept
      | (fail_if_no_progress with_reducible refine Kept.lit ?_ (fun _ p => p))
      | trivial
      | split
      | dsimp only

theorem ldtEffect_kept {s0 : State}  (x : Ctx) (e : QEntry) (s : State) (kept : Kept s0 s) :
    OkAll (fun r => Kept s0 r.st) (ldtEffect x e s) := by
  unfold ldtEffect
  repeat' first
      | with_reducible assumption
      | (with_reducible refine updTask_kept ?_ (fun _ e => e))
      | (with_reducible refine updTask_kept ?_ (fun t e => ?_))
      | ((try dsimp only); first | exact e | (simp only [setQueue_lc]; exact e) | (split <;> exact e) | (split <;> split <;> exact e))
      | with_reducible apply receivePart_kept
      | (with_reducible refine OkAll.bind (receivePart_kept (s0 := s0) _ _ _ _ _ ?_) (fun _ _ => ?_))
      | (with_reducible refine okAll_snd (receivePart_kept (s0 := s0) _ _ _ _ _ ?_) (by assumption))
      | with_reducible apply ldtMove_kept
      | (with_reducible refine OkAll.bind (ldtMove_kept (s0 := s0) _ _ _ _ _ _ _ _ ?_) (fun _ _ => ?_))
      | (with_reducible refine okAll_snd (ldtMove_kept (s0 := s0) _ _ _ _ _ _ _ _ ?_) (by assumption))
      | (with_reducible refine OkAll.bindKept (s0 := s0) ?_ (fun _ _ => ?_))
      | (with_reducible refine OkAll.bind' (fun _ => ?_))
      | (with_reducible refine SomeAll.bind' (fun _ => ?_))
      | with_reducible apply okAll_mk
      | with_reducible apply okAll_pure
      | with_reducible apply someAll_mk
      | with_reducible apply someAll_pure
      | with_reducible apply numberLdt_kept
      | with_reducible apply bump_kept
      | with_reducible apply bumpIf_kept
      | with_reducible apply sillage_kept
      | (fail_if_no_progress with_reducible refine Kept.lit ?_ (fun _ p => p))
      | trivial
      | split
      | dsimp only

theorem sttEffect_kept {s0 : State}  (x : Ctx) (e : QEntry) (s : State) (kept : Kept s0 s) :
    OkAll (fun r => Kept s0 r.st) (sttEffect x e s) := by
  unfold sttEffect
  repeat' first
      | with_reducible assumption
      | with_reducible apply jobStores_kept
      | (with_reducible refine OkAll.bind (jobStores_kept (s0 := s0) _ _ _ ?_) (fun _ _ => ?_))
      | (with_reducible refine okAll_kept (jobStores_kept (s0 := s0) _ _ _ ?_) (by assumption))
      | (with_reducible refine OkAll.bindKept (s0 := s0) ?_ (fun _ _ => ?_))
      | (with_reducible refine OkAll.bind' (fun _ => ?_))
      | (with_reducible refine SomeAll.bind' (fun _ => ?_))
      | with_reducible apply okAll_mk
      | with_reducible apply okAll_pure
      | with_reducible apply someAll_mk
      | with_reducible apply someAll_pure
      | with_reducible apply bump_kept
      | with_reducible apply bumpIf_kept
      | with_reducible apply sillage_kept
      | (fail_if_no_progress with_reducible refine Kept.lit ?_ (fun _ p => p))
      | trivial
      | split
      | dsimp only

theorem gathEffect_kept {s0 : State}  (x : Ctx) (e : QEntry) (s : State) (kept : Kept s0 s) :
    OkAll (fun r => Kept s0 r.st) (gathEffect x e s) := by
  unfold gathEffect
  repeat' first
      | with_reducible assumption
      | with_reducible apply scratchStores_kept
      | (with_reducible refine OkAll.bind (scratchStores_kept (s0 := s0) _ _ _ _ ?_) (fun _ _ => ?_))
      | (with_reducible refine okAll_kept (scratchStores_kept (s0 := s0) _ _ _ _ ?_) (by assumption))
      | (with_reducible refine OkAll.bindKept (s0 := s0) ?_ (fun _ _ => ?_))
      | (with_reducible refine OkAll.bindFst (s0 := s0) ?_ (fun _ _ => ?_))
      | (with_reducible refine OkAll.bindSnd (s0 := s0) ?_ (fun _ _ => ?_))
      | (with_reducible refine OkAll.bind' (fun _ => ?_))
      | (with_reducible refine SomeAll.bind' (fun _ => ?_))
      | with_reducible apply okAll_mk
      | with_reducible apply okAll_pure
      | with_reducible apply someAll_mk
      | with_reducible apply someAll_pure
      | with_reducible apply bump_kept
      | with_reducible apply bumpIf_kept
      | with_reducible apply sillage_kept
      | (fail_if_no_progress with_reducible refine Kept.lit ?_ (fun _ p => p))
      | trivial
      | split
      | dsimp only

theorem adderElem_kept {s0 : State} (x : Ctx) (s : State) (f : Fmt) (a : Int) (v : Nat) (kept : Kept s0 s) :
    OkAll (fun p => Kept s0 p.2) (adderElem x s f a v) := by
  unfold adderElem
  repeat' first
      | with_reducible assumption
      | with_reducible apply markWatches_kept
      | with_reducible apply jobStores_kept
      | (with_reducible refine OkAll.bind (jobStores_kept (s0 := s0) _ _ _ ?_) (fun _ _ => ?_))
      | (with_reducible refine okAll_kept (jobStores_kept (s0 := s0) _ _ _ ?_) (by assumption))
      | with_reducible apply landAdd_kept
      | (with_reducible refine OkAll.bindKept (s0 := s0) ?_ (fun _ _ => ?_))
      | (with_reducible refine OkAll.bind' (fun _ => ?_))
      | (with_reducible refine SomeAll.bind' (fun _ => ?_))
      | with_reducible apply okAll_mk
      | with_reducible apply okAll_pure
      | with_reducible apply someAll_mk
      | with_reducible apply someAll_pure
      | with_reducible apply bump_kept
      | with_reducible apply bumpIf_kept
      | with_reducible apply sillage_kept
      | (fail_if_no_progress with_reducible refine Kept.lit ?_ (fun _ p => p))
      | trivial
      | split
      | dsimp only

theorem scatEffect_kept {s0 : State}  (x : Ctx) (e : QEntry) (s : State) (kept : Kept s0 s) :
    OkAll (fun r => Kept s0 r.st) (scatEffect x e s) := by
  unfold scatEffect
  repeat' first
      | with_reducible assumption
      | with_reducible apply jobStores_kept
      | (with_reducible refine OkAll.bind (jobStores_kept (s0 := s0) _ _ _ ?_) (fun _ _ => ?_))
      | (with_reducible refine okAll_kept (jobStores_kept (s0 := s0) _ _ _ ?_) (by assumption))
      | with_reducible apply adderElem_kept
      | (with_reducible refine OkAll.bind (adderElem_kept (s0 := s0) _ _ _ _ _ ?_) (fun _ _ => ?_))
      | (with_reducible refine okAll_snd (adderElem_kept (s0 := s0) _ _ _ _ _ ?_) (by assumption))
      | (with_reducible refine foldlM_keptP (get := Prod.fst) _ ?_ (fun _ _ _ => ?_))
      | (with_reducible refine foldlM_keptP (get := Prod.snd) _ ?_ (fun _ _ _ => ?_))
      | (with_reducible refine foldlM_kept _ ?_ (fun _ _ _ => ?_))
      | (with_reducible refine foldlMO_kept _ ?_ (fun _ _ _ => ?_))
      | (with_reducible refine OkAll.bindKept (s0 := s0) ?_ (fun _ _ => ?_))
      | (with_reducible refine OkAll.bindFst (s0 := s0) ?_ (fun _ _ => ?_))
      | (with_reducible refine OkAll.bindSnd (s0 := s0) ?_ (fun _ _ => ?_))
      | (with_reducible refine OkAll.bind' (fun _ => ?_))
      | (with_reducible refine SomeAll.bind' (fun _ => ?_))
      | with_reducible apply okAll_mk
      | with_reducible apply okAll_pure
      | with_reducible apply someAll_mk
      | with_reducible apply someAll_pure
      | with_reducible apply bump_kept
      | with_reducible apply bumpIf_kept
      | with_reducible apply sillage_kept
      | (fail_if_no_progress with_reducible refine Kept.lit ?_ (fun _ p => p))
      | trivial
      | split
      | dsimp only

theorem maddEffect_kept {s0 : State}  (x : Ctx) (e : QEntry) (s : State) (kept : Kept s0 s) :
    OkAll (fun r => Kept s0 r.st) (maddEffect x e s) := by
  unfold maddEffect
  repeat' first
      | with_reducible assumption
      | with_reducible apply scratchStores_kept
      | (with_reducible refine OkAll.bind (scratchStores_kept (s0 := s0) _ _ _ _ ?_) (fun _ _ => ?_))
      | (with_reducible refine okAll_kept (scratchStores_kept (s0 := s0) _ _ _ _ ?_) (by assumption))
      | with_reducible apply jobStores_kept
      | (with_reducible refine OkAll.bind (jobStores_kept (s0 := s0) _ _ _ ?_) (fun _ _ => ?_))
      | (with_reducible refine okAll_kept (jobStores_kept (s0 := s0) _ _ _ ?_) (by assumption))
      | with_reducible apply adderElem_kept
      | (with_reducible refine OkAll.bind (adderElem_kept (s0 := s0) _ _ _ _ _ ?_) (fun _ _ => ?_))
      | (with_reducible refine okAll_snd (adderElem_kept (s0 := s0) _ _ _ _ _ ?_) (by assumption))
      | (with_reducible refine foldlM_keptP (get := Prod.fst) _ ?_ (fun _ _ _ => ?_))
      | (with_reducible refine foldlM_keptP (get := Prod.snd) _ ?_ (fun _ _ _ => ?_))
      | (with_reducible refine foldlM_kept _ ?_ (fun _ _ _ => ?_))
      | (with_reducible refine foldlMO_kept _ ?_ (fun _ _ _ => ?_))
      | (with_reducible refine OkAll.bindKept (s0 := s0) ?_ (fun _ _ => ?_))
      | (with_reducible refine OkAll.bindFst (s0 := s0) ?_ (fun _ _ => ?_))
      | (with_reducible refine OkAll.bindSnd (s0 := s0) ?_ (fun _ _ => ?_))
      | (with_reducible refine OkAll.bind' (fun _ => ?_))
      | (with_reducible refine SomeAll.bind' (fun _ => ?_))
      | with_reducible apply okAll_mk
      | with_reducible apply okAll_pure
      | with_reducible apply someAll_mk
      | with_reducible apply someAll_pure
      | with_reducible apply bump_kept
      | with_reducible apply bumpIf_kept
      | with_reducible apply sillage_kept
      | (fail_if_no_progress with_reducible refine Kept.lit ?_ (fun _ p => p))
      | trivial
      | split
      | dsimp only

theorem catchUp_kept {s0 : State} (s : State) (jn : Nat) (j : Job) (d : Detached) (kept : Kept s0 s) :
    OkAll (Kept s0) (catchUp s jn j d) := by
  unfold catchUp
  repeat' first
      | with_reducible assumption
      | with_reducible apply updJob_kept
      | with_reducible apply setEntry_kept
      | with_reducible apply deliver_kept
      | (with_reducible refine OkAll.bind (deliver_kept (s0 := s0) _ _ _ _ _ _ _ _ ?_) (fun _ _ => ?_))
      | (with_reducible refine okAll_kept (deliver_kept (s0 := s0) _ _ _ _ _ _ _ _ ?_) (by assumption))
      | (with_reducible refine OkAll.bindKept (s0 := s0) ?_ (fun _ _ => ?_))
      | (with_reducible refine OkAll.bind' (fun _ => ?_))
      | (with_reducible refine SomeAll.bind' (fun _ => ?_))
      | with_reducible apply okAll_mk
      | with_reducible apply okAll_pure
      | with_reducible apply someAll_mk
      | with_reducible apply someAll_pure
      | with_reducible apply bump_kept
      | with_reducible apply bumpIf_kept
      | with_reducible apply sillage_kept
      | (fail_if_no_progress with_reducible refine Kept.lit ?_ (fun _ p => p))
      | trivial
      | split
      | dsimp only

theorem catchUpAll_kept {s0 : State} (s : State) (jn : Nat) (kept : Kept s0 s) :
    OkAll (Kept s0) (catchUpAll s jn) := by
  unfold catchUpAll
  repeat' first
      | with_reducible assumption
      | with_reducible apply catchUp_kept
      | (with_reducible refine OkAll.bind (catchUp_kept (s0 := s0) _ _ _ _ ?_) (fun _ _ => ?_))
      | (with_reducible refine okAll_kept (catchUp_kept (s0 := s0) _ _ _ _ ?_) (by assumption))
      | (with_reducible refine foldlM_keptP (get := Prod.fst) _ ?_ (fun _ _ _ => ?_))
      | (with_reducible refine foldlM_keptP (get := Prod.snd) _ ?_ (fun _ _ _ => ?_))
      | (with_reducible refine foldlM_kept _ ?_ (fun _ _ _ => ?_))
      | (with_reducible refine foldlMO_kept _ ?_ (fun _ _ _ => ?_))
      | with_reducible apply okAll_mk
      | with_reducible apply okAll_pure
      | with_reducible apply someAll_mk
      | with_reducible apply someAll_pure
      | with_reducible apply bump_kept
      | with_reducible apply bumpIf_kept
      | with_reducible apply sillage_kept
      | (fail_if_no_progress with_reducible refine Kept.lit ?_ (fun _ p => p))
      | trivial
      | split
      | dsimp only

theorem mcastFetch_kept {s0 : State} (s : State) (jn : Nat) (j : Job) (g : Nat) (ge : GroupEntry) (k : Nat) (e : QEntry) (m : McastPart) (kept : Kept s0 s) :
    OkAll (Kept s0) (mcastFetch s jn j g ge k e m) := by
  unfold mcastFetch
  repeat' first
      | with_reducible assumption
      | with_reducible apply updJob_kept
      | with_reducible apply setEntry_kept
      | with_reducible apply deliver_kept
      | (with_reducible refine OkAll.bind (deliver_kept (s0 := s0) _ _ _ _ _ _ _ _ ?_) (fun _ _ => ?_))
      | (with_reducible refine okAll_kept (deliver_kept (s0 := s0) _ _ _ _ _ _ _ _ ?_) (by assumption))
      | with_reducible apply countDetach_kept
      | with_reducible apply catchUp_kept
      | (with_reducible refine OkAll.bind (catchUp_kept (s0 := s0) _ _ _ _ ?_) (fun _ _ => ?_))
      | (with_reducible refine okAll_kept (catchUp_kept (s0 := s0) _ _ _ _ ?_) (by assumption))
      | (with_reducible refine foldl_kept _ ?_ (fun _ _ _ => ?_))
      | (with_reducible refine foldl_keptP (get := Prod.fst) _ ?_ (fun _ _ _ => ?_))
      | (with_reducible refine foldl_keptP (get := Prod.snd) _ ?_ (fun _ _ _ => ?_))
      | (with_reducible refine foldlM_keptP (get := Prod.fst) _ ?_ (fun _ _ _ => ?_))
      | (with_reducible refine foldlM_keptP (get := Prod.snd) _ ?_ (fun _ _ _ => ?_))
      | (with_reducible refine foldlM_kept _ ?_ (fun _ _ _ => ?_))
      | (with_reducible refine foldlMO_kept _ ?_ (fun _ _ _ => ?_))
      | (with_reducible refine OkAll.bindKept (s0 := s0) ?_ (fun _ _ => ?_))
      | (with_reducible refine OkAll.bindFst (s0 := s0) ?_ (fun _ _ => ?_))
      | (with_reducible refine OkAll.bindSnd (s0 := s0) ?_ (fun _ _ => ?_))
      | (with_reducible refine OkAll.bind' (fun _ => ?_))
      | (with_reducible refine SomeAll.bind' (fun _ => ?_))
      | with_reducible apply okAll_mk
      | with_reducible apply okAll_pure
      | with_reducible apply someAll_mk
      | with_reducible apply someAll_pure
      | with_reducible apply bump_kept
      | with_reducible apply bumpIf_kept
      | with_reducible apply sillage_kept
      | (fail_if_no_progress with_reducible refine Kept.lit ?_ (fun _ p => p))
      | trivial
      | split
      | dsimp only

theorem promote_kept {s0 : State} (x : Ctx) (e : QEntry) (s : State) (kept : Kept s0 s) :
    OkAll (fun r => Kept s0 r.st) (promote x e s) := by
  unfold promote
  repeat' first
      | with_reducible assumption
      | with_reducible apply ldtMove_kept
      | (with_reducible refine OkAll.bind (ldtMove_kept (s0 := s0) _ _ _ _ _ _ _ _ ?_) (fun _ _ => ?_))
      | (with_reducible refine okAll_snd (ldtMove_kept (s0 := s0) _ _ _ _ _ _ _ _ ?_) (by assumption))
      | (with_reducible refine OkAll.bindKept (s0 := s0) ?_ (fun _ _ => ?_))
      | (with_reducible refine OkAll.bind' (fun _ => ?_))
      | (with_reducible refine SomeAll.bind' (fun _ => ?_))
      | with_reducible apply okAll_mk
      | with_reducible apply okAll_pure
      | with_reducible apply someAll_mk
      | with_reducible apply someAll_pure
      | with_reducible apply bump_kept
      | with_reducible apply bumpIf_kept
      | with_reducible apply sillage_kept
      | (fail_if_no_progress with_reducible refine Kept.lit ?_ (fun _ p => p))
      | trivial
      | split
      | dsimp only

theorem storeAcc_be (lc : Bool) (k : Core) (col : Nat) (v : List (List Num)) : (storeAcc lc k col v).be = k.be := by
  cases lc <;> rfl

theorem storeAcc_lc (lc : Bool) (k : Core) (col : Nat) (v : List (List Num)) : (storeAcc lc k col v).lc = k.lc := by
  cases lc <;> rfl

theorem writeSel_kept {s0 : State} (x : Ctx) (e : QEntry) (s : State) (dst : Tile) (md : Rnd) (sat : Bool) (sel : Nat → Nat → Bool) (v : Nat → Nat → Num) (kept : Kept s0 s) :
    OkAll (Kept s0) (writeSel x e s dst md sat sel v) := by
  unfold writeSel
  repeat' first
      | with_reducible assumption
      | with_reducible apply doStores_kept
      | (with_reducible refine OkAll.bind (doStores_kept (s0 := s0) _ _ _ ?_) (fun _ _ => ?_))
      | (with_reducible refine okAll_kept (doStores_kept (s0 := s0) _ _ _ ?_) (by assumption))
      | with_reducible apply convAll_kept
      | (with_reducible refine pair_snd (convAll_kept (s0 := s0) _ _ _ _ _ _ ?_) (by assumption))
      | with_reducible apply countConv_kept
      | (with_reducible refine OkAll.bindKept (s0 := s0) ?_ (fun _ _ => ?_))
      | (with_reducible refine OkAll.bindFst (s0 := s0) ?_ (fun _ _ => ?_))
      | (with_reducible refine OkAll.bindSnd (s0 := s0) ?_ (fun _ _ => ?_))
      | (with_reducible refine OkAll.bind' (fun _ => ?_))
      | (with_reducible refine SomeAll.bind' (fun _ => ?_))
      | with_reducible apply okAll_mk
      | with_reducible apply okAll_pure
      | with_reducible apply someAll_mk
      | with_reducible apply someAll_pure
      | with_reducible apply bump_kept
      | with_reducible apply bumpIf_kept
      | with_reducible apply sillage_kept
      | (fail_if_no_progress with_reducible refine Kept.lit ?_ (fun _ p => p))
      | trivial
      | split
      | dsimp only

theorem writeNums_kept {s0 : State} (x : Ctx) (e : QEntry) (s : State) (dst : Tile) (md : Rnd) (sat : Bool) (v : Nat → Nat → Num) (kept : Kept s0 s) :
    OkAll (Kept s0) (writeNums x e s dst md sat v) := by
  unfold writeNums
  repeat' first
      | with_reducible assumption
      | with_reducible apply writeSel_kept
      | (with_reducible refine OkAll.bind (writeSel_kept (s0 := s0) _ _ _ _ _ _ _ _ ?_) (fun _ _ => ?_))
      | (with_reducible refine okAll_kept (writeSel_kept (s0 := s0) _ _ _ _ _ _ _ _ ?_) (by assumption))
      | with_reducible apply okAll_mk
      | with_reducible apply okAll_pure
      | with_reducible apply someAll_mk
      | with_reducible apply someAll_pure
      | with_reducible apply bump_kept
      | with_reducible apply bumpIf_kept
      | with_reducible apply sillage_kept
      | (fail_if_no_progress with_reducible refine Kept.lit ?_ (fun _ p => p))
      | trivial
      | split
      | dsimp only

theorem keepPasses_kept {s0 : State} (x : Ctx) (m : MatIns) (s : State) (p : Problem) (f : Fed) (kept : Kept s0 s) :
    Kept s0 (keepPasses x m s p f) := by
  unfold keepPasses
  refine updCore_kept kept fun k a b => ?_
  dsimp only
  split <;> split <;> (try simp only [storeAcc_be, storeAcc_lc]) <;> exact ⟨a, b⟩

theorem runProblems_kept {s0 : State} (x : Ctx) (e : QEntry) (m : MatIns) (s : State) (ps : List Problem) (kept : Kept s0 s) :
    OkAll (Kept s0) (runProblems x e m s ps) := by
  unfold runProblems
  repeat' first
      | with_reducible assumption
      | with_reducible apply coreFn_kept
      | (with_reducible refine pair_snd (coreFn_kept (s0 := s0) _ _ _ _ _ _ _ ?_) (by assumption))
      | with_reducible apply writeNums_kept
      | (with_reducible refine OkAll.bind (writeNums_kept (s0 := s0) _ _ _ _ _ _ _ ?_) (fun _ _ => ?_))
      | (with_reducible refine okAll_kept (writeNums_kept (s0 := s0) _ _ _ _ _ _ _ ?_) (by assumption))
      | with_reducible apply keepPasses_kept
      | (with_reducible refine foldl_kept _ ?_ (fun _ _ _ => ?_))
      | (with_reducible refine foldl_keptP (get := Prod.fst) _ ?_ (fun _ _ _ => ?_))
      | (with_reducible refine foldl_keptP (get := Prod.snd) _ ?_ (fun _ _ _ => ?_))
      | (with_reducible refine foldlM_keptP (get := Prod.fst) _ ?_ (fun _ _ _ => ?_))
      | (with_reducible refine foldlM_keptP (get := Prod.snd) _ ?_ (fun _ _ _ => ?_))
      | (with_reducible refine foldlM_kept _ ?_ (fun _ _ _ => ?_))
      | (with_reducible refine foldlMO_kept _ ?_ (fun _ _ _ => ?_))
      | (with_reducible refine OkAll.bindKept (s0 := s0) ?_ (fun _ _ => ?_))
      | (with_reducible refine OkAll.bind' (fun _ => ?_))
      | (with_reducible refine SomeAll.bind' (fun _ => ?_))
      | with_reducible apply okAll_mk
      | with_reducible apply okAll_pure
      | with_reducible apply someAll_mk
      | with_reducible apply someAll_pure
      | with_reducible apply bump_kept
      | with_reducible apply bumpIf_kept
      | with_reducible apply sillage_kept
      | (fail_if_no_progress with_reducible refine Kept.lit ?_ (fun _ p => p))
      | trivial
      | split
      | dsimp only

theorem identProblem_kept {s0 : State} (x : Ctx) (e : QEntry) (m : MatIns) (s : State) (p : Problem) (kept : Kept s0 s) :
    OkAll (Kept s0) (identProblem x e m s p) := by
  unfold identProblem
  repeat' first
      | with_reducible assumption
      | with_reducible apply writeNums_kept
      | (with_reducible refine OkAll.bind (writeNums_kept (s0 := s0) _ _ _ _ _ _ _ ?_) (fun _ _ => ?_))
      | (with_reducible refine okAll_kept (writeNums_kept (s0 := s0) _ _ _ _ _ _ _ ?_) (by assumption))
      | (with_reducible refine OkAll.bindKept (s0 := s0) ?_ (fun _ _ => ?_))
      | (with_reducible refine OkAll.bind' (fun _ => ?_))
      | (with_reducible refine SomeAll.bind' (fun _ => ?_))
      | with_reducible apply okAll_mk
      | with_reducible apply okAll_pure
      | with_reducible apply someAll_mk
      | with_reducible apply someAll_pure
      | with_reducible apply bump_kept
      | with_reducible apply bumpIf_kept
      | with_reducible apply sillage_kept
      | (fail_if_no_progress with_reducible refine Kept.lit ?_ (fun _ p => p))
      | trivial
      | split
      | dsimp only

theorem matEffect_kept {s0 : State} (m : Body → MatIns) (x : Ctx) (e : QEntry) (s : State) (kept : Kept s0 s) :
    OkAll (fun r => Kept s0 r.st) (matEffect m x e s) := by
  unfold matEffect
  repeat' first
      | with_reducible assumption
      | with_reducible apply runProblems_kept
      | (with_reducible refine OkAll.bind (runProblems_kept (s0 := s0) _ _ _ _ _ ?_) (fun _ _ => ?_))
      | (with_reducible refine okAll_kept (runProblems_kept (s0 := s0) _ _ _ _ _ ?_) (by assumption))
      | with_reducible apply identProblem_kept
      | (with_reducible refine OkAll.bind (identProblem_kept (s0 := s0) _ _ _ _ _ ?_) (fun _ _ => ?_))
      | (with_reducible refine okAll_kept (identProblem_kept (s0 := s0) _ _ _ _ _ ?_) (by assumption))
      | (with_reducible refine foldlM_keptP (get := Prod.fst) _ ?_ (fun _ _ _ => ?_))
      | (with_reducible refine foldlM_keptP (get := Prod.snd) _ ?_ (fun _ _ _ => ?_))
      | (with_reducible refine foldlM_kept _ ?_ (fun _ _ _ => ?_))
      | (with_reducible refine foldlMO_kept _ ?_ (fun _ _ _ => ?_))
      | (with_reducible refine OkAll.bindKept (s0 := s0) ?_ (fun _ _ => ?_))
      | (with_reducible refine OkAll.bindFst (s0 := s0) ?_ (fun _ _ => ?_))
      | (with_reducible refine OkAll.bindSnd (s0 := s0) ?_ (fun _ _ => ?_))
      | (with_reducible refine OkAll.bind' (fun _ => ?_))
      | (with_reducible refine SomeAll.bind' (fun _ => ?_))
      | with_reducible apply okAll_mk
      | with_reducible apply okAll_pure
      | with_reducible apply someAll_mk
      | with_reducible apply someAll_pure
      | with_reducible apply bump_kept
      | with_reducible apply bumpIf_kept
      | with_reducible apply sillage_kept
      | (fail_if_no_progress with_reducible refine Kept.lit ?_ (fun _ p => p))
      | trivial
      | split
      | dsimp only

theorem ewuEffect_kept {s0 : State}  (x : Ctx) (e : QEntry) (s : State) (kept : Kept s0 s) :
    OkAll (fun r => Kept s0 r.st) (ewuEffect x e s) := by
  unfold ewuEffect
  repeat' first
      | with_reducible assumption
      | with_reducible apply coreFn_kept
      | (with_reducible refine pair_snd (coreFn_kept (s0 := s0) _ _ _ _ _ _ _ ?_) (by assumption))
      | with_reducible apply writeNums_kept
      | (with_reducible refine OkAll.bind (writeNums_kept (s0 := s0) _ _ _ _ _ _ _ ?_) (fun _ _ => ?_))
      | (with_reducible refine okAll_kept (writeNums_kept (s0 := s0) _ _ _ _ _ _ _ ?_) (by assumption))
      | (with_reducible refine OkAll.bindKept (s0 := s0) ?_ (fun _ _ => ?_))
      | (with_reducible refine OkAll.bindFst (s0 := s0) ?_ (fun _ _ => ?_))
      | (with_reducible refine OkAll.bindSnd (s0 := s0) ?_ (fun _ _ => ?_))
      | (with_reducible refine OkAll.bind' (fun _ => ?_))
      | (with_reducible refine SomeAll.bind' (fun _ => ?_))
      | with_reducible apply okAll_mk
      | with_reducible apply okAll_pure
      | with_reducible apply someAll_mk
      | with_reducible apply someAll_pure
      | with_reducible apply bump_kept
      | with_reducible apply bumpIf_kept
      | with_reducible apply sillage_kept
      | (fail_if_no_progress with_reducible refine Kept.lit ?_ (fun _ p => p))
      | trivial
      | split
      | dsimp only

theorem ewbEffect_kept {s0 : State}  (x : Ctx) (e : QEntry) (s : State) (kept : Kept s0 s) :
    OkAll (fun r => Kept s0 r.st) (ewbEffect x e s) := by
  unfold ewbEffect
  repeat' first
      | with_reducible assumption
      | with_reducible apply writeNums_kept
      | (with_reducible refine OkAll.bind (writeNums_kept (s0 := s0) _ _ _ _ _ _ _ ?_) (fun _ _ => ?_))
      | (with_reducible refine okAll_kept (writeNums_kept (s0 := s0) _ _ _ _ _ _ _ ?_) (by assumption))
      | (with_reducible refine OkAll.bindKept (s0 := s0) ?_ (fun _ _ => ?_))
      | (with_reducible refine OkAll.bind' (fun _ => ?_))
      | (with_reducible refine SomeAll.bind' (fun _ => ?_))
      | with_reducible apply okAll_mk
      | with_reducible apply okAll_pure
      | with_reducible apply someAll_mk
      | with_reducible apply someAll_pure
      | with_reducible apply bump_kept
      | with_reducible apply bumpIf_kept
      | with_reducible apply sillage_kept
      | (fail_if_no_progress with_reducible refine Kept.lit ?_ (fun _ p => p))
      | trivial
      | split
      | dsimp only

theorem actEffect_kept {s0 : State}  (x : Ctx) (e : QEntry) (s : State) (kept : Kept s0 s) :
    OkAll (fun r => Kept s0 r.st) (actEffect x e s) := by
  unfold actEffect
  repeat' first
      | with_reducible assumption
      | with_reducible apply coreFn_kept
      | (with_reducible refine pair_snd (coreFn_kept (s0 := s0) _ _ _ _ _ _ _ ?_) (by assumption))
      | with_reducible apply writeNums_kept
      | (with_reducible refine OkAll.bind (writeNums_kept (s0 := s0) _ _ _ _ _ _ _ ?_) (fun _ _ => ?_))
      | (with_reducible refine okAll_kept (writeNums_kept (s0 := s0) _ _ _ _ _ _ _ ?_) (by assumption))
      | (with_reducible refine OkAll.bindKept (s0 := s0) ?_ (fun _ _ => ?_))
      | (with_reducible refine OkAll.bind' (fun _ => ?_))
      | (with_reducible refine SomeAll.bind' (fun _ => ?_))
      | with_reducible apply okAll_mk
      | with_reducible apply okAll_pure
      | with_reducible apply someAll_mk
      | with_reducible apply someAll_pure
      | with_reducible apply bump_kept
      | with_reducible apply bumpIf_kept
      | with_reducible apply sillage_kept
      | (fail_if_no_progress with_reducible refine Kept.lit ?_ (fun _ p => p))
      | trivial
      | split
      | dsimp only

theorem cvtEffect_kept {s0 : State}  (x : Ctx) (e : QEntry) (s : State) (kept : Kept s0 s) :
    OkAll (fun r => Kept s0 r.st) (cvtEffect x e s) := by
  unfold cvtEffect
  repeat' first
      | with_reducible assumption
      | with_reducible apply scratchStores_kept
      | (with_reducible refine OkAll.bind (scratchStores_kept (s0 := s0) _ _ _ _ ?_) (fun _ _ => ?_))
      | (with_reducible refine okAll_kept (scratchStores_kept (s0 := s0) _ _ _ _ ?_) (by assumption))
      | with_reducible apply drawn_kept
      | with_reducible apply countSpecial_kept
      | with_reducible apply writeNums_kept
      | (with_reducible refine OkAll.bind (writeNums_kept (s0 := s0) _ _ _ _ _ _ _ ?_) (fun _ _ => ?_))
      | (with_reducible refine okAll_kept (writeNums_kept (s0 := s0) _ _ _ _ _ _ _ ?_) (by assumption))
      | (with_reducible refine OkAll.bindKept (s0 := s0) ?_ (fun _ _ => ?_))
      | (with_reducible refine OkAll.bindFst (s0 := s0) ?_ (fun _ _ => ?_))
      | (with_reducible refine OkAll.bindSnd (s0 := s0) ?_ (fun _ _ => ?_))
      | (with_reducible refine OkAll.bind' (fun _ => ?_))
      | (with_reducible refine SomeAll.bind' (fun _ => ?_))
      | with_reducible apply okAll_mk
      | with_reducible apply okAll_pure
      | with_reducible apply someAll_mk
      | with_reducible apply someAll_pure
      | with_reducible apply bump_kept
      | with_reducible apply bumpIf_kept
      | with_reducible apply sillage_kept
      | (fail_if_no_progress with_reducible refine Kept.lit ?_ (fun _ p => p))
      | trivial
      | split
      | dsimp only

theorem kvUse_kept {s0 : State} (s : State) (k : KvSrc) (h : Kept s0 s) : Kept s0 (kvUse s k) := by
  cases k with
  | tile t =>
    show Kept s0 (if isMx t.fmt then _ else _)
    split
    · exact Kept.lit h (fun _ p => p)
    · exact h
  | seq k => exact kvTouch_kept s k h

theorem storeAccs_be (lc : Bool) (l : List (List (List Num))) (k : Core) :
    (l.foldl (fun k v => storeAcc lc k 0 v) k).be = k.be ∧ (l.foldl (fun k v => storeAcc lc k 0 v) k).lc = k.lc := by
  induction l generalizing k with
  | nil => exact ⟨rfl, rfl⟩
  | cons v l ih => rw [List.foldl_cons, (ih _).1, (ih _).2]; exact ⟨storeAcc_be .., storeAcc_lc ..⟩

theorem kvPasses_kept {s0 : State} (x : Ctx) (s : State) (depth outer inner : Nat) (column : Nat → Nat → Nat → List Nat)
    (banks : List (List (List Num))) (kept : Kept s0 s) : Kept s0 (kvPasses x s depth outer inner column banks) := by
  unfold kvPasses
  refine updCore_kept kept fun k a b => ?_
  dsimp only
  split
  · exact ⟨a, b⟩
  · rw [(storeAccs_be _ _ _).1, (storeAccs_be _ _ _).2]
    exact ⟨a, b⟩

theorem writeCodes_kept {s0 : State} (x : Ctx) (s : State) (t : Tile) (v : Nat → Nat → Nat) (kept : Kept s0 s) :
    OkAll (Kept s0) (writeCodes x s t v) := by
  unfold writeCodes
  repeat' first
      | with_reducible assumption
      | with_reducible apply doStores_kept
      | (with_reducible refine OkAll.bind (doStores_kept (s0 := s0) _ _ _ ?_) (fun _ _ => ?_))
      | (with_reducible refine okAll_kept (doStores_kept (s0 := s0) _ _ _ ?_) (by assumption))
      | (with_reducible refine OkAll.bindKept (s0 := s0) ?_ (fun _ _ => ?_))
      | (with_reducible refine OkAll.bind' (fun _ => ?_))
      | (with_reducible refine SomeAll.bind' (fun _ => ?_))
      | with_reducible apply okAll_mk
      | with_reducible apply okAll_pure
      | with_reducible apply someAll_mk
      | with_reducible apply someAll_pure
      | with_reducible apply bump_kept
      | with_reducible apply bumpIf_kept
      | with_reducible apply sillage_kept
      | (fail_if_no_progress with_reducible refine Kept.lit ?_ (fun _ p => p))
      | trivial
      | split
      | dsimp only

theorem attsEffect_kept {s0 : State}  (x : Ctx) (e : QEntry) (s : State) (kept : Kept s0 s) :
    OkAll (fun r => Kept s0 r.st) (attsEffect x e s) := by
  unfold attsEffect
  repeat' first
      | with_reducible assumption
      | with_reducible apply coreFn_kept
      | (with_reducible refine pair_snd (coreFn_kept (s0 := s0) _ _ _ _ _ _ _ ?_) (by assumption))
      | with_reducible apply writeNums_kept
      | (with_reducible refine OkAll.bind (writeNums_kept (s0 := s0) _ _ _ _ _ _ _ ?_) (fun _ _ => ?_))
      | (with_reducible refine okAll_kept (writeNums_kept (s0 := s0) _ _ _ _ _ _ _ ?_) (by assumption))
      | with_reducible apply kvPasses_kept
      | with_reducible apply writeCodes_kept
      | (with_reducible refine OkAll.bind (writeCodes_kept (s0 := s0) _ _ _ _ ?_) (fun _ _ => ?_))
      | (with_reducible refine okAll_kept (writeCodes_kept (s0 := s0) _ _ _ _ ?_) (by assumption))
      | (with_reducible refine foldl_kept _ ?_ (fun _ _ _ => ?_))
      | (with_reducible refine foldl_keptP (get := Prod.fst) _ ?_ (fun _ _ _ => ?_))
      | (with_reducible refine foldl_keptP (get := Prod.snd) _ ?_ (fun _ _ _ => ?_))
      | (with_reducible refine OkAll.bindKept (s0 := s0) ?_ (fun _ _ => ?_))
      | (with_reducible refine OkAll.bindFst (s0 := s0) ?_ (fun _ _ => ?_))
      | (with_reducible refine OkAll.bindSnd (s0 := s0) ?_ (fun _ _ => ?_))
      | (with_reducible refine OkAll.bind' (fun _ => ?_))
      | (with_reducible refine SomeAll.bind' (fun _ => ?_))
      | with_reducible apply okAll_mk
      | with_reducible apply okAll_pure
      | with_reducible apply someAll_mk
      | with_reducible apply someAll_pure
      | with_reducible apply kvUse_kept
      | with_reducible apply bump_kept
      | with_reducible apply bumpIf_kept
      | with_reducible apply sillage_kept
      | (fail_if_no_progress with_reducible refine Kept.lit ?_ (fun _ p => p))
      | trivial
      | split
      | dsimp only

theorem attvEffect_kept {s0 : State}  (x : Ctx) (e : QEntry) (s : State) (kept : Kept s0 s) :
    OkAll (fun r => Kept s0 r.st) (attvEffect x e s) := by
  unfold attvEffect
  repeat' first
      | with_reducible assumption
      | with_reducible apply bump_kept
      | with_reducible apply firstEvent_kept
      | with_reducible apply doStores_kept
      | (with_reducible refine OkAll.bind (doStores_kept (s0 := s0) _ _ _ ?_) (fun _ _ => ?_))
      | (with_reducible refine okAll_kept (doStores_kept (s0 := s0) _ _ _ ?_) (by assumption))
      | with_reducible apply convAll_kept
      | (with_reducible refine pair_snd (convAll_kept (s0 := s0) _ _ _ _ _ _ ?_) (by assumption))
      | with_reducible apply countSpecial_kept
      | with_reducible apply coreFn_kept
      | (with_reducible refine pair_snd (coreFn_kept (s0 := s0) _ _ _ _ _ _ _ ?_) (by assumption))
      | with_reducible apply kvPasses_kept
      | with_reducible apply writeCodes_kept
      | (with_reducible refine OkAll.bind (writeCodes_kept (s0 := s0) _ _ _ _ ?_) (fun _ _ => ?_))
      | (with_reducible refine okAll_kept (writeCodes_kept (s0 := s0) _ _ _ _ ?_) (by assumption))
      | (with_reducible refine foldl_kept _ ?_ (fun _ _ _ => ?_))
      | (with_reducible refine foldl_keptP (get := Prod.fst) _ ?_ (fun _ _ _ => ?_))
      | (with_reducible refine foldl_keptP (get := Prod.snd) _ ?_ (fun _ _ _ => ?_))
      | (with_reducible refine OkAll.bindKept (s0 := s0) ?_ (fun _ _ => ?_))
      | (with_reducible refine OkAll.bindFst (s0 := s0) ?_ (fun _ _ => ?_))
      | (with_reducible refine OkAll.bindSnd (s0 := s0) ?_ (fun _ _ => ?_))
      | (with_reducible refine OkAll.bind' (fun _ => ?_))
      | (with_reducible refine SomeAll.bind' (fun _ => ?_))
      | with_reducible apply okAll_mk
      | with_reducible apply okAll_pure
      | with_reducible apply someAll_mk
      | with_reducible apply someAll_pure
      | with_reducible apply kvUse_kept
      | with_reducible apply bumpIf_kept
      | with_reducible apply sillage_kept
      | (fail_if_no_progress with_reducible refine Kept.lit ?_ (fun _ p => p))
      | trivial
      | split
      | dsimp only

theorem updSlot_kept {s0 : State} (s : State) (c : Nat) (lc : Bool) (n : Nat) (f : Slot → Slot) (kept : Kept s0 s) :
    Kept s0 (updSlot s c lc n f) := by
  unfold updSlot
  repeat' first
      | with_reducible assumption
      | (with_reducible refine updTask_kept ?_ (fun _ e => e))
      | (with_reducible refine updTask_kept ?_ (fun t e => ?_))
      | ((try dsimp only); first | exact e | (simp only [setQueue_lc]; exact e) | (split <;> exact e) | (split <;> split <;> exact e))
      | with_reducible apply bump_kept
      | with_reducible apply bumpIf_kept
      | with_reducible apply sillage_kept
      | (fail_if_no_progress with_reducible refine Kept.lit ?_ (fun _ p => p))
      | trivial
      | split
      | dsimp only

theorem writeRing_kept {s0 : State} (s : State) (asid : Nat) (sl : Slot) (from0 : Nat) (rows : List (List Num)) (kept : Kept s0 s) :
    OkAll (Kept s0) (writeRing s asid sl from0 rows) := by
  unfold writeRing
  repeat' first
      | with_reducible assumption
      | with_reducible apply jobWrites_kept
      | (with_reducible refine OkAll.bind (jobWrites_kept (s0 := s0) _ _ _ _ ?_) (fun _ _ => ?_))
      | (with_reducible refine okAll_kept (jobWrites_kept (s0 := s0) _ _ _ _ ?_) (by assumption))
      | (with_reducible refine foldlM_keptP (get := Prod.fst) _ ?_ (fun _ _ _ => ?_))
      | (with_reducible refine foldlM_keptP (get := Prod.snd) _ ?_ (fun _ _ _ => ?_))
      | (with_reducible refine foldlM_kept _ ?_ (fun _ _ _ => ?_))
      | (with_reducible refine foldlMO_kept _ ?_ (fun _ _ _ => ?_))
      | with_reducible apply okAll_mk
      | with_reducible apply okAll_pure
      | with_reducible apply someAll_mk
      | with_reducible apply someAll_pure
      | with_reducible apply bump_kept
      | with_reducible apply bumpIf_kept
      | with_reducible apply sillage_kept
      | (fail_if_no_progress with_reducible refine Kept.lit ?_ (fun _ p => p))
      | trivial
      | split
      | dsimp only

theorem reanchor_kept {s0 : State} (x : Ctx) (s : State) (ins : RecIns) (n : Nat) (kept : Kept s0 s) :
    OkAll (Kept s0) (reanchor x s ins n) := by
  unfold reanchor
  repeat' first
      | with_reducible assumption
      | with_reducible apply bump_kept
      | with_reducible apply jobWrites_kept
      | (with_reducible refine OkAll.bind (jobWrites_kept (s0 := s0) _ _ _ _ ?_) (fun _ _ => ?_))
      | (with_reducible refine okAll_kept (jobWrites_kept (s0 := s0) _ _ _ _ ?_) (by assumption))
      | with_reducible apply doStores_kept
      | (with_reducible refine OkAll.bind (doStores_kept (s0 := s0) _ _ _ ?_) (fun _ _ => ?_))
      | (with_reducible refine okAll_kept (doStores_kept (s0 := s0) _ _ _ ?_) (by assumption))
      | with_reducible apply updSlot_kept
      | (with_reducible refine OkAll.bindKept (s0 := s0) ?_ (fun _ _ => ?_))
      | (with_reducible refine OkAll.bindFst (s0 := s0) ?_ (fun _ _ => ?_))
      | (with_reducible refine OkAll.bindSnd (s0 := s0) ?_ (fun _ _ => ?_))
      | (with_reducible refine OkAll.bind' (fun _ => ?_))
      | (with_reducible refine SomeAll.bind' (fun _ => ?_))
      | with_reducible apply okAll_mk
      | with_reducible apply okAll_pure
      | with_reducible apply someAll_mk
      | with_reducible apply someAll_pure
      | with_reducible apply bumpIf_kept
      | with_reducible apply sillage_kept
      | (fail_if_no_progress with_reducible refine Kept.lit ?_ (fun _ p => p))
      | trivial
      | split
      | dsimp only

theorem scanEffect_kept {s0 : State} (x : Ctx) (e : QEntry) (s : State) (kept : Kept s0 s) :
    OkAll (fun r => Kept s0 r.st) (scanEffect x e s) := by
  unfold scanEffect
  extract_lets
  refine OkAll.bind' fun ins => ?_
  extract_lets
  split
  · exact kept
  · refine OkAll.bind' fun xv => OkAll.bind' fun pv => OkAll.bind' fun sv => OkAll.bind' fun old => ?_
    extract_lets
    refine OkAll.bind' fun sts => ?_
    refine OkAll.bindKept (s0 := s0) (doStores_kept _ _ _ kept) fun s1 k1 => ?_
    extract_lets
    split
    rename_i cs s2 ec
    have k2 : Kept s0 s2 := pair_snd (convAll_kept (s0 := s0) _ _ _ _ _ _ k1) ec
    refine OkAll.bindKept (s0 := s0) (doStores_kept _ _ _ k2) fun s3 k3 => ?_
    extract_lets s4
    have k4 : Kept s0 s4 := countConv_kept _ _ _ _ k3
    clear_value s4
    split
    · exact k4
    · split
      · exact k4
      · extract_lets jp
        have hj : ∀ a, Kept s0 a → OkAll (fun r => Kept s0 r.st) (jp a) := by
          intro s5 k5
          unfold jp
          exact OkAll.bindKept (s0 := s0) (reanchor_kept _ _ _ _ (updSlot_kept _ _ _ _ _ k5)) fun s7 k7 => k7
        clear_value jp
        split
        · exact OkAll.bindKept (s0 := s0) (okAll_pure k4) hj
        · exact OkAll.bindKept (s0 := s0) (writeRing_kept _ _ _ _ _ k4) hj

theorem lconvEffect_kept {s0 : State} (x : Ctx) (e : QEntry) (s : State) (kept : Kept s0 s) :
    OkAll (fun r => Kept s0 r.st) (lconvEffect x e s) := by
  unfold lconvEffect
  extract_lets b L seed emit md
  clear_value b L seed emit md
  refine OkAll.bind' fun ins => ?_
  extract_lets stT touch rows n zeroState
  clear_value stT touch rows n zeroState
  refine OkAll.bind' fun xv => OkAll.bind' fun pv => ?_
  extract_lets f1 jp
  have hj : ∀ a, OkAll (fun r => Kept s0 r.st) (jp a) := by
    intro sv
    unfold jp
    beta_reduce
    extract_lets _ _ _ jp2
    have hj : ∀ a, Kept s0 a → OkAll (fun r => Kept s0 r.st) (jp2 a) := by
      intro s1 k1
      unfold jp2
      beta_reduce
      split
      rename_i cs s2 ec
      have k2 : Kept s0 s2 := pair_snd (convAll_kept (s0 := s0) _ _ _ _ _ _ k1) ec
      refine OkAll.bindKept (s0 := s0) (doStores_kept _ _ _ k2) fun s3 k3 => ?_
      extract_lets s4
      have k4 : Kept s0 s4 := countConv_kept _ _ _ _ k3
      clear_value s4
      split
      · exact k4
      · split
        · exact k4
        · extract_lets from0 s5 jp3 jp4
          have k5 : Kept s0 s5 := by
            unfold s5
            split
            · exact k4
            · exact updSlot_kept _ _ _ _ _ k4
          have hj : ∀ a, Kept s0 a → OkAll (fun r => Kept s0 r.st) (jp3 a) := fun a h => h
          clear_value s5 jp3
          have hj4 : ∀ a, Kept s0 a → OkAll (fun r => Kept s0 r.st) (jp4 a) := by
            intro s6 k6
            unfold jp4
            refine OkAll.bindKept (s0 := s0) (writeRing_kept _ _ _ _ _ k6) fun s7 k7 => ?_
            split
            · exact OkAll.bindKept (s0 := s0) (reanchor_kept _ _ _ _ k7) hj
            · exact hj _ k7
          clear_value jp4
          split
          · exact k5
          · split
            · exact hj4 _ k5
            · exact OkAll.bindKept (s0 := s0) (jobWrites_kept _ _ _ _ k5) hj4
    clear_value jp2
    split
    · exact hj _ kept
    · exact OkAll.bind' fun _ => OkAll.bindKept (s0 := s0) (doStores_kept _ _ _ kept) hj
  clear_value jp
  split
  · exact OkAll.bind' hj
  · exact hj _

theorem issueSeq_kept {s0 : State} (op : BitVec 8) (b : Body) (word : Res Unit) (run : Ctx → State → Res State) (s : State)
    (c : Nat) (hr : ∀ x s, Kept s0 s → OkAll (Kept s0) (run x s)) (h : Kept s0 s) : Kept s0 (issueSeq op b word run s c) := by
  unfold issueSeq
  split
  · exact h
  · split
    · exact h
    · split
      · exact failHere_kept _ _ _ h
      · refine okAll_kept ?_ (by assumption)
        exact OkAll.bind' fun _ => OkAll.bind' fun _ => hr _ _ h

theorem seqDone_kept {s0 : State} (x : Ctx) (b : Body) (s : State) (kept : Kept s0 s) :
    Kept s0 (seqDone x b s) := by
  unfold seqDone
  repeat' first
      | with_reducible assumption
      | with_reducible apply semAdd_kept
      | (with_reducible refine OkAll.bindKept (s0 := s0) ?_ (fun _ _ => ?_))
      | (with_reducible refine OkAll.bind' (fun _ => ?_))
      | (with_reducible refine SomeAll.bind' (fun _ => ?_))
      | with_reducible apply bump_kept
      | with_reducible apply bumpIf_kept
      | with_reducible apply sillage_kept
      | (fail_if_no_progress with_reducible refine Kept.lit ?_ (fun _ p => p))
      | trivial
      | split
      | dsimp only

theorem skiplClamp_kept {s0 : State} (x : Ctx) (s : State) (lix : Nat) (len : Int) (v pmax : Nat) (kept : Kept s0 s) :
    Kept s0 (skiplClamp x s lix len v pmax) := by
  unfold skiplClamp
  repeat' first
      | with_reducible assumption
      | with_reducible apply sillage_kept
      | with_reducible apply bump_kept
      | with_reducible apply raiseOk_kept
      | with_reducible apply setIx_kept
      | with_reducible apply bumpIf_kept
      | (fail_if_no_progress with_reducible refine Kept.lit ?_ (fun _ p => p))
      | trivial
      | split
      | dsimp only

theorem writeFstate_kept {s0 : State} (s : State) (g i : Nat) (kept : Kept s0 s) :
    Kept s0 (writeFstate s g i) := by
  unfold writeFstate
  repeat' first
      | with_reducible assumption
      | with_reducible apply jobWritesD_kept
      | with_reducible apply bump_kept
      | with_reducible apply bumpIf_kept
      | with_reducible apply sillage_kept
      | (fail_if_no_progress with_reducible refine Kept.lit ?_ (fun _ p => p))
      | trivial
      | split
      | dsimp only

theorem dropPage_kept {s0 : State} (s : State) (key : Nat) (kept : Kept s0 s) :
    Kept s0 (dropPage s key) := by
  unfold dropPage
  repeat' first
      | with_reducible assumption
      | with_reducible apply freeSlotAt_kept
      | with_reducible apply updPage_kept
      | with_reducible apply bump_kept
      | with_reducible apply bumpIf_kept
      | with_reducible apply sillage_kept
      | (fail_if_no_progress with_reducible refine Kept.lit ?_ (fun _ p => p))
      | trivial
      | split
      | dsimp only

theorem dropChunk_kept {s0 : State} (s : State) (key : Nat) (kept : Kept s0 s) :
    Kept s0 (dropChunk s key) := by
  unfold dropChunk
  repeat' first
      | with_reducible assumption
      | with_reducible apply freeSlotAt_kept
      | with_reducible apply updChunk_kept
      | with_reducible apply dropPage_kept
      | (with_reducible refine foldl_kept _ ?_ (fun _ _ _ => ?_))
      | (with_reducible refine foldl_keptP (get := Prod.fst) _ ?_ (fun _ _ _ => ?_))
      | (with_reducible refine foldl_keptP (get := Prod.snd) _ ?_ (fun _ _ _ => ?_))
      | with_reducible apply bump_kept
      | with_reducible apply bumpIf_kept
      | with_reducible apply sillage_kept
      | (fail_if_no_progress with_reducible refine Kept.lit ?_ (fun _ p => p))
      | trivial
      | split
      | dsimp only

theorem setTree_kept {s0 : State} (s : State) (d : Nat) (t : List TreeNode) (kept : Kept s0 s) :
    Kept s0 (setTree s d t) := by
  unfold setTree
  repeat' first
      | with_reducible assumption
      | with_reducible apply bump_kept
      | with_reducible apply bumpIf_kept
      | with_reducible apply sillage_kept
      | (fail_if_no_progress with_reducible refine Kept.lit ?_ (fun _ p => p))
      | trivial
      | split
      | dsimp only

theorem releaseNode_kept {s0 : State} (s : State) (d : Nat) (n : TreeNode) (kept : Kept s0 s) :
    Kept s0 (releaseNode s d n) := by
  unfold releaseNode
  repeat' first
      | with_reducible assumption
      | with_reducible apply updPage_kept
      | with_reducible apply dropPage_kept
      | with_reducible apply setTree_kept
      | (with_reducible refine foldl_kept _ ?_ (fun _ _ _ => ?_))
      | (with_reducible refine foldl_keptP (get := Prod.fst) _ ?_ (fun _ _ _ => ?_))
      | (with_reducible refine foldl_keptP (get := Prod.snd) _ ?_ (fun _ _ _ => ?_))
      | with_reducible apply bump_kept
      | with_reducible apply bumpIf_kept
      | with_reducible apply sillage_kept
      | (fail_if_no_progress with_reducible refine Kept.lit ?_ (fun _ p => p))
      | trivial
      | split
      | dsimp only

theorem releaseFor_kept {s0 : State} (n : Nat) (s : State) (d size m : Nat) (h : Kept s0 s) :
    Kept s0 (releaseFor n s d size m) := by
  induction n generalizing s with
  | zero => exact h
  | succ n ih =>
    unfold releaseFor
    repeat' first
        | with_reducible assumption
        | with_reducible apply ih
        | with_reducible apply releaseNode_kept
        | split
        | dsimp only

theorem allocKv_kept {s0 : State} (s : State) (d size : Nat) (res : Bool) (kept : Kept s0 s) :
    SomeAll (fun p => Kept s0 p.2) (allocKv s d size res) := by
  unfold allocKv
  repeat' first
      | with_reducible assumption
      | with_reducible apply allocSlot_kept
      | (with_reducible refine SomeAll.bind (allocSlot_kept (s0 := s0) _ _ _ _ ?_) (fun _ _ => ?_))
      | (with_reducible refine someAll_snd (allocSlot_kept (s0 := s0) _ _ _ _ ?_) (by assumption))
      | (with_reducible refine someAll_snd' (allocSlot_kept (s0 := s0) _ _ _ _ ?_) (by assumption))
      | with_reducible apply releaseFor_kept
      | with_reducible apply okAll_mk
      | with_reducible apply okAll_pure
      | with_reducible apply someAll_mk
      | with_reducible apply someAll_pure
      | with_reducible apply bump_kept
      | with_reducible apply bumpIf_kept
      | with_reducible apply sillage_kept
      | (fail_if_no_progress with_reducible refine Kept.lit ?_ (fun _ p => p))
      | trivial
      | split
      | dsimp only

theorem addMirror_kept {s0 : State} (s : State) (key d : Nat) (res : Bool) (kept : Kept s0 s) :
    Kept s0 (addMirror s key d res) := by
  unfold addMirror
  repeat' first
      | with_reducible assumption
      | with_reducible apply updPage_kept
      | with_reducible apply allocKv_kept
      | (with_reducible refine SomeAll.bind (allocKv_kept (s0 := s0) _ _ _ _ ?_) (fun _ _ => ?_))
      | (with_reducible refine someAll_snd (allocKv_kept (s0 := s0) _ _ _ _ ?_) (by assumption))
      | (with_reducible refine someAll_snd' (allocKv_kept (s0 := s0) _ _ _ _ ?_) (by assumption))
      | with_reducible apply bump_kept
      | with_reducible apply bumpIf_kept
      | with_reducible apply sillage_kept
      | (fail_if_no_progress with_reducible refine Kept.lit ?_ (fun _ p => p))
      | trivial
      | split
      | dsimp only

theorem syncMirror_kept {s0 : State} (s : State) (key : Nat) (kept : Kept s0 s) :
    Kept s0 (syncMirror s key) := by
  unfold syncMirror
  repeat' first
      | with_reducible assumption
      | with_reducible apply updPage_kept
      | with_reducible apply bump_kept
      | with_reducible apply bumpIf_kept
      | with_reducible apply sillage_kept
      | (fail_if_no_progress with_reducible refine Kept.lit ?_ (fun _ p => p))
      | trivial
      | split
      | dsimp only

theorem setLag_kept {s0 : State} (s : State) (g i : Nat) (kept : Kept s0 s) :
    Kept s0 (setLag s g i) := by
  unfold setLag
  repeat' first
      | with_reducible assumption
      | with_reducible apply updFuture_kept
      | with_reducible apply writeFstate_kept
      | with_reducible apply bump_kept
      | with_reducible apply bumpIf_kept
      | with_reducible apply sillage_kept
      | (fail_if_no_progress with_reducible refine Kept.lit ?_ (fun _ p => p))
      | trivial
      | split
      | dsimp only

theorem fitStore_kept {s0 : State} (s : State) (g i : Nat) (kept : Kept s0 s) : SomeAll (Kept s0) (fitStore s g i) := by
  unfold fitStore
  split
  · exact kept
  · extract_lets n t
    have k : Kept s0 t := foldl_kept _ kept fun _ _ h => freeSlotAt_kept _ _ h
    refine SomeAll.mapSnd (s0 := s0) (foldlMO_keptSnd _ k fun b _ h => ?_) fun a h => updFuture_kept _ _ _ _ h
    exact SomeAll.mapSnd (s0 := s0) (allocKv_kept _ _ _ _ h) fun a h => h

theorem ownChunk_kept {s0 : State} (s : State) (g i layer block : Nat) (kept : Kept s0 s) :
    SomeAll (fun p => Kept s0 p.2) (ownChunk s g i layer block) := by
  unfold ownChunk
  repeat' first
      | with_reducible assumption
      | with_reducible apply updFuture_kept
      | with_reducible apply updPage_kept
      | with_reducible apply allocKv_kept
      | (with_reducible refine SomeAll.bind (allocKv_kept (s0 := s0) _ _ _ _ ?_) (fun _ _ => ?_))
      | (with_reducible refine someAll_snd (allocKv_kept (s0 := s0) _ _ _ _ ?_) (by assumption))
      | (with_reducible refine someAll_snd' (allocKv_kept (s0 := s0) _ _ _ _ ?_) (by assumption))
      | (with_reducible refine SomeAll.mapSnd (s0 := s0) ?_ (fun _ _ => ?_))
      | (with_reducible refine SomeAll.mapKept (s0 := s0) ?_ (fun _ _ => ?_))
      | with_reducible apply fitStore_kept
      | (with_reducible refine SomeAll.bind (fitStore_kept (s0 := s0) _ _ _ ?_) (fun _ _ => ?_))
      | (with_reducible refine someAll_kept (fitStore_kept (s0 := s0) _ _ _ ?_) (by assumption))
      | (with_reducible refine SomeAll.mapSnd (s0 := s0) ?_ (fun _ _ => ?_))
      | (with_reducible refine SomeAll.mapKept (s0 := s0) ?_ (fun _ _ => ?_))
      | (with_reducible refine foldl_kept _ ?_ (fun _ _ _ => ?_))
      | (with_reducible refine foldl_keptP (get := Prod.fst) _ ?_ (fun _ _ _ => ?_))
      | (with_reducible refine foldl_keptP (get := Prod.snd) _ ?_ (fun _ _ _ => ?_))
      | with_reducible apply okAll_mk
      | with_reducible apply okAll_pure
      | with_reducible apply someAll_mk
      | with_reducible apply someAll_pure
      | (with_reducible refine SomeAll.map' (fun _ => ?_))
      | (refine SomeAll.bindSnd (s0 := s0) ?_ (fun _ _ => ?_))
      | with_reducible apply bump_kept
      | with_reducible apply bumpIf_kept
      | with_reducible apply sillage_kept
      | (fail_if_no_progress with_reducible refine Kept.lit ?_ (fun _ p => p))
      | trivial
      | split
      | dsimp only

theorem openPage_mirrorNew_kept {s0 : State} (s : State) (g i k d : Nat) (kept : Kept s0 s) :
    Kept s0 (openPage.mirrorNew s g i k d) := by
  unfold openPage.mirrorNew
  repeat' first
      | with_reducible assumption
      | with_reducible apply updFuture_kept
      | with_reducible apply addMirror_kept
      | with_reducible apply bump_kept
      | with_reducible apply bumpIf_kept
      | with_reducible apply sillage_kept
      | (fail_if_no_progress with_reducible refine Kept.lit ?_ (fun _ p => p))
      | trivial
      | split
      | dsimp only

theorem openPage_kept {s0 : State} (ok : Nat → Bool) (s : State) (g i layer block : Nat) (like : Option KvPage) (kept : Kept s0 s) :
    SomeAll (fun p => Kept s0 p.2) (openPage ok s g i layer block like) := by
  unfold openPage
  repeat' first
      | with_reducible assumption
      | with_reducible apply updFuture_kept
      | with_reducible apply allocKv_kept
      | (with_reducible refine SomeAll.bind (allocKv_kept (s0 := s0) _ _ _ _ ?_) (fun _ _ => ?_))
      | (with_reducible refine someAll_snd (allocKv_kept (s0 := s0) _ _ _ _ ?_) (by assumption))
      | (with_reducible refine someAll_snd' (allocKv_kept (s0 := s0) _ _ _ _ ?_) (by assumption))
      | (with_reducible refine SomeAll.mapSnd (s0 := s0) ?_ (fun _ _ => ?_))
      | (with_reducible refine SomeAll.mapKept (s0 := s0) ?_ (fun _ _ => ?_))
      | with_reducible apply openPage_mirrorNew_kept
      | with_reducible apply okAll_mk
      | with_reducible apply okAll_pure
      | with_reducible apply someAll_mk
      | with_reducible apply someAll_pure
      | (with_reducible refine SomeAll.map' (fun _ => ?_))
      | with_reducible apply bump_kept
      | with_reducible apply bumpIf_kept
      | with_reducible apply sillage_kept
      | (fail_if_no_progress with_reducible refine Kept.lit ?_ (fun _ p => p))
      | trivial
      | split
      | dsimp only

theorem ownPage_kept {s0 : State} (ok : Nat → Bool) (s : State) (g i layer block t : Nat) (kept : Kept s0 s) :
    SomeAll (fun p => Kept s0 p.2) (ownPage ok s g i layer block t) := by
  unfold ownPage
  repeat' first
      | with_reducible assumption
      | with_reducible apply bump_kept
      | with_reducible apply updChunk_kept
      | with_reducible apply dropPage_kept
      | with_reducible apply ownChunk_kept
      | (with_reducible refine SomeAll.bind (ownChunk_kept (s0 := s0) _ _ _ _ _ ?_) (fun _ _ => ?_))
      | (with_reducible refine someAll_snd (ownChunk_kept (s0 := s0) _ _ _ _ _ ?_) (by assumption))
      | (with_reducible refine someAll_snd' (ownChunk_kept (s0 := s0) _ _ _ _ _ ?_) (by assumption))
      | (with_reducible refine SomeAll.mapSnd (s0 := s0) ?_ (fun _ _ => ?_))
      | (with_reducible refine SomeAll.mapKept (s0 := s0) ?_ (fun _ _ => ?_))
      | with_reducible apply openPage_kept
      | (with_reducible refine SomeAll.bind (openPage_kept (s0 := s0) _ _ _ _ _ _ _ ?_) (fun _ _ => ?_))
      | (with_reducible refine someAll_snd (openPage_kept (s0 := s0) _ _ _ _ _ _ _ ?_) (by assumption))
      | (with_reducible refine someAll_snd' (openPage_kept (s0 := s0) _ _ _ _ _ _ _ ?_) (by assumption))
      | (with_reducible refine SomeAll.mapSnd (s0 := s0) ?_ (fun _ _ => ?_))
      | (with_reducible refine SomeAll.mapKept (s0 := s0) ?_ (fun _ _ => ?_))
      | with_reducible apply okAll_mk
      | with_reducible apply okAll_pure
      | with_reducible apply someAll_mk
      | with_reducible apply someAll_pure
      | (with_reducible refine SomeAll.map' (fun _ => ?_))
      | with_reducible apply bumpIf_kept
      | with_reducible apply sillage_kept
      | (fail_if_no_progress with_reducible refine Kept.lit ?_ (fun _ p => p))
      | trivial
      | split
      | dsimp only

theorem appendTokens_kept {s0 : State} (ok : Nat → Bool) (s : State) (g i layer pos : Nat) (vs : List (List Num)) (h : Kept s0 s) :
    SomeAll (Kept s0) (appendTokens ok s g i layer pos vs) := by
  induction vs generalizing s pos with
  | nil => exact h
  | cons v vs ih =>
    unfold appendTokens
    repeat' first
      | with_reducible assumption
      | with_reducible apply ih
      | with_reducible apply bumpIf_kept
      | with_reducible apply syncMirror_kept
      | with_reducible apply updPage_kept
      | (with_reducible refine someAll_snd (ownPage_kept (s0 := s0) _ _ _ _ _ _ _ ?_) (by assumption))
      | trivial
      | split
      | dsimp only

theorem refuseCommit_kept {s0 : State} (s : State) (g : Nat) (gr : Group) (layer : Nat) (f : Fail) (kept : Kept s0 s) :
    Kept s0 (refuseCommit s g gr layer f) := by
  unfold refuseCommit
  repeat' first
      | with_reducible assumption
      | with_reducible apply sillage_kept
      | with_reducible apply failJobService_kept
      | with_reducible apply bump_kept
      | with_reducible apply bumpIf_kept
      | (fail_if_no_progress with_reducible refine Kept.lit ?_ (fun _ p => p))
      | trivial
      | split
      | dsimp only

theorem markBusy_kept {s0 : State} (s : State) (g i layer len n : Nat) (busy : Bool) (kept : Kept s0 s) :
    Kept s0 (markBusy s g i layer len n busy) := by
  unfold markBusy
  repeat' first
      | with_reducible assumption
      | with_reducible apply updPage_kept
      | (with_reducible refine foldl_kept _ ?_ (fun _ _ _ => ?_))
      | (with_reducible refine foldl_keptP (get := Prod.fst) _ ?_ (fun _ _ _ => ?_))
      | (with_reducible refine foldl_keptP (get := Prod.snd) _ ?_ (fun _ _ _ => ?_))
      | with_reducible apply bump_kept
      | with_reducible apply bumpIf_kept
      | with_reducible apply sillage_kept
      | (fail_if_no_progress with_reducible refine Kept.lit ?_ (fun _ p => p))
      | trivial
      | split
      | dsimp only

theorem runCommit_kept {s0 : State} (ok : Nat → Bool) (s : State) (q : CommitReq) (kept : Kept s0 s) :
    Kept s0 (runCommit ok s q) := by
  unfold runCommit
  repeat' first
      | with_reducible assumption
      | with_reducible apply bump_kept
      | with_reducible apply firstEvent_kept
      | with_reducible apply updFuture_kept
      | with_reducible apply setLag_kept
      | with_reducible apply appendTokens_kept
      | with_reducible apply refuseCommit_kept
      | with_reducible apply markBusy_kept
      | (with_reducible refine foldl_kept _ ?_ (fun _ _ _ => ?_))
      | (with_reducible refine foldl_keptP (get := Prod.fst) _ ?_ (fun _ _ _ => ?_))
      | (with_reducible refine foldl_keptP (get := Prod.snd) _ ?_ (fun _ _ _ => ?_))
      | (with_reducible refine OkAll.bindKept (s0 := s0) ?_ (fun _ _ => ?_))
      | (with_reducible refine OkAll.bindFst (s0 := s0) ?_ (fun _ _ => ?_))
      | (with_reducible refine OkAll.bindSnd (s0 := s0) ?_ (fun _ _ => ?_))
      | (with_reducible refine OkAll.bind' (fun _ => ?_))
      | (with_reducible refine SomeAll.bind' (fun _ => ?_))
      | (with_reducible refine someAll_kept (appendTokens_kept (s0 := s0) _ _ _ _ _ _ _ ?_) (by assumption))
      | with_reducible apply bumpIf_kept
      | with_reducible apply sillage_kept
      | (fail_if_no_progress with_reducible refine Kept.lit ?_ (fun _ p => p))
      | trivial
      | split
      | dsimp only

theorem commitStep_kept {s0 : State} (ok : Nat → Bool) (g idx layer : Nat) (n : Int) (s : State) (kept : Kept s0 s) :
    Kept s0 (commitStep ok g idx layer n s) := by
  unfold commitStep
  repeat' first
      | with_reducible assumption
      | with_reducible apply runCommit_kept
      | with_reducible apply bump_kept
      | with_reducible apply bumpIf_kept
      | with_reducible apply sillage_kept
      | (fail_if_no_progress with_reducible refine Kept.lit ?_ (fun _ p => p))
      | trivial
      | split
      | dsimp only

theorem appendDoneStep_kept {s0 : State} (g idx layer : Nat) (s : State) (kept : Kept s0 s) :
    Kept s0 (appendDoneStep g idx layer s) := by
  unfold appendDoneStep
  repeat' first
      | with_reducible assumption
      | with_reducible apply add32_kept
      | (with_reducible refine OkAll.bind (add32_kept (s0 := s0) _ _ _ _ ?_) (fun _ _ => ?_))
      | (with_reducible refine okAll_snd (add32_kept (s0 := s0) _ _ _ _ ?_) (by assumption))
      | with_reducible apply updFuture_kept
      | with_reducible apply markBusy_kept
      | with_reducible apply bump_kept
      | with_reducible apply bumpIf_kept
      | with_reducible apply sillage_kept
      | (fail_if_no_progress with_reducible refine Kept.lit ?_ (fun _ p => p))
      | trivial
      | split
      | dsimp only

theorem offerStep_kept {s0 : State} (g idx b : Nat) (s : State) (kept : Kept s0 s) :
    Kept s0 (offerStep g idx b s) := by
  unfold offerStep
  repeat' first
      | with_reducible assumption
      | with_reducible apply bump_kept
      | with_reducible apply updFuture_kept
      | with_reducible apply updPage_kept
      | with_reducible apply setTree_kept
      | with_reducible apply releaseNode_kept
      | (with_reducible refine foldl_kept _ ?_ (fun _ _ _ => ?_))
      | (with_reducible refine foldl_keptP (get := Prod.fst) _ ?_ (fun _ _ _ => ?_))
      | (with_reducible refine foldl_keptP (get := Prod.snd) _ ?_ (fun _ _ _ => ?_))
      | (with_reducible refine OkAll.bindKept (s0 := s0) ?_ (fun _ _ => ?_))
      | (with_reducible refine OkAll.bind' (fun _ => ?_))
      | (with_reducible refine SomeAll.bind' (fun _ => ?_))
      | with_reducible apply bumpIf_kept
      | with_reducible apply sillage_kept
      | (fail_if_no_progress with_reducible refine Kept.lit ?_ (fun _ p => p))
      | trivial
      | split
      | dsimp only

theorem mirrorFillStep_kept {s0 : State} (ok : Nat → Bool) (d page : Nat) (s : State) (kept : Kept s0 s) :
    Kept s0 (mirrorFillStep ok d page s) := by
  unfold mirrorFillStep
  repeat' first
      | with_reducible assumption
      | with_reducible apply addMirror_kept
      | with_reducible apply setLag_kept
      | (with_reducible refine foldl_kept _ ?_ (fun _ _ _ => ?_))
      | (with_reducible refine foldl_keptP (get := Prod.fst) _ ?_ (fun _ _ _ => ?_))
      | (with_reducible refine foldl_keptP (get := Prod.snd) _ ?_ (fun _ _ _ => ?_))
      | with_reducible apply bump_kept
      | with_reducible apply bumpIf_kept
      | with_reducible apply sillage_kept
      | (fail_if_no_progress with_reducible refine Kept.lit ?_ (fun _ p => p))
      | trivial
      | split
      | dsimp only

theorem forkFuture_kept {s0 : State} (s : State) (g : Nat) (gr : Group) (src : Future) (prot : Nat) (kept : Kept s0 s) :
    SomeAll (fun p => Kept s0 p.2) (forkFuture s g gr src prot) := by
  unfold forkFuture
  repeat' first
      | with_reducible assumption
      | with_reducible apply setFuture_kept
      | with_reducible apply updChunk_kept
      | with_reducible apply setLag_kept
      | with_reducible apply fitStore_kept
      | (with_reducible refine SomeAll.bind (fitStore_kept (s0 := s0) _ _ _ ?_) (fun _ _ => ?_))
      | (with_reducible refine someAll_kept (fitStore_kept (s0 := s0) _ _ _ ?_) (by assumption))
      | (with_reducible refine SomeAll.mapSnd (s0 := s0) ?_ (fun _ _ => ?_))
      | (with_reducible refine SomeAll.mapKept (s0 := s0) ?_ (fun _ _ => ?_))
      | (with_reducible refine foldl_kept _ ?_ (fun _ _ _ => ?_))
      | (with_reducible refine foldl_keptP (get := Prod.fst) _ ?_ (fun _ _ _ => ?_))
      | (with_reducible refine foldl_keptP (get := Prod.snd) _ ?_ (fun _ _ _ => ?_))
      | with_reducible apply okAll_mk
      | with_reducible apply okAll_pure
      | with_reducible apply someAll_mk
      | with_reducible apply someAll_pure
      | (with_reducible refine SomeAll.map' (fun _ => ?_))
      | with_reducible apply bump_kept
      | with_reducible apply bumpIf_kept
      | with_reducible apply sillage_kept
      | (fail_if_no_progress with_reducible refine Kept.lit ?_ (fun _ p => p))
      | trivial
      | split
      | dsimp only

theorem addReserved_kept {s0 : State} (s : State) (d size : Nat) (n : Int) (kept : Kept s0 s) :
    Kept s0 (addReserved s d size n) := by
  unfold addReserved
  repeat' first
      | with_reducible assumption
      | with_reducible apply setPool_kept
      | with_reducible apply bump_kept
      | with_reducible apply bumpIf_kept
      | with_reducible apply sillage_kept
      | (fail_if_no_progress with_reducible refine Kept.lit ?_ (fun _ p => p))
      | trivial
      | split
      | dsimp only

theorem releaseReserve_kept {s0 : State} (s : State) (gr : Group) (f : Future) (kept : Kept s0 s) :
    Kept s0 (releaseReserve s gr f) := by
  unfold releaseReserve
  repeat' first
      | with_reducible assumption
      | with_reducible apply addReserved_kept
      | with_reducible apply bump_kept
      | with_reducible apply bumpIf_kept
      | with_reducible apply sillage_kept
      | (fail_if_no_progress with_reducible refine Kept.lit ?_ (fun _ p => p))
      | trivial
      | split
      | dsimp only

theorem dropFuture_kept {s0 : State} (s : State) (g i : Nat) (kept : Kept s0 s) :
    Kept s0 (dropFuture s g i) := by
  unfold dropFuture
  repeat' first
      | with_reducible assumption
      | with_reducible apply setFuture_kept
      | with_reducible apply freeSlotAt_kept
      | with_reducible apply writeFstate_kept
      | with_reducible apply dropChunk_kept
      | with_reducible apply releaseReserve_kept
      | (with_reducible refine foldl_kept _ ?_ (fun _ _ _ => ?_))
      | (with_reducible refine foldl_keptP (get := Prod.fst) _ ?_ (fun _ _ _ => ?_))
      | (with_reducible refine foldl_keptP (get := Prod.snd) _ ?_ (fun _ _ _ => ?_))
      | with_reducible apply bump_kept
      | with_reducible apply bumpIf_kept
      | with_reducible apply sillage_kept
      | (fail_if_no_progress with_reducible refine Kept.lit ?_ (fun _ p => p))
      | trivial
      | split
      | dsimp only

theorem cutChunk_kept {s0 : State} (s : State) (g i layer block : Nat) (kept : Kept s0 s) :
    SomeAll (fun p => Kept s0 p.2) (cutChunk s g i layer block) := by
  unfold cutChunk
  repeat' first
      | with_reducible assumption
      | with_reducible apply updFuture_kept
      | with_reducible apply updPage_kept
      | with_reducible apply ownChunk_kept
      | (with_reducible refine SomeAll.bind (ownChunk_kept (s0 := s0) _ _ _ _ _ ?_) (fun _ _ => ?_))
      | (with_reducible refine someAll_snd (ownChunk_kept (s0 := s0) _ _ _ _ _ ?_) (by assumption))
      | (with_reducible refine someAll_snd' (ownChunk_kept (s0 := s0) _ _ _ _ _ ?_) (by assumption))
      | (with_reducible refine SomeAll.mapSnd (s0 := s0) ?_ (fun _ _ => ?_))
      | (with_reducible refine SomeAll.mapKept (s0 := s0) ?_ (fun _ _ => ?_))
      | (with_reducible refine foldl_kept _ ?_ (fun _ _ _ => ?_))
      | (with_reducible refine foldl_keptP (get := Prod.fst) _ ?_ (fun _ _ _ => ?_))
      | (with_reducible refine foldl_keptP (get := Prod.snd) _ ?_ (fun _ _ _ => ?_))
      | with_reducible apply okAll_mk
      | with_reducible apply okAll_pure
      | with_reducible apply someAll_mk
      | with_reducible apply someAll_pure
      | (with_reducible refine SomeAll.map' (fun _ => ?_))
      | with_reducible apply bump_kept
      | with_reducible apply bumpIf_kept
      | with_reducible apply sillage_kept
      | (fail_if_no_progress with_reducible refine Kept.lit ?_ (fun _ p => p))
      | trivial
      | split
      | dsimp only

theorem cutLayer_kept {s0 : State} (s : State) (g i b l : Nat) (kept : Kept s0 s) :
    Kept s0 (cutLayer s g i b l) := by
  unfold cutLayer
  repeat' first
      | with_reducible assumption
      | with_reducible apply updFuture_kept
      | with_reducible apply updChunk_kept
      | with_reducible apply dropPage_kept
      | with_reducible apply dropChunk_kept
      | with_reducible apply cutChunk_kept
      | (with_reducible refine SomeAll.bind (cutChunk_kept (s0 := s0) _ _ _ _ _ ?_) (fun _ _ => ?_))
      | (with_reducible refine someAll_snd (cutChunk_kept (s0 := s0) _ _ _ _ _ ?_) (by assumption))
      | (with_reducible refine someAll_snd' (cutChunk_kept (s0 := s0) _ _ _ _ _ ?_) (by assumption))
      | (with_reducible refine foldl_kept _ ?_ (fun _ _ _ => ?_))
      | (with_reducible refine foldl_keptP (get := Prod.fst) _ ?_ (fun _ _ _ => ?_))
      | (with_reducible refine foldl_keptP (get := Prod.snd) _ ?_ (fun _ _ _ => ?_))
      | with_reducible apply bump_kept
      | with_reducible apply bumpIf_kept
      | with_reducible apply sillage_kept
      | (fail_if_no_progress with_reducible refine Kept.lit ?_ (fun _ p => p))
      | trivial
      | split
      | dsimp only

theorem truncFuture_kept {s0 : State} (s : State) (g i p : Nat) (kept : Kept s0 s) :
    Kept s0 (truncFuture s g i p) := by
  unfold truncFuture
  repeat' first
      | with_reducible assumption
      | with_reducible apply updFuture_kept
      | with_reducible apply setLag_kept
      | with_reducible apply fitStore_kept
      | (with_reducible refine SomeAll.bind (fitStore_kept (s0 := s0) _ _ _ ?_) (fun _ _ => ?_))
      | (with_reducible refine someAll_kept (fitStore_kept (s0 := s0) _ _ _ ?_) (by assumption))
      | (with_reducible refine SomeAll.mapSnd (s0 := s0) ?_ (fun _ _ => ?_))
      | (with_reducible refine SomeAll.mapKept (s0 := s0) ?_ (fun _ _ => ?_))
      | with_reducible apply cutLayer_kept
      | (with_reducible refine foldl_kept _ ?_ (fun _ _ _ => ?_))
      | (with_reducible refine foldl_keptP (get := Prod.fst) _ ?_ (fun _ _ _ => ?_))
      | (with_reducible refine foldl_keptP (get := Prod.snd) _ ?_ (fun _ _ _ => ?_))
      | (refine SomeAll.getD (s0 := s0) ?_ ?_)
      | with_reducible apply bump_kept
      | with_reducible apply bumpIf_kept
      | with_reducible apply sillage_kept
      | (fail_if_no_progress with_reducible refine Kept.lit ?_ (fun _ p => p))
      | trivial
      | split
      | dsimp only

theorem setIxD_kept {s0 : State} (s : State) (x : Ctx) (n : Nat) (v : Int) (kept : Kept s0 s) :
    Kept s0 (setIxD s x n v) := by
  unfold setIxD
  repeat' first
      | with_reducible assumption
      | with_reducible apply setIx_kept
      | with_reducible apply bump_kept
      | with_reducible apply bumpIf_kept
      | with_reducible apply sillage_kept
      | (fail_if_no_progress with_reducible refine Kept.lit ?_ (fun _ p => p))
      | trivial
      | split
      | dsimp only

theorem forkEffect_kept {s0 : State}  (x : Ctx) (e : QEntry) (s : State) (kept : Kept s0 s) :
    OkAll (fun r => Kept s0 r.st) (forkEffect x e s) := by
  unfold forkEffect
  repeat' first
      | with_reducible assumption
      | with_reducible apply bump_kept
      | with_reducible apply forkFuture_kept
      | (with_reducible refine SomeAll.bind (forkFuture_kept (s0 := s0) _ _ _ _ _ ?_) (fun _ _ => ?_))
      | (with_reducible refine someAll_snd (forkFuture_kept (s0 := s0) _ _ _ _ _ ?_) (by assumption))
      | (with_reducible refine someAll_snd' (forkFuture_kept (s0 := s0) _ _ _ _ _ ?_) (by assumption))
      | (with_reducible refine SomeAll.mapSnd (s0 := s0) ?_ (fun _ _ => ?_))
      | (with_reducible refine SomeAll.mapKept (s0 := s0) ?_ (fun _ _ => ?_))
      | with_reducible apply setIxD_kept
      | (with_reducible refine OkAll.bindKept (s0 := s0) ?_ (fun _ _ => ?_))
      | (with_reducible refine OkAll.bindFst (s0 := s0) ?_ (fun _ _ => ?_))
      | (with_reducible refine OkAll.bindSnd (s0 := s0) ?_ (fun _ _ => ?_))
      | (with_reducible refine OkAll.bind' (fun _ => ?_))
      | (with_reducible refine SomeAll.bind' (fun _ => ?_))
      | with_reducible apply okAll_mk
      | with_reducible apply okAll_pure
      | with_reducible apply someAll_mk
      | with_reducible apply someAll_pure
      | with_reducible apply bumpIf_kept
      | with_reducible apply sillage_kept
      | (fail_if_no_progress with_reducible refine Kept.lit ?_ (fun _ p => p))
      | trivial
      | split
      | dsimp only

theorem dropEffect_kept {s0 : State}  (x : Ctx) (e : QEntry) (s : State) (kept : Kept s0 s) :
    OkAll (fun r => Kept s0 r.st) (dropEffect x e s) := by
  unfold dropEffect
  repeat' first
      | with_reducible assumption
      | with_reducible apply dropFuture_kept
      | with_reducible apply truncFuture_kept
      | (with_reducible refine OkAll.bindKept (s0 := s0) ?_ (fun _ _ => ?_))
      | (with_reducible refine OkAll.bindFst (s0 := s0) ?_ (fun _ _ => ?_))
      | (with_reducible refine OkAll.bindSnd (s0 := s0) ?_ (fun _ _ => ?_))
      | (with_reducible refine OkAll.bind' (fun _ => ?_))
      | (with_reducible refine SomeAll.bind' (fun _ => ?_))
      | with_reducible apply okAll_mk
      | with_reducible apply okAll_pure
      | with_reducible apply someAll_mk
      | with_reducible apply someAll_pure
      | with_reducible apply bump_kept
      | with_reducible apply bumpIf_kept
      | with_reducible apply sillage_kept
      | (fail_if_no_progress with_reducible refine Kept.lit ?_ (fun _ p => p))
      | trivial
      | split
      | dsimp only

theorem emptyWindow_kept {s0 : State} (x : Ctx) (s : State) (h : Kept s0 s) : Kept s0 (emptyWindow x s).st :=
  raiseOk_kept _ _ _ h

theorem winEffect_kept {s0 : State}  (x : Ctx) (e : QEntry) (s : State) (kept : Kept s0 s) :
    OkAll (fun r => Kept s0 r.st) (winEffect x e s) := by
  unfold winEffect
  repeat' first
      | with_reducible assumption
      | with_reducible apply scratchStores_kept
      | (with_reducible refine OkAll.bind (scratchStores_kept (s0 := s0) _ _ _ _ ?_) (fun _ _ => ?_))
      | (with_reducible refine okAll_kept (scratchStores_kept (s0 := s0) _ _ _ _ ?_) (by assumption))
      | (with_reducible refine OkAll.bindKept (s0 := s0) ?_ (fun _ _ => ?_))
      | (with_reducible refine OkAll.bindFst (s0 := s0) ?_ (fun _ _ => ?_))
      | (with_reducible refine OkAll.bindSnd (s0 := s0) ?_ (fun _ _ => ?_))
      | (with_reducible refine OkAll.bind' (fun _ => ?_))
      | (with_reducible refine SomeAll.bind' (fun _ => ?_))
      | with_reducible apply okAll_mk
      | with_reducible apply okAll_pure
      | with_reducible apply someAll_mk
      | with_reducible apply someAll_pure
      | with_reducible apply emptyWindow_kept
      | with_reducible apply bump_kept
      | with_reducible apply bumpIf_kept
      | with_reducible apply sillage_kept
      | (fail_if_no_progress with_reducible refine Kept.lit ?_ (fun _ p => p))
      | trivial
      | split
      | dsimp only

theorem poolEffect_kept {s0 : State}  (x : Ctx) (e : QEntry) (s : State) (kept : Kept s0 s) :
    OkAll (fun r => Kept s0 r.st) (poolEffect x e s) := by
  unfold poolEffect
  repeat' first
      | with_reducible assumption
      | with_reducible apply bumpIf_kept
      | with_reducible apply writeNums_kept
      | (with_reducible refine OkAll.bind (writeNums_kept (s0 := s0) _ _ _ _ _ _ _ ?_) (fun _ _ => ?_))
      | (with_reducible refine okAll_kept (writeNums_kept (s0 := s0) _ _ _ _ _ _ _ ?_) (by assumption))
      | (with_reducible refine OkAll.bindKept (s0 := s0) ?_ (fun _ _ => ?_))
      | (with_reducible refine OkAll.bindFst (s0 := s0) ?_ (fun _ _ => ?_))
      | (with_reducible refine OkAll.bindSnd (s0 := s0) ?_ (fun _ _ => ?_))
      | (with_reducible refine OkAll.bind' (fun _ => ?_))
      | (with_reducible refine SomeAll.bind' (fun _ => ?_))
      | with_reducible apply okAll_mk
      | with_reducible apply okAll_pure
      | with_reducible apply someAll_mk
      | with_reducible apply someAll_pure
      | with_reducible apply emptyWindow_kept
      | with_reducible apply bump_kept
      | with_reducible apply sillage_kept
      | (fail_if_no_progress with_reducible refine Kept.lit ?_ (fun _ p => p))
      | trivial
      | split
      | dsimp only

theorem boxdEffect_kept {s0 : State}  (x : Ctx) (e : QEntry) (s : State) (kept : Kept s0 s) :
    OkAll (fun r => Kept s0 r.st) (boxdEffect x e s) := by
  unfold boxdEffect
  repeat' first
      | with_reducible assumption
      | with_reducible apply coreFn_kept
      | (with_reducible refine pair_snd (coreFn_kept (s0 := s0) _ _ _ _ _ _ _ ?_) (by assumption))
      | with_reducible apply writeSel_kept
      | (with_reducible refine OkAll.bind (writeSel_kept (s0 := s0) _ _ _ _ _ _ _ _ ?_) (fun _ _ => ?_))
      | (with_reducible refine okAll_kept (writeSel_kept (s0 := s0) _ _ _ _ _ _ _ _ ?_) (by assumption))
      | (with_reducible refine OkAll.bindKept (s0 := s0) ?_ (fun _ _ => ?_))
      | (with_reducible refine OkAll.bind' (fun _ => ?_))
      | (with_reducible refine SomeAll.bind' (fun _ => ?_))
      | with_reducible apply okAll_mk
      | with_reducible apply okAll_pure
      | with_reducible apply someAll_mk
      | with_reducible apply someAll_pure
      | with_reducible apply bump_kept
      | with_reducible apply bumpIf_kept
      | with_reducible apply sillage_kept
      | (fail_if_no_progress with_reducible refine Kept.lit ?_ (fun _ p => p))
      | trivial
      | split
      | dsimp only

theorem nmsEffect_kept {s0 : State}  (x : Ctx) (e : QEntry) (s : State) (kept : Kept s0 s) :
    OkAll (fun r => Kept s0 r.st) (nmsEffect x e s) := by
  unfold nmsEffect
  repeat' first
      | with_reducible assumption
      | (with_reducible refine foldl_kept _ ?_ (fun _ _ _ => ?_))
      | (with_reducible refine foldl_keptP (get := Prod.fst) _ ?_ (fun _ _ _ => ?_))
      | (with_reducible refine foldl_keptP (get := Prod.snd) _ ?_ (fun _ _ _ => ?_))
      | (with_reducible refine OkAll.bindKept (s0 := s0) ?_ (fun _ _ => ?_))
      | (with_reducible refine OkAll.bindFst (s0 := s0) ?_ (fun _ _ => ?_))
      | (with_reducible refine OkAll.bindSnd (s0 := s0) ?_ (fun _ _ => ?_))
      | (with_reducible refine OkAll.bind' (fun _ => ?_))
      | (with_reducible refine SomeAll.bind' (fun _ => ?_))
      | with_reducible apply okAll_mk
      | with_reducible apply okAll_pure
      | with_reducible apply someAll_mk
      | with_reducible apply someAll_pure
      | with_reducible apply bump_kept
      | with_reducible apply bumpIf_kept
      | with_reducible apply sillage_kept
      | (fail_if_no_progress with_reducible refine Kept.lit ?_ (fun _ p => p))
      | (fail_if_no_progress with_reducible refine Kept.lit_scratch ?_ (fun _ p => p) (fun h => ?_))
      | exact memWrite_wf (by assumption) _ _
      | exact memWrites_wf (by assumption) _ _
      | exact memUndef_wf (by assumption) _ _ _
      | refine memFold_wf _ (by assumption) (fun m a h => ?_)
      | trivial
      | split
      | dsimp only

theorem claim_kept {s0 : State} (x : Ctx) (cnt : Tile) (s : State) (cs : List Choice) (experts : List Nat) (kept : Kept s0 s) :
    OkAll (fun p => Kept s0 p.2) (claim x cnt s cs experts) := by
  unfold claim
  repeat' first
      | with_reducible assumption
      | with_reducible apply adderElem_kept
      | (with_reducible refine OkAll.bind (adderElem_kept (s0 := s0) _ _ _ _ _ ?_) (fun _ _ => ?_))
      | (with_reducible refine okAll_snd (adderElem_kept (s0 := s0) _ _ _ _ _ ?_) (by assumption))
      | (with_reducible refine foldlM_keptP (get := Prod.fst) _ ?_ (fun _ _ _ => ?_))
      | (with_reducible refine foldlM_keptP (get := Prod.snd) _ ?_ (fun _ _ _ => ?_))
      | (with_reducible refine foldlM_kept _ ?_ (fun _ _ _ => ?_))
      | (with_reducible refine foldlMO_kept _ ?_ (fun _ _ _ => ?_))
      | (with_reducible refine OkAll.bindKept (s0 := s0) ?_ (fun _ _ => ?_))
      | (with_reducible refine OkAll.bindFst (s0 := s0) ?_ (fun _ _ => ?_))
      | (with_reducible refine OkAll.bindSnd (s0 := s0) ?_ (fun _ _ => ?_))
      | (with_reducible refine OkAll.bind' (fun _ => ?_))
      | (with_reducible refine SomeAll.bind' (fun _ => ?_))
      | with_reducible apply okAll_mk
      | with_reducible apply okAll_pure
      | with_reducible apply someAll_mk
      | with_reducible apply someAll_pure
      | with_reducible apply bump_kept
      | with_reducible apply bumpIf_kept
      | with_reducible apply sillage_kept
      | (fail_if_no_progress with_reducible refine Kept.lit ?_ (fun _ p => p))
      | trivial
      | split
      | dsimp only

theorem routeEffect_kept {s0 : State}  (x : Ctx) (e : QEntry) (s : State) (kept : Kept s0 s) :
    OkAll (fun r => Kept s0 r.st) (routeEffect x e s) := by
  unfold routeEffect
  repeat' first
      | with_reducible assumption
      | with_reducible apply bumpIf_kept
      | with_reducible apply firstEvent_kept
      | with_reducible apply scratchStores_kept
      | (with_reducible refine OkAll.bind (scratchStores_kept (s0 := s0) _ _ _ _ ?_) (fun _ _ => ?_))
      | (with_reducible refine okAll_kept (scratchStores_kept (s0 := s0) _ _ _ _ ?_) (by assumption))
      | with_reducible apply countSpecial_kept
      | with_reducible apply coreFn_kept
      | (with_reducible refine pair_snd (coreFn_kept (s0 := s0) _ _ _ _ _ _ _ ?_) (by assumption))
      | with_reducible apply claim_kept
      | (with_reducible refine OkAll.bind (claim_kept (s0 := s0) _ _ _ _ _ ?_) (fun _ _ => ?_))
      | (with_reducible refine okAll_snd (claim_kept (s0 := s0) _ _ _ _ _ ?_) (by assumption))
      | (with_reducible refine foldl_kept _ ?_ (fun _ _ _ => ?_))
      | (with_reducible refine foldl_keptP (get := Prod.fst) _ ?_ (fun _ _ _ => ?_))
      | (with_reducible refine foldl_keptP (get := Prod.snd) _ ?_ (fun _ _ _ => ?_))
      | (with_reducible refine OkAll.bindKept (s0 := s0) ?_ (fun _ _ => ?_))
      | (with_reducible refine OkAll.bindFst (s0 := s0) ?_ (fun _ _ => ?_))
      | (with_reducible refine OkAll.bindSnd (s0 := s0) ?_ (fun _ _ => ?_))
      | (with_reducible refine OkAll.bind' (fun _ => ?_))
      | (with_reducible refine SomeAll.bind' (fun _ => ?_))
      | with_reducible apply okAll_mk
      | with_reducible apply okAll_pure
      | with_reducible apply someAll_mk
      | with_reducible apply someAll_pure
      | with_reducible apply bump_kept
      | with_reducible apply sillage_kept
      | (fail_if_no_progress with_reducible refine Kept.lit ?_ (fun _ p => p))
      | trivial
      | split
      | dsimp only

theorem combEffect_kept {s0 : State}  (x : Ctx) (e : QEntry) (s : State) (kept : Kept s0 s) :
    OkAll (fun r => Kept s0 r.st) (combEffect x e s) := by
  unfold combEffect
  repeat' first
      | with_reducible assumption
      | with_reducible apply writeSel_kept
      | (with_reducible refine OkAll.bind (writeSel_kept (s0 := s0) _ _ _ _ _ _ _ _ ?_) (fun _ _ => ?_))
      | (with_reducible refine okAll_kept (writeSel_kept (s0 := s0) _ _ _ _ _ _ _ _ ?_) (by assumption))
      | with_reducible apply writeNums_kept
      | (with_reducible refine OkAll.bind (writeNums_kept (s0 := s0) _ _ _ _ _ _ _ ?_) (fun _ _ => ?_))
      | (with_reducible refine okAll_kept (writeNums_kept (s0 := s0) _ _ _ _ _ _ _ ?_) (by assumption))
      | (with_reducible refine foldl_kept _ ?_ (fun _ _ _ => ?_))
      | (with_reducible refine foldl_keptP (get := Prod.fst) _ ?_ (fun _ _ _ => ?_))
      | (with_reducible refine foldl_keptP (get := Prod.snd) _ ?_ (fun _ _ _ => ?_))
      | (with_reducible refine OkAll.bindKept (s0 := s0) ?_ (fun _ _ => ?_))
      | (with_reducible refine OkAll.bindFst (s0 := s0) ?_ (fun _ _ => ?_))
      | (with_reducible refine OkAll.bindSnd (s0 := s0) ?_ (fun _ _ => ?_))
      | (with_reducible refine OkAll.bind' (fun _ => ?_))
      | (with_reducible refine SomeAll.bind' (fun _ => ?_))
      | with_reducible apply okAll_mk
      | with_reducible apply okAll_pure
      | with_reducible apply someAll_mk
      | with_reducible apply someAll_pure
      | with_reducible apply bump_kept
      | with_reducible apply bumpIf_kept
      | with_reducible apply sillage_kept
      | (fail_if_no_progress with_reducible refine Kept.lit ?_ (fun _ p => p))
      | trivial
      | split
      | dsimp only

theorem effectOf_kept {op : BitVec 8} {f : Effect} (p : effectOf op = some f) : EffectKept f := by
  unfold effectOf at p
  intro s0 x e s h
  split at p <;> first
    | cases p; done
    | (cases p
       first
         | exact ldtEffect_kept x e s h | exact sttEffect_kept x e s h | exact gathEffect_kept x e s h
         | exact scatEffect_kept x e s h | exact matEffect_kept _ x e s h | exact ewuEffect_kept x e s h
         | exact ewbEffect_kept x e s h | exact actEffect_kept x e s h | exact winEffect_kept x e s h
         | exact poolEffect_kept x e s h | exact attsEffect_kept x e s h | exact attvEffect_kept x e s h
         | exact scanEffect_kept x e s h | exact lconvEffect_kept x e s h | exact routeEffect_kept x e s h
         | exact combEffect_kept x e s h | exact boxdEffect_kept x e s h | exact nmsEffect_kept x e s h
         | exact maddEffect_kept x e s h | exact cvtEffect_kept x e s h | exact forkEffect_kept x e s h
         | exact dropEffect_kept x e s h)

theorem startEntry_kept {s0 : State} (s : State) (c : Nat) (lc exe : Bool) (k : Nat) (h : Kept s0 s) :
    Kept s0 (startEntry s c lc exe k).1 := by
  unfold startEntry
  repeat' first
      | with_reducible assumption
      | (with_reducible refine tryStart_kept _ _ _ _ _ _ (effectOf_kept (by assumption)) ?_)
      | with_reducible apply ldtAfter_kept
      | split
      | dsimp only

theorem drain_kept {s0 : State} (first : Hold → Bool) (n : Nat) (s : State) (c : Nat) (lc exe : Bool) (h : Kept s0 s) :
    Kept s0 (drain first n s c lc exe) := by
  induction n generalizing first s with
  | zero => exact h
  | succ n ih =>
    unfold drain
    repeat' first
        | with_reducible assumption
        | with_reducible apply ih
        | with_reducible apply startEntry_kept
        | split
        | dsimp only

theorem goOn_kept {s0 : State} (s : State) (c : Nat) (lc exe : Bool) (kept : Kept s0 s) :
    Kept s0 (goOn s c lc exe) := by
  unfold goOn
  repeat' first
      | with_reducible assumption
      | with_reducible apply drain_kept
      | with_reducible apply bump_kept
      | with_reducible apply bumpIf_kept
      | with_reducible apply sillage_kept
      | (fail_if_no_progress with_reducible refine Kept.lit ?_ (fun _ p => p))
      | trivial
      | split
      | dsimp only

theorem goOnBoth_kept {s0 : State} (s : State) (c : Nat) (lc : Bool) (kept : Kept s0 s) :
    Kept s0 (goOnBoth s c lc) := by
  unfold goOnBoth
  repeat' first
      | with_reducible assumption
      | with_reducible apply goOn_kept
      | with_reducible apply bump_kept
      | with_reducible apply bumpIf_kept
      | with_reducible apply sillage_kept
      | (fail_if_no_progress with_reducible refine Kept.lit ?_ (fun _ p => p))
      | trivial
      | split
      | dsimp only

theorem retrySlot_kept {s0 : State} (n : Nat) (s : State) (c : Nat) (lc : Bool) (kept : Kept s0 s) :
    Kept s0 (retrySlot n s c lc) := by
  unfold retrySlot
  repeat' first
      | with_reducible assumption
      | with_reducible apply drain_kept
      | (with_reducible refine foldl_kept _ ?_ (fun _ _ _ => ?_))
      | (with_reducible refine foldl_keptP (get := Prod.fst) _ ?_ (fun _ _ _ => ?_))
      | (with_reducible refine foldl_keptP (get := Prod.snd) _ ?_ (fun _ _ _ => ?_))
      | with_reducible apply bump_kept
      | with_reducible apply bumpIf_kept
      | with_reducible apply sillage_kept
      | (fail_if_no_progress with_reducible refine Kept.lit ?_ (fun _ p => p))
      | trivial
      | split
      | dsimp only

theorem retryCommits_kept {s0 : State} (s : State) (kept : Kept s0 s) :
    Kept s0 (retryCommits s) := by
  unfold retryCommits
  repeat' first
      | with_reducible assumption
      | with_reducible apply drain_kept
      | (with_reducible refine foldl_kept _ ?_ (fun _ _ _ => ?_))
      | (with_reducible refine foldl_keptP (get := Prod.fst) _ ?_ (fun _ _ _ => ?_))
      | (with_reducible refine foldl_keptP (get := Prod.snd) _ ?_ (fun _ _ _ => ?_))
      | with_reducible apply bump_kept
      | with_reducible apply bumpIf_kept
      | with_reducible apply sillage_kept
      | (fail_if_no_progress with_reducible refine Kept.lit ?_ (fun _ p => p))
      | trivial
      | split
      | dsimp only

theorem segFlits_kept {s0 : State} (s : State) (c : Nat) (op : BitVec 8) (g : Seg) (kept : Kept s0 s) :
    Kept s0 (segFlits s c op g) := by
  unfold segFlits
  repeat' first
      | with_reducible assumption
      | with_reducible apply send_kept
      | with_reducible apply bump_kept
      | with_reducible apply bumpIf_kept
      | with_reducible apply sillage_kept
      | (fail_if_no_progress with_reducible refine Kept.lit ?_ (fun _ p => p))
      | trivial
      | split
      | dsimp only

end Sys2Proof.Machine
end

