-- ==== Sys2Proof/Laws/KeptJobs.lean ====
section
/-! SUPPORT. What posting, slots, jobs, cores and groups keep. `Kept` says what; one lemma per operation. -/

namespace Sys2Proof.Machine

set_option linter.unusedTactic false
set_option linter.unreachableTactic false

theorem postEvent_kept {s0 : State} (s : State) (code result : Nat) (kept : Kept s0 s) :
    Kept s0 (postEvent s code result) := by
  unfold postEvent
  repeat' first
      | with_reducible assumption
      | with_reducible apply bump_kept
      | with_reducible apply bumpIf_kept
      | with_reducible apply sillage_kept
      | (fail_if_no_progress with_reducible refine Kept.lit ?_ (fun _ p => p))
      | trivial
      | split
      | dsimp only

theorem accordChange_kept {s0 : State} (s : State) (f : Vector Nat 4 → Vector Nat 4) (kept : Kept s0 s) :
    Kept s0 (accordChange s f) := by
  unfold accordChange
  repeat' first
      | with_reducible assumption
      | with_reducible apply sillage_kept
      | with_reducible apply sendCtrlAll_kept
      | with_reducible apply postEvent_kept
      | with_reducible apply bump_kept
      | with_reducible apply bumpIf_kept
      | (fail_if_no_progress with_reducible refine Kept.lit ?_ (fun _ p => p))
      | trivial
      | split
      | dsimp only

theorem setRole_kept {s0 : State} (s : State) (d r : Nat) (kept : Kept s0 s) :
    Kept s0 (setRole s d r) := by
  unfold setRole
  repeat' first
      | with_reducible assumption
      | with_reducible apply accordChange_kept
      | with_reducible apply bump_kept
      | with_reducible apply bumpIf_kept
      | with_reducible apply sillage_kept
      | (fail_if_no_progress with_reducible refine Kept.lit ?_ (fun _ p => p))
      | trivial
      | split
      | dsimp only

theorem raiseVector_kept {s0 : State} (s : State) (v : Nat) (kept : Kept s0 s) :
    Kept s0 (raiseVector s v) := by
  unfold raiseVector
  repeat' first
      | with_reducible assumption
      | with_reducible apply sendHostIo_kept
      | with_reducible apply bump_kept
      | with_reducible apply bumpIf_kept
      | with_reducible apply sillage_kept
      | (fail_if_no_progress with_reducible refine Kept.lit ?_ (fun _ p => p))
      | trivial
      | split
      | dsimp only

theorem raiseRing_kept {s0 : State} (s : State) (r : Nat) (kept : Kept s0 s) :
    Kept s0 (raiseRing s r) := by
  unfold raiseRing
  repeat' first
      | with_reducible assumption
      | (with_reducible refine setRing_kept ?_ (fun p e => by subst e; exact p))
      | with_reducible apply raiseVector_kept
      | (with_reducible refine OkAll.bindKept (s0 := s0) ?_ (fun _ _ => ?_))
      | (with_reducible refine OkAll.bind' (fun _ => ?_))
      | (with_reducible refine SomeAll.bind' (fun _ => ?_))
      | with_reducible apply bump_kept
      | with_reducible apply bumpIf_kept
      | with_reducible apply sillage_kept
      | (fail_if_no_progress with_reducible refine Kept.lit ?_ (fun _ p => p))
      | trivial
      | split
      | dsimp only

theorem ringError_kept {s0 : State} (s : State) (r code : Nat) (kept : Kept s0 s) :
    Kept s0 (ringError s r code) := by
  unfold ringError
  repeat' first
      | with_reducible assumption
      | with_reducible apply sillage_kept
      | (with_reducible refine setRing_kept ?_ (fun p e => by subst e; exact p))
      | with_reducible apply postEvent_kept
      | with_reducible apply bump_kept
      | with_reducible apply bumpIf_kept
      | (fail_if_no_progress with_reducible refine Kept.lit ?_ (fun _ p => p))
      | trivial
      | split
      | dsimp only

theorem flushLine_kept {s0 : State} (s : State) (r : Nat) (kept : Kept s0 s) : Kept s0 (flushLine s r) := by
  unfold flushLine
  extract_lets x t
  have k : Kept s0 t := foldl_kept _ kept fun s e h => Kept.lit_hostMem h (fun _ p => p) (fun w => memWrites_wf w _ _)
  clear_value t x
  refine updRing_kept ?_ (fun _ p => p)
  split
  · exact k
  · exact sendHostMem_kept _ _ k

theorem drydownEnd_kept {s0 : State} (s : State) (r : Nat) (kept : Kept s0 s) :
    Kept s0 (drydownEnd s r) := by
  unfold drydownEnd
  repeat' first
      | with_reducible assumption
      | (with_reducible refine updRing_kept ?_ (fun _ p => p))
      | with_reducible apply flushLine_kept
      | (with_reducible refine OkAll.bindKept (s0 := s0) ?_ (fun _ _ => ?_))
      | (with_reducible refine OkAll.bind' (fun _ => ?_))
      | (with_reducible refine SomeAll.bind' (fun _ => ?_))
      | (with_reducible refine updRing_kept ?_ (fun _ p => by unfold freshEnable; exact p))
      | with_reducible apply bump_kept
      | with_reducible apply bumpIf_kept
      | with_reducible apply sillage_kept
      | (fail_if_no_progress with_reducible refine Kept.lit ?_ (fun _ p => p))
      | trivial
      | split
      | dsimp only

theorem post_kept {s0 : State} (s : State) (p : Post) (kept : Kept s0 s) :
    Kept s0 (post s p) := by
  unfold post
  repeat' first
      | with_reducible assumption
      | with_reducible apply bump_kept
      | with_reducible apply bumpIf_kept
      | with_reducible apply sillage_kept
      | (fail_if_no_progress with_reducible refine Kept.lit ?_ (fun _ p => p))
      | trivial
      | split
      | dsimp only

theorem updCmd_kept {s0 : State} (s : State) (id : Nat) (f : Cmd → Cmd) (kept : Kept s0 s) :
    Kept s0 (updCmd s id f) := by
  unfold updCmd
  repeat' first
      | with_reducible assumption
      | with_reducible apply bump_kept
      | with_reducible apply bumpIf_kept
      | with_reducible apply sillage_kept
      | (fail_if_no_progress with_reducible refine Kept.lit ?_ (fun _ p => p))
      | trivial
      | split
      | dsimp only

theorem finishCmd_kept {s0 : State} (s : State) (id : Nat) (f : Fail) (result : Nat) (kept : Kept s0 s) :
    Kept s0 (finishCmd s id f result) := by
  unfold finishCmd
  repeat' first
      | with_reducible assumption
      | with_reducible apply post_kept
      | with_reducible apply bump_kept
      | with_reducible apply bumpIf_kept
      | with_reducible apply sillage_kept
      | (fail_if_no_progress with_reducible refine Kept.lit ?_ (fun _ p => p))
      | trivial
      | split
      | dsimp only

theorem interimCmd_kept {s0 : State} (s : State) (id : Nat) (kept : Kept s0 s) :
    Kept s0 (interimCmd s id) := by
  unfold interimCmd
  repeat' first
      | with_reducible assumption
      | with_reducible apply post_kept
      | with_reducible apply updCmd_kept
      | with_reducible apply bump_kept
      | with_reducible apply bumpIf_kept
      | with_reducible apply sillage_kept
      | (fail_if_no_progress with_reducible refine Kept.lit ?_ (fun _ p => p))
      | trivial
      | split
      | dsimp only

theorem chargeJob_kept {s0 : State} (s : State) (jn n : Nat) (kept : Kept s0 s) :
    Kept s0 (chargeJob s jn n) := by
  unfold chargeJob
  repeat' first
      | with_reducible assumption
      | with_reducible apply bumpIf_kept
      | with_reducible apply updJob_kept
      | with_reducible apply bump_kept
      | with_reducible apply sillage_kept
      | (fail_if_no_progress with_reducible refine Kept.lit ?_ (fun _ p => p))
      | trivial
      | split
      | dsimp only

theorem chargeTask_kept {s0 : State} (s : State) (c : Nat) (lc : Bool) (kept : Kept s0 s) :
    Kept s0 (chargeTask s c lc) := by
  unfold chargeTask
  repeat' first
      | with_reducible assumption
      | (with_reducible refine updTask_kept ?_ (fun _ e => e))
      | (with_reducible refine updTask_kept ?_ (fun t e => ?_))
      | ((try dsimp only); first | exact e | (simp only [setQueue_lc]; exact e) | (split <;> exact e) | (split <;> split <;> exact e))
      | with_reducible apply chargeJob_kept
      | with_reducible apply bump_kept
      | with_reducible apply bumpIf_kept
      | with_reducible apply sillage_kept
      | (fail_if_no_progress with_reducible refine Kept.lit ?_ (fun _ p => p))
      | trivial
      | split
      | dsimp only

theorem chargeCluster_kept {s0 : State} (s : State) (k : Nat) (kept : Kept s0 s) :
    Kept s0 (chargeCluster s k) := by
  unfold chargeCluster
  repeat' first
      | with_reducible assumption
      | with_reducible apply chargeTask_kept
      | (with_reducible refine foldl_kept _ ?_ (fun _ _ _ => ?_))
      | (with_reducible refine foldl_keptP (get := Prod.fst) _ ?_ (fun _ _ _ => ?_))
      | (with_reducible refine foldl_keptP (get := Prod.snd) _ ?_ (fun _ _ _ => ?_))
      | with_reducible apply bump_kept
      | with_reducible apply bumpIf_kept
      | with_reducible apply sillage_kept
      | (fail_if_no_progress with_reducible refine Kept.lit ?_ (fun _ p => p))
      | trivial
      | split
      | dsimp only

theorem padWrite_kept {s0 : State} (s : State) (c p : Nat) (bs : List Byte) (kept : Kept s0 s) :
    Kept s0 (padWrite s c p bs) := by
  unfold padWrite
  repeat' first
      | with_reducible assumption
      | with_reducible apply bump_kept
      | with_reducible apply bumpIf_kept
      | with_reducible apply sillage_kept
      | (fail_if_no_progress with_reducible refine Kept.lit ?_ (fun _ p => p))
      | (fail_if_no_progress with_reducible refine Kept.lit_scratch ?_ (fun _ p => p) (fun h => ?_))
      | exact memWrite_wf (by assumption) _ _
      | exact memWrites_wf (by assumption) _ _
      | exact memUndef_wf (by assumption) _ _ _
      | refine memFold_wf _ (by assumption) (fun m a h => ?_)
      | trivial
      | split
      | dsimp only

theorem writeControl_kept {s0 : State} (s : State) (asid rec0 owner st : Nat) (valid stale dir : Bool) (kept : Kept s0 s) :
    Kept s0 (writeControl s asid rec0 owner st valid stale dir) := by
  unfold writeControl
  repeat' first
      | with_reducible assumption
      | with_reducible apply jobWritesD_kept
      | with_reducible apply bump_kept
      | with_reducible apply bumpIf_kept
      | with_reducible apply sillage_kept
      | (fail_if_no_progress with_reducible refine Kept.lit ?_ (fun _ p => p))
      | trivial
      | split
      | dsimp only

theorem slotControl_kept {s0 : State} (s : State) (asid rank : Nat) (sl : Slot) (kept : Kept s0 s) :
    Kept s0 (slotControl s asid rank sl) := by
  unfold slotControl
  repeat' first
      | with_reducible assumption
      | with_reducible apply writeControl_kept
      | with_reducible apply bump_kept
      | with_reducible apply bumpIf_kept
      | with_reducible apply sillage_kept
      | (fail_if_no_progress with_reducible refine Kept.lit ?_ (fun _ p => p))
      | trivial
      | split
      | dsimp only

theorem putSlot_kept {s0 : State} (s : State) (c : Nat) (lc : Bool) (n : Nat) (t : Task) (j : Job) (sl : Slot) (kept : Kept s0 s) :
    Kept s0 (putSlot s c lc n t j sl) := by
  unfold putSlot
  repeat' first
      | with_reducible assumption
      | with_reducible apply updSlot_kept
      | with_reducible apply slotControl_kept
      | with_reducible apply bump_kept
      | with_reducible apply bumpIf_kept
      | with_reducible apply sillage_kept
      | (fail_if_no_progress with_reducible refine Kept.lit ?_ (fun _ p => p))
      | trivial
      | split
      | dsimp only

theorem askOut_kept {s0 : State} (s : State) (c : Nat) (lc : Bool) (n adds : Nat) (kept : Kept s0 s) :
    Kept s0 (askOut s c lc n adds) := by
  unfold askOut
  repeat' first
      | with_reducible assumption
      | with_reducible apply putSlot_kept
      | with_reducible apply bump_kept
      | with_reducible apply bumpIf_kept
      | with_reducible apply sillage_kept
      | (fail_if_no_progress with_reducible refine Kept.lit ?_ (fun _ p => p))
      | trivial
      | split
      | dsimp only

theorem addDone_kept {s0 : State} (s : State) (asid rec0 n : Nat) (kept : Kept s0 s) :
    Kept s0 (addDone s asid rec0 n) := by
  unfold addDone
  repeat' first
      | with_reducible assumption
      | with_reducible apply add32_kept
      | (with_reducible refine OkAll.bind (add32_kept (s0 := s0) _ _ _ _ ?_) (fun _ _ => ?_))
      | (with_reducible refine okAll_snd (add32_kept (s0 := s0) _ _ _ _ ?_) (by assumption))
      | with_reducible apply bump_kept
      | with_reducible apply bumpIf_kept
      | with_reducible apply sillage_kept
      | (fail_if_no_progress with_reducible refine Kept.lit ?_ (fun _ p => p))
      | trivial
      | split
      | dsimp only

theorem swapOut_kept {s0 : State} (s : State) (c : Nat) (lc : Bool) (n : Nat) (kept : Kept s0 s) :
    OkAll (Kept s0) (swapOut s c lc n) := by
  unfold swapOut
  repeat' first
      | with_reducible assumption
      | with_reducible apply bump_kept
      | with_reducible apply jobWrites_kept
      | (with_reducible refine OkAll.bind (jobWrites_kept (s0 := s0) _ _ _ _ ?_) (fun _ _ => ?_))
      | (with_reducible refine okAll_kept (jobWrites_kept (s0 := s0) _ _ _ _ ?_) (by assumption))
      | with_reducible apply updSlot_kept
      | with_reducible apply writeControl_kept
      | with_reducible apply addDone_kept
      | (with_reducible refine OkAll.bindKept (s0 := s0) ?_ (fun _ _ => ?_))
      | (with_reducible refine OkAll.bind' (fun _ => ?_))
      | (with_reducible refine SomeAll.bind' (fun _ => ?_))
      | with_reducible apply okAll_mk
      | with_reducible apply okAll_pure
      | with_reducible apply someAll_mk
      | with_reducible apply someAll_pure
      | with_reducible apply bumpIf_kept
      | with_reducible apply sillage_kept
      | (fail_if_no_progress with_reducible refine Kept.lit ?_ (fun _ p => p))
      | trivial
      | split
      | dsimp only

theorem swapIn_kept {s0 : State} (s : State) (c : Nat) (lc : Bool) (n : Nat) (kept : Kept s0 s) :
    OkAll (Kept s0) (swapIn s c lc n) := by
  unfold swapIn
  repeat' first
      | with_reducible assumption
      | with_reducible apply bump_kept
      | with_reducible apply jobWrites_kept
      | (with_reducible refine OkAll.bind (jobWrites_kept (s0 := s0) _ _ _ _ ?_) (fun _ _ => ?_))
      | (with_reducible refine okAll_kept (jobWrites_kept (s0 := s0) _ _ _ _ ?_) (by assumption))
      | with_reducible apply padWrite_kept
      | with_reducible apply putSlot_kept
      | (with_reducible refine OkAll.bindKept (s0 := s0) ?_ (fun _ _ => ?_))
      | (with_reducible refine OkAll.bindFst (s0 := s0) ?_ (fun _ _ => ?_))
      | (with_reducible refine OkAll.bindSnd (s0 := s0) ?_ (fun _ _ => ?_))
      | (with_reducible refine OkAll.bind' (fun _ => ?_))
      | (with_reducible refine SomeAll.bind' (fun _ => ?_))
      | with_reducible apply okAll_mk
      | with_reducible apply okAll_pure
      | with_reducible apply someAll_mk
      | with_reducible apply someAll_pure
      | with_reducible apply bumpIf_kept
      | with_reducible apply sillage_kept
      | (fail_if_no_progress with_reducible refine Kept.lit ?_ (fun _ p => p))
      | trivial
      | split
      | dsimp only

theorem updSpace_kept {s0 : State} (s : State) (asid : Nat) (f : ASpace → ASpace) (kept : Kept s0 s) :
    Kept s0 (updSpace s asid f) := by
  unfold updSpace
  repeat' first
      | with_reducible assumption
      | with_reducible apply bump_kept
      | with_reducible apply bumpIf_kept
      | with_reducible apply sillage_kept
      | (fail_if_no_progress with_reducible refine Kept.lit ?_ (fun _ p => p))
      | trivial
      | split
      | dsimp only

theorem setPte_kept {s0 : State} (s : State) (asid vpn : Nat) (p : Pte) (kept : Kept s0 s) :
    Kept s0 (setPte s asid vpn p) := by
  unfold setPte
  repeat' first
      | with_reducible assumption
      | with_reducible apply updSpace_kept
      | with_reducible apply bump_kept
      | with_reducible apply bumpIf_kept
      | with_reducible apply sillage_kept
      | (fail_if_no_progress with_reducible refine Kept.lit ?_ (fun _ p => p))
      | trivial
      | split
      | dsimp only

theorem delPte_kept {s0 : State} (s : State) (asid vpn : Nat) (kept : Kept s0 s) :
    Kept s0 (delPte s asid vpn) := by
  unfold delPte
  repeat' first
      | with_reducible assumption
      | with_reducible apply updSpace_kept
      | with_reducible apply bump_kept
      | with_reducible apply bumpIf_kept
      | with_reducible apply sillage_kept
      | (fail_if_no_progress with_reducible refine Kept.lit ?_ (fun _ p => p))
      | trivial
      | split
      | dsimp only

theorem dropCaches_kept {s0 : State} (s : State) (f : Option (Nat × Nat × Nat × List Byte) → Bool) (h : Kept s0 s) :
    Kept s0 (dropCaches s f) := by
  unfold dropCaches
  exact mapCores_kept (f := fun k => if f k.lcCache then { k with lcCache := none } else k) h (fun k => by split <;> rfl)
    (fun k => by split <;> rfl)

theorem unmapPage_kept {s0 : State} (s : State) (asid vpn : Nat) (kept : Kept s0 s) :
    Kept s0 (unmapPage s asid vpn) := by
  unfold unmapPage
  repeat' first
      | with_reducible assumption
      | with_reducible apply setPte_kept
      | with_reducible apply delPte_kept
      | with_reducible apply dropCaches_kept
      | with_reducible apply bump_kept
      | with_reducible apply bumpIf_kept
      | with_reducible apply sillage_kept
      | (fail_if_no_progress with_reducible refine Kept.lit ?_ (fun _ p => p))
      | trivial
      | split
      | dsimp only

theorem updImago_kept {s0 : State} (s : State) (n : Nat) (f : Imago → Imago) (kept : Kept s0 s) :
    Kept s0 (updImago s n f) := by
  unfold updImago
  repeat' first
      | with_reducible assumption
      | with_reducible apply bump_kept
      | with_reducible apply bumpIf_kept
      | with_reducible apply sillage_kept
      | (fail_if_no_progress with_reducible refine Kept.lit ?_ (fun _ p => p))
      | trivial
      | split
      | dsimp only

theorem freeImago_kept {s0 : State} (s : State) (n : Nat) (kept : Kept s0 s) :
    Kept s0 (freeImago s n) := by
  unfold freeImago
  repeat' first
      | with_reducible assumption
      | with_reducible apply bump_kept
      | with_reducible apply bumpIf_kept
      | with_reducible apply sillage_kept
      | (fail_if_no_progress with_reducible refine Kept.lit ?_ (fun _ p => p))
      | trivial
      | split
      | dsimp only

theorem imagoSettle_kept {s0 : State} (s : State) (kept : Kept s0 s) :
    Kept s0 (imagoSettle s) := by
  unfold imagoSettle
  repeat' first
      | with_reducible assumption
      | with_reducible apply freeImago_kept
      | (with_reducible refine foldl_kept _ ?_ (fun _ _ _ => ?_))
      | (with_reducible refine foldl_keptP (get := Prod.fst) _ ?_ (fun _ _ _ => ?_))
      | (with_reducible refine foldl_keptP (get := Prod.snd) _ ?_ (fun _ _ _ => ?_))
      | with_reducible apply bump_kept
      | with_reducible apply bumpIf_kept
      | with_reducible apply sillage_kept
      | (fail_if_no_progress with_reducible refine Kept.lit ?_ (fun _ p => p))
      | trivial
      | split
      | dsimp only

theorem raiseV_kept {s0 : State} (s : State) (p : Nat) (kept : Kept s0 s) :
    Kept s0 (raiseV s p) := by
  unfold raiseV
  repeat' first
      | with_reducible assumption
      | (with_reducible refine foldl_kept _ ?_ (fun _ _ _ => ?_))
      | (with_reducible refine foldl_keptP (get := Prod.fst) _ ?_ (fun _ _ _ => ?_))
      | (with_reducible refine foldl_keptP (get := Prod.snd) _ ?_ (fun _ _ _ => ?_))
      | with_reducible apply bump_kept
      | with_reducible apply bumpIf_kept
      | with_reducible apply sillage_kept
      | (fail_if_no_progress with_reducible refine Kept.lit ?_ (fun _ p => p))
      | trivial
      | split
      | dsimp only

theorem dropSpill_kept {s0 : State} (s : State) (c : Nat) (kept : Kept s0 s) :
    Kept s0 (dropSpill s c) := by
  unfold dropSpill
  repeat' first
      | with_reducible assumption
      | (with_reducible refine updCore_kept ?_ (fun _ a b => ⟨a, b⟩))
      | with_reducible apply unmapPage_kept
      | (with_reducible refine foldl_kept _ ?_ (fun _ _ _ => ?_))
      | (with_reducible refine foldl_keptP (get := Prod.fst) _ ?_ (fun _ _ _ => ?_))
      | (with_reducible refine foldl_keptP (get := Prod.snd) _ ?_ (fun _ _ _ => ?_))
      | with_reducible apply bump_kept
      | with_reducible apply bumpIf_kept
      | with_reducible apply sillage_kept
      | (fail_if_no_progress with_reducible refine Kept.lit ?_ (fun _ p => p))
      | trivial
      | split
      | dsimp only

theorem freeCores_kept {s0 : State} (s : State) (jn : Nat) (j : Job) (kept : Kept s0 s) :
    Kept s0 (freeCores s jn j) := by
  unfold freeCores
  repeat' first
      | with_reducible assumption
      | (with_reducible refine setCore_kept ?_ ?_)
      | exact fun p => p _
      | exact fun p => ⟨(p _).1, (p _).2⟩
      | exact fun p => ⟨(p _).1, fun _ q => by cases q⟩
      | exact fun p => ⟨fun _ q => by cases q, (p _).2⟩
      | with_reducible apply updCluster_kept
      | with_reducible apply dropSpill_kept
      | (with_reducible refine foldl_kept _ ?_ (fun _ _ _ => ?_))
      | (with_reducible refine foldl_keptP (get := Prod.fst) _ ?_ (fun _ _ _ => ?_))
      | (with_reducible refine foldl_keptP (get := Prod.snd) _ ?_ (fun _ _ _ => ?_))
      | exact fun p => ⟨fun _ q => (by cases q), (p _).2⟩
      | exact fun p => ⟨(p _).1, fun _ q => (by cases q)⟩
      | with_reducible apply bump_kept
      | with_reducible apply bumpIf_kept
      | with_reducible apply sillage_kept
      | (fail_if_no_progress with_reducible refine Kept.lit ?_ (fun _ p => p))
      | trivial
      | split
      | dsimp only

theorem endJob_kept {s0 : State} (s : State) (jn : Nat) (kept : Kept s0 s) :
    Kept s0 (endJob s jn) := by
  unfold endJob
  repeat' first
      | with_reducible assumption
      | with_reducible apply updGroup_kept
      | with_reducible apply finishCmd_kept
      | with_reducible apply chargeTask_kept
      | with_reducible apply imagoSettle_kept
      | with_reducible apply freeCores_kept
      | (with_reducible refine foldl_kept _ ?_ (fun _ _ _ => ?_))
      | (with_reducible refine foldl_keptP (get := Prod.fst) _ ?_ (fun _ _ _ => ?_))
      | (with_reducible refine foldl_keptP (get := Prod.snd) _ ?_ (fun _ _ _ => ?_))
      | with_reducible apply bump_kept
      | with_reducible apply bumpIf_kept
      | with_reducible apply sillage_kept
      | (fail_if_no_progress with_reducible refine Kept.lit ?_ (fun _ p => p))
      | trivial
      | split
      | dsimp only

theorem endWaiting_kept {s0 : State} (s : State) (jn : Nat) (f : Fail) (kept : Kept s0 s) :
    Kept s0 (endWaiting s jn f) := by
  unfold endWaiting
  repeat' first
      | with_reducible assumption
      | with_reducible apply updJob_kept
      | with_reducible apply endJob_kept
      | with_reducible apply bump_kept
      | with_reducible apply bumpIf_kept
      | with_reducible apply sillage_kept
      | (fail_if_no_progress with_reducible refine Kept.lit ?_ (fun _ p => p))
      | trivial
      | split
      | dsimp only

theorem closeSlots_kept {s0 : State} (s : State) (jn : Nat) (j : Job) (kept : Kept s0 s) :
    Kept s0 (closeSlots s jn j) := by
  unfold closeSlots
  repeat' first
      | with_reducible assumption
      | with_reducible apply sillage_kept
      | with_reducible apply writeControl_kept
      | with_reducible apply swapOut_kept
      | (with_reducible refine OkAll.bind (swapOut_kept (s0 := s0) _ _ _ _ ?_) (fun _ _ => ?_))
      | (with_reducible refine okAll_kept (swapOut_kept (s0 := s0) _ _ _ _ ?_) (by assumption))
      | (with_reducible refine foldl_kept _ ?_ (fun _ _ _ => ?_))
      | (with_reducible refine foldl_keptP (get := Prod.fst) _ ?_ (fun _ _ _ => ?_))
      | (with_reducible refine foldl_keptP (get := Prod.snd) _ ?_ (fun _ _ _ => ?_))
      | with_reducible apply bump_kept
      | with_reducible apply bumpIf_kept
      | (fail_if_no_progress with_reducible refine Kept.lit ?_ (fun _ p => p))
      | trivial
      | split
      | dsimp only

theorem wakeCluster_kept {s0 : State} (s : State) (k : Nat) (kept : Kept s0 s) :
    Kept s0 (wakeCluster s k) := by
  unfold wakeCluster
  repeat' first
      | with_reducible assumption
      | with_reducible apply bump_kept
      | with_reducible apply updCluster_kept
      | with_reducible apply bumpIf_kept
      | with_reducible apply sillage_kept
      | (fail_if_no_progress with_reducible refine Kept.lit ?_ (fun _ p => p))
      | trivial
      | split
      | dsimp only

theorem bindSlots_kept {s0 : State} (s : State) (j : Job) (rank : Nat) (kept : Kept s0 s) :
    Kept s0 (bindSlots s j rank).2 := by
  unfold bindSlots
  repeat' first
      | with_reducible assumption
      | with_reducible apply slotControl_kept
      | (with_reducible refine foldl_kept _ ?_ (fun _ _ _ => ?_))
      | (with_reducible refine foldl_keptP (get := Prod.fst) _ ?_ (fun _ _ _ => ?_))
      | (with_reducible refine foldl_keptP (get := Prod.snd) _ ?_ (fun _ _ _ => ?_))
      | with_reducible apply bump_kept
      | with_reducible apply bumpIf_kept
      | with_reducible apply sillage_kept
      | (fail_if_no_progress with_reducible refine Kept.lit ?_ (fun _ p => p))
      | trivial
      | split
      | dsimp only

theorem placeTask_kept {s0 : State} (s : State) (jn : Nat) (j : Job) (c rank : Nat) (kept : Kept s0 s) :
    Kept s0 (placeTask s jn j c rank) := by
  unfold placeTask
  repeat' first
      | with_reducible assumption
      | (with_reducible refine setTask_kept ?_ ?_)
      | exact fun _ _ q => by cases q; rfl
      | with_reducible apply wakeCluster_kept
      | with_reducible apply bindSlots_kept
      | (with_reducible refine pair_snd (bindSlots_kept (s0 := s0) _ _ _ ?_) (by assumption))
      | with_reducible apply bump_kept
      | with_reducible apply bumpIf_kept
      | with_reducible apply sillage_kept
      | (fail_if_no_progress with_reducible refine Kept.lit ?_ (fun _ p => p))
      | trivial
      | split
      | dsimp only

theorem dispatch_kept {s0 : State} (s : State) (jn : Nat) (j : Job) (cores : List Nat) (kept : Kept s0 s) :
    Kept s0 (dispatch s jn j cores) := by
  unfold dispatch
  repeat' first
      | with_reducible assumption
      | with_reducible apply bump_kept
      | with_reducible apply setGroup_kept
      | with_reducible apply placeTask_kept
      | (with_reducible refine foldl_kept _ ?_ (fun _ _ _ => ?_))
      | (with_reducible refine foldl_keptP (get := Prod.fst) _ ?_ (fun _ _ _ => ?_))
      | (with_reducible refine foldl_keptP (get := Prod.snd) _ ?_ (fun _ _ _ => ?_))
      | with_reducible apply bumpIf_kept
      | with_reducible apply sillage_kept
      | (fail_if_no_progress with_reducible refine Kept.lit ?_ (fun _ p => p))
      | trivial
      | split
      | dsimp only

theorem startTask_kept {s0 : State} (s : State) (c : Nat) (j : Job) (img : List Byte) (kept : Kept s0 s) :
    Kept s0 (startTask s c j img) := by
  unfold startTask
  repeat' first
      | with_reducible assumption
      | (with_reducible refine updTask_kept ?_ (fun _ e => e))
      | (with_reducible refine updTask_kept ?_ (fun t e => ?_))
      | ((try dsimp only); first | exact e | (simp only [setQueue_lc]; exact e) | (split <;> exact e) | (split <;> split <;> exact e))
      | (with_reducible refine updCore_kept ?_ (fun _ a b => ⟨a, b⟩))
      | with_reducible apply bump_kept
      | with_reducible apply bumpIf_kept
      | with_reducible apply sillage_kept
      | (fail_if_no_progress with_reducible refine Kept.lit ?_ (fun _ p => p))
      | trivial
      | split
      | dsimp only

theorem fillCache_kept {s0 : State} (s : State) (c : Nat) (j : Job) (img : List Byte) (kept : Kept s0 s) :
    Kept s0 (fillCache s c j img) := by
  unfold fillCache
  repeat' first
      | with_reducible assumption
      | (with_reducible refine updCore_kept ?_ (fun _ a b => ⟨a, b⟩))
      | with_reducible apply bump_kept
      | with_reducible apply bumpIf_kept
      | with_reducible apply sillage_kept
      | (fail_if_no_progress with_reducible refine Kept.lit ?_ (fun _ p => p))
      | trivial
      | split
      | dsimp only

theorem startCores_kept {s0 : State} (s : State) (jn : Nat) (j : Job) (kept : Kept s0 s) : OkAll (Kept s0) (startCores s jn j) := by
  unfold startCores
  with_reducible refine foldlM_kept _ kept (fun s c k => ?_)
  split
  · with_reducible exact okAll_pure k
  · with_reducible refine OkAll.bind' fun _ => ?_
    with_reducible refine OkAll.bind' fun _ => ?_
    with_reducible refine okAll_pure ?_
    with_reducible apply startTask_kept
    with_reducible apply fillCache_kept
    exact k

theorem resumeBe_kept {s0 : State} (s : State) (c : Nat) (kept : Kept s0 s) :
    Kept s0 (resumeBe s c) := by
  unfold resumeBe
  repeat' first
      | with_reducible assumption
      | (with_reducible refine updTask_kept ?_ (fun _ e => e))
      | (with_reducible refine updTask_kept ?_ (fun t e => ?_))
      | ((try dsimp only); first | exact e | (simp only [setQueue_lc]; exact e) | (split <;> exact e) | (split <;> split <;> exact e))
      | (with_reducible refine updCore_kept ?_ (fun _ a b => ⟨a, b⟩))
      | with_reducible apply failJob_kept
      | with_reducible apply catchUpAll_kept
      | (with_reducible refine OkAll.bind (catchUpAll_kept (s0 := s0) _ _ ?_) (fun _ _ => ?_))
      | (with_reducible refine okAll_kept (catchUpAll_kept (s0 := s0) _ _ ?_) (by assumption))
      | with_reducible apply goOnBoth_kept
      | with_reducible apply bump_kept
      | with_reducible apply bumpIf_kept
      | with_reducible apply sillage_kept
      | (fail_if_no_progress with_reducible refine Kept.lit ?_ (fun _ p => p))
      | trivial
      | split
      | dsimp only

theorem clusterCause_kept {s0 : State} (s : State) (k src : Nat) (kept : Kept s0 s) :
    Kept s0 (clusterCause s k src) := by
  unfold clusterCause
  repeat' first
      | with_reducible assumption
      | with_reducible apply sillage_kept
      | with_reducible apply updDie_kept
      | with_reducible apply updCluster_kept
      | with_reducible apply bump_kept
      | with_reducible apply bumpIf_kept
      | (fail_if_no_progress with_reducible refine Kept.lit ?_ (fun _ p => p))
      | trivial
      | split
      | dsimp only

theorem releaseFence_kept {s0 : State} (s : State) (c : Nat) (kept : Kept s0 s) :
    Kept s0 (releaseFence s c) := by
  unfold releaseFence
  repeat' first
      | with_reducible assumption
      | (with_reducible refine updCore_kept ?_ (fun _ a b => ⟨a, b⟩))
      | with_reducible apply bump_kept
      | with_reducible apply bumpIf_kept
      | with_reducible apply sillage_kept
      | (fail_if_no_progress with_reducible refine Kept.lit ?_ (fun _ p => p))
      | trivial
      | split
      | dsimp only

theorem undefCore_kept {s0 : State} (s : State) (c : Nat) (kept : Kept s0 s) :
    Kept s0 (undefCore s c) := by
  unfold undefCore
  repeat' first
      | with_reducible assumption
      | (with_reducible refine updCore_kept ?_ (fun _ a b => ⟨a, b⟩))
      | with_reducible apply undefScratch_kept
      | (with_reducible refine OkAll.bindKept (s0 := s0) ?_ (fun _ _ => ?_))
      | (with_reducible refine OkAll.bind' (fun _ => ?_))
      | (with_reducible refine SomeAll.bind' (fun _ => ?_))
      | with_reducible apply bump_kept
      | with_reducible apply bumpIf_kept
      | with_reducible apply sillage_kept
      | (fail_if_no_progress with_reducible refine Kept.lit ?_ (fun _ p => p))
      | trivial
      | split
      | dsimp only

theorem loseCore_kept {s0 : State} (s : State) (c : Nat) (kept : Kept s0 s) :
    Kept s0 (loseCore s c) := by
  unfold loseCore
  repeat' first
      | with_reducible assumption
      | with_reducible apply undefCore_kept
      | with_reducible apply bump_kept
      | with_reducible apply bumpIf_kept
      | with_reducible apply sillage_kept
      | (fail_if_no_progress with_reducible refine Kept.lit ?_ (fun _ p => p))
      | trivial
      | split
      | dsimp only

theorem spillData_kept {s0 : State} (s : State) (c : Nat) (p : Spilled) (kept : Kept s0 s) :
    Kept s0 (spillData s c p) := by
  unfold spillData
  repeat' first
      | with_reducible assumption
      | with_reducible apply physWrite_kept
      | (with_reducible refine foldl_kept _ ?_ (fun _ _ _ => ?_))
      | (with_reducible refine foldl_keptP (get := Prod.fst) _ ?_ (fun _ _ _ => ?_))
      | (with_reducible refine foldl_keptP (get := Prod.snd) _ ?_ (fun _ _ _ => ?_))
      | with_reducible apply bump_kept
      | with_reducible apply bumpIf_kept
      | with_reducible apply sillage_kept
      | (fail_if_no_progress with_reducible refine Kept.lit ?_ (fun _ p => p))
      | trivial
      | split
      | dsimp only

theorem paySpill_kept {s0 : State} (s : State) (p : Spilled) (kept : Kept s0 s) :
    Kept s0 (paySpill s p) := by
  unfold paySpill
  repeat' first
      | with_reducible assumption
      | with_reducible apply admitReq_kept
      | (with_reducible refine foldl_kept _ ?_ (fun _ _ _ => ?_))
      | (with_reducible refine foldl_keptP (get := Prod.fst) _ ?_ (fun _ _ _ => ?_))
      | (with_reducible refine foldl_keptP (get := Prod.snd) _ ?_ (fun _ _ _ => ?_))
      | with_reducible apply bump_kept
      | with_reducible apply bumpIf_kept
      | with_reducible apply sillage_kept
      | (fail_if_no_progress with_reducible refine Kept.lit ?_ (fun _ p => p))
      | trivial
      | split
      | dsimp only

theorem spillBack_kept {s0 : State} (s : State) (c : Nat) (p : Spilled) (kept : Kept s0 s) :
    OkAll (Kept s0) (spillBack s c p) := by
  unfold spillBack
  repeat' first
      | with_reducible assumption
      | with_reducible apply padWrite_kept
      | (with_reducible refine foldlM_keptP (get := Prod.fst) _ ?_ (fun _ _ _ => ?_))
      | (with_reducible refine foldlM_keptP (get := Prod.snd) _ ?_ (fun _ _ _ => ?_))
      | (with_reducible refine foldlM_kept _ ?_ (fun _ _ _ => ?_))
      | (with_reducible refine foldlMO_kept _ ?_ (fun _ _ _ => ?_))
      | (with_reducible refine OkAll.bindKept (s0 := s0) ?_ (fun _ _ => ?_))
      | (with_reducible refine OkAll.bindFst (s0 := s0) ?_ (fun _ _ => ?_))
      | (with_reducible refine OkAll.bindSnd (s0 := s0) ?_ (fun _ _ => ?_))
      | (with_reducible refine OkAll.bind' (fun _ => ?_))
      | (with_reducible refine SomeAll.bind' (fun _ => ?_))
      | with_reducible apply okAll_mk
      | with_reducible apply okAll_pure
      | with_reducible apply someAll_mk
      | with_reducible apply someAll_pure
      | with_reducible apply bump_kept
      | with_reducible apply bumpIf_kept
      | with_reducible apply sillage_kept
      | (fail_if_no_progress with_reducible refine Kept.lit ?_ (fun _ p => p))
      | trivial
      | split
      | dsimp only

theorem chargeBack_kept {s0 : State} (s : State) (c : Nat) (p : Spilled) (kept : Kept s0 s) :
    Kept s0 (chargeBack s c p) := by
  unfold chargeBack
  repeat' first
      | with_reducible assumption
      | with_reducible apply bumpIf_kept
      | with_reducible apply chargeJob_kept
      | with_reducible apply bump_kept
      | with_reducible apply sillage_kept
      | (fail_if_no_progress with_reducible refine Kept.lit ?_ (fun _ p => p))
      | trivial
      | split
      | dsimp only

theorem switchJob_kept {s0 : State} (s : State) (jn : Nat) (j : Job) (ixs : List (Vector Word32 16)) (kept : Kept s0 s) :
    Kept s0 (switchJob s jn j ixs) := by
  unfold switchJob
  repeat' first
      | with_reducible assumption
      | with_reducible apply sillage_kept
      | (with_reducible refine updTask_kept ?_ (fun _ e => e))
      | (with_reducible refine updTask_kept ?_ (fun t e => ?_))
      | ((try dsimp only); first | exact e | (simp only [setQueue_lc]; exact e) | (split <;> exact e) | (split <;> split <;> exact e))
      | with_reducible apply bump_kept
      | with_reducible apply updJob_kept
      | with_reducible apply raiseOk_kept
      | (with_reducible refine foldl_kept _ ?_ (fun _ _ _ => ?_))
      | (with_reducible refine foldl_keptP (get := Prod.fst) _ ?_ (fun _ _ _ => ?_))
      | (with_reducible refine foldl_keptP (get := Prod.snd) _ ?_ (fun _ _ _ => ?_))
      | with_reducible apply bumpIf_kept
      | (fail_if_no_progress with_reducible refine Kept.lit ?_ (fun _ p => p))
      | trivial
      | split
      | dsimp only

theorem deadlineEval_kept {s0 : State} (s : State) (jn : Nat) (kept : Kept s0 s) :
    Kept s0 (deadlineEval s jn) := by
  unfold deadlineEval
  repeat' first
      | with_reducible assumption
      | with_reducible apply updJob_kept
      | with_reducible apply bump_kept
      | with_reducible apply bumpIf_kept
      | with_reducible apply sillage_kept
      | (fail_if_no_progress with_reducible refine Kept.lit ?_ (fun _ p => p))
      | trivial
      | split
      | dsimp only

/-- A JOIN that is let in keeps what every operation keeps. -/
def JoinKept (s0 : State) : JoinTry → Prop
  | .joined _ s => Kept s0 s
  | _ => True

theorem joinKept_if {s0 : State} {c : Prop} [Decidable c] {a b : JoinTry} (ha : JoinKept s0 a) (hb : JoinKept s0 b) :
    JoinKept s0 (if c then a else b) := by
  split
  · exact ha
  · exact hb

theorem destroyGroup_kept {s0 : State} (s : State) (n : Nat) (kept : Kept s0 s) :
    Kept s0 (destroyGroup s n) := by
  unfold destroyGroup
  repeat' first
      | with_reducible assumption
      | with_reducible apply dropFuture_kept
      | with_reducible apply finishCmd_kept
      | (with_reducible refine foldl_kept _ ?_ (fun _ _ _ => ?_))
      | (with_reducible refine foldl_keptP (get := Prod.fst) _ ?_ (fun _ _ _ => ?_))
      | (with_reducible refine foldl_keptP (get := Prod.snd) _ ?_ (fun _ _ _ => ?_))
      | with_reducible apply bump_kept
      | with_reducible apply bumpIf_kept
      | with_reducible apply sillage_kept
      | (fail_if_no_progress with_reducible refine Kept.lit ?_ (fun _ p => p))
      | trivial
      | split
      | dsimp only

theorem putFuture_kept {s0 : State} (s : State) (g i : Nat) (u : Future → Future) (kept : Kept s0 s) :
    Kept s0 (putFuture s g i u) := by
  unfold putFuture
  repeat' first
      | with_reducible assumption
      | with_reducible apply updFuture_kept
      | with_reducible apply writeFstate_kept
      | with_reducible apply bump_kept
      | with_reducible apply bumpIf_kept
      | with_reducible apply sillage_kept
      | (fail_if_no_progress with_reducible refine Kept.lit ?_ (fun _ p => p))
      | trivial
      | split
      | dsimp only

theorem takeMirrorReserve_kept {s0 : State} (s : State) (g i n size : Nat) (kept : Kept s0 s) :
    Kept s0 (takeMirrorReserve s g i n size) := by
  unfold takeMirrorReserve
  repeat' first
      | with_reducible assumption
      | with_reducible apply updFuture_kept
      | with_reducible apply releaseFor_kept
      | with_reducible apply addReserved_kept
      | with_reducible apply bump_kept
      | with_reducible apply bumpIf_kept
      | with_reducible apply sillage_kept
      | (fail_if_no_progress with_reducible refine Kept.lit ?_ (fun _ p => p))
      | trivial
      | split
      | dsimp only

theorem takeReserve_kept {s0 : State} (s : State) (g i r : Nat) (kept : Kept s0 s) :
    SomeAll (Kept s0) (takeReserve s g i r) := by
  unfold takeReserve
  repeat' first
      | with_reducible assumption
      | with_reducible apply updFuture_kept
      | with_reducible apply releaseFor_kept
      | with_reducible apply addReserved_kept
      | with_reducible apply takeMirrorReserve_kept
      | with_reducible apply okAll_mk
      | with_reducible apply okAll_pure
      | with_reducible apply someAll_mk
      | with_reducible apply someAll_pure
      | with_reducible apply bump_kept
      | with_reducible apply bumpIf_kept
      | with_reducible apply sillage_kept
      | (fail_if_no_progress with_reducible refine Kept.lit ?_ (fun _ p => p))
      | trivial
      | split
      | dsimp only

theorem adoptBlock_kept {s0 : State} (s : State) (g i b : Nat) (n : TreeNode) (kept : Kept s0 s) :
    SomeAll (Kept s0) (adoptBlock s g i b n) := by
  unfold adoptBlock
  repeat' first
      | with_reducible assumption
      | with_reducible apply updPage_kept
      | with_reducible apply updChunk_kept
      | with_reducible apply ownChunk_kept
      | (with_reducible refine SomeAll.bind (ownChunk_kept (s0 := s0) _ _ _ _ _ ?_) (fun _ _ => ?_))
      | (with_reducible refine someAll_snd (ownChunk_kept (s0 := s0) _ _ _ _ _ ?_) (by assumption))
      | (with_reducible refine someAll_snd' (ownChunk_kept (s0 := s0) _ _ _ _ _ ?_) (by assumption))
      | (with_reducible refine SomeAll.mapSnd (s0 := s0) ?_ (fun _ _ => ?_))
      | (with_reducible refine SomeAll.mapKept (s0 := s0) ?_ (fun _ _ => ?_))
      | (with_reducible refine foldlM_keptP (get := Prod.fst) _ ?_ (fun _ _ _ => ?_))
      | (with_reducible refine foldlM_keptP (get := Prod.snd) _ ?_ (fun _ _ _ => ?_))
      | (with_reducible refine foldlM_kept _ ?_ (fun _ _ _ => ?_))
      | (with_reducible refine foldlMO_kept _ ?_ (fun _ _ _ => ?_))
      | with_reducible apply okAll_mk
      | with_reducible apply okAll_pure
      | with_reducible apply someAll_mk
      | with_reducible apply someAll_pure
      | (with_reducible refine SomeAll.map' (fun _ => ?_))
      | with_reducible apply bump_kept
      | with_reducible apply bumpIf_kept
      | with_reducible apply sillage_kept
      | (fail_if_no_progress with_reducible refine Kept.lit ?_ (fun _ p => p))
      | trivial
      | split
      | dsimp only

theorem adoptWalk_kept {s0 : State} (g i : Nat) (l : List (List Nat)) (b prev : Nat) (s : State) (h : Kept s0 s) :
    SomeAll (fun p => Kept s0 p.2) (adoptWalk g i l b prev s) := by
  induction l generalizing b prev s with
  | nil => exact h
  | cons cs l ih =>
    unfold adoptWalk
    repeat' first
      | with_reducible assumption
      | with_reducible apply ih
      | with_reducible apply updFuture_kept
      | with_reducible apply setTree_kept
      | with_reducible apply bump_kept
      | (with_reducible refine someAll_kept (adoptBlock_kept (s0 := s0) _ _ _ _ _ ?_) (by assumption))
      | with_reducible apply someAll_mk
      | trivial
      | split
      | dsimp only

theorem bringBack_kept {s0 : State} (s : State) (home key : Nat) (kept : Kept s0 s) :
    SomeAll (Kept s0) (bringBack s home key) := by
  unfold bringBack
  repeat' first
      | with_reducible assumption
      | with_reducible apply freeSlotAt_kept
      | with_reducible apply rekeyPage_kept
      | with_reducible apply allocKv_kept
      | (with_reducible refine SomeAll.bind (allocKv_kept (s0 := s0) _ _ _ _ ?_) (fun _ _ => ?_))
      | (with_reducible refine someAll_snd (allocKv_kept (s0 := s0) _ _ _ _ ?_) (by assumption))
      | (with_reducible refine someAll_snd' (allocKv_kept (s0 := s0) _ _ _ _ ?_) (by assumption))
      | (with_reducible refine SomeAll.mapSnd (s0 := s0) ?_ (fun _ _ => ?_))
      | (with_reducible refine SomeAll.mapKept (s0 := s0) ?_ (fun _ _ => ?_))
      | with_reducible apply okAll_mk
      | with_reducible apply okAll_pure
      | with_reducible apply someAll_mk
      | with_reducible apply someAll_pure
      | (with_reducible refine SomeAll.map' (fun _ => ?_))
      | with_reducible apply bump_kept
      | with_reducible apply bumpIf_kept
      | with_reducible apply sillage_kept
      | (fail_if_no_progress with_reducible refine Kept.lit ?_ (fun _ p => p))
      | trivial
      | split
      | dsimp only

theorem bringChunk_kept {s0 : State} (s : State) (home key : Nat) (kept : Kept s0 s) :
    SomeAll (Kept s0) (bringChunk s home key) := by
  unfold bringChunk
  repeat' first
      | with_reducible assumption
      | with_reducible apply rekeyChunk_kept
      | with_reducible apply allocKv_kept
      | (with_reducible refine SomeAll.bind (allocKv_kept (s0 := s0) _ _ _ _ ?_) (fun _ _ => ?_))
      | (with_reducible refine someAll_snd (allocKv_kept (s0 := s0) _ _ _ _ ?_) (by assumption))
      | (with_reducible refine someAll_snd' (allocKv_kept (s0 := s0) _ _ _ _ ?_) (by assumption))
      | (with_reducible refine SomeAll.mapSnd (s0 := s0) ?_ (fun _ _ => ?_))
      | (with_reducible refine SomeAll.mapKept (s0 := s0) ?_ (fun _ _ => ?_))
      | with_reducible apply okAll_mk
      | with_reducible apply okAll_pure
      | with_reducible apply someAll_mk
      | with_reducible apply someAll_pure
      | (with_reducible refine SomeAll.map' (fun _ => ?_))
      | with_reducible apply bump_kept
      | with_reducible apply bumpIf_kept
      | with_reducible apply sillage_kept
      | (fail_if_no_progress with_reducible refine Kept.lit ?_ (fun _ p => p))
      | trivial
      | split
      | dsimp only

theorem tryRejoin_kept {s0 : State} (s : State) (g i : Nat) (kept : Kept s0 s) : JoinKept s0 (tryRejoin s g i) := by
  unfold tryRejoin
  split
  · trivial
  · split
    · trivial
    · split
      · trivial
      · rename_i t e
        exact putFuture_kept _ _ _ _ (someAll_kept (SomeAll.bindOne (s0 := s0)
          (foldlMO_kept _ kept fun s a k => bringBack_kept _ _ _ k) fun t k => foldlMO_kept _ k fun s a k => bringChunk_kept _ _ _ k) e)

theorem tryJoin_kept {s0 : State} (s : State) (g : Nat) (j : JoinReq) (kept : Kept s0 s) : JoinKept s0 (tryJoin s g j) := by
  unfold tryJoin
  split
  · exact tryRejoin_kept _ _ _ kept
  split
  · trivial
  extract_lets src codes mirror made
  clear_value codes src mirror
  cases codes with
  | none => trivial
  | some codes =>
    have hmade : SomeAll (fun p => Kept s0 p.2) made := by
      unfold made
      split
      · exact forkFuture_kept _ _ _ _ _ kept
      · refine SomeAll.map' fun i => ?_
        exact setFuture_kept _ _ _ _ (Kept.lit kept fun _ p => p)
    clear_value made
    dsimp only
    refine joinKept_if trivial ?_
    split
    · trivial
    rename_i i t
    replace hmade : Kept s0 t := hmade
    split
    · trivial
    rename_i n u eu
    have hu : Kept s0 u := by
      refine someAll_snd (s0 := s0) ?_ eu
      split
      · exact adoptWalk_kept _ _ _ _ _ _ hmade
      · exact hmade
    split
    · trivial
    rename_i w ew
    refine setLag_kept _ _ _ (updFuture_kept _ _ _ _ (someAll_kept (takeReserve_kept (s0 := s0) _ _ _ _ ?_) ew))
    split
    · exact bumpIf_kept _ _ _ _ (updFuture_kept _ _ _ _ hu)
    · exact hu

theorem demoteKv_kept {s0 : State} (s : State) (key : Nat) (kept : Kept s0 s) :
    SomeAll (Kept s0) (demoteKv s key) := by
  unfold demoteKv
  repeat' first
      | with_reducible assumption
      | with_reducible apply freeSlotAt_kept
      | with_reducible apply rekeyPage_kept
      | with_reducible apply okAll_mk
      | with_reducible apply okAll_pure
      | with_reducible apply someAll_mk
      | with_reducible apply someAll_pure
      | (with_reducible refine SomeAll.map' (fun _ => ?_))
      | (refine SomeAll.bindAny (fun _ => ?_))
      | with_reducible apply bump_kept
      | with_reducible apply bumpIf_kept
      | with_reducible apply sillage_kept
      | (fail_if_no_progress with_reducible refine Kept.lit ?_ (fun _ p => p))
      | trivial
      | split
      | dsimp only

theorem demoteChunk_kept {s0 : State} (s : State) (key : Nat) (kept : Kept s0 s) :
    SomeAll (Kept s0) (demoteChunk s key) := by
  unfold demoteChunk
  repeat' first
      | with_reducible assumption
      | with_reducible apply freeSlotAt_kept
      | with_reducible apply rekeyChunk_kept
      | with_reducible apply okAll_mk
      | with_reducible apply okAll_pure
      | with_reducible apply someAll_mk
      | with_reducible apply someAll_pure
      | (with_reducible refine SomeAll.map' (fun _ => ?_))
      | (refine SomeAll.bindAny (fun _ => ?_))
      | with_reducible apply bump_kept
      | with_reducible apply bumpIf_kept
      | with_reducible apply sillage_kept
      | (fail_if_no_progress with_reducible refine Kept.lit ?_ (fun _ p => p))
      | trivial
      | split
      | dsimp only

theorem evictFuture_kept {s0 : State} (s : State) (g i : Nat) (kept : Kept s0 s) : SomeAll (Kept s0) (evictFuture s g i) := by
  unfold evictFuture
  split
  · exact kept
  · refine SomeAll.mapKept (s0 := s0) (SomeAll.bindOne (s0 := s0) (foldlMO_kept _ kept fun s a k => demoteKv_kept _ _ k) fun t k =>
      foldlMO_kept _ k fun s a k => demoteChunk_kept _ _ k) fun t k => ?_
    exact sillage_kept (bump_kept _ _ _ _ (putFuture_kept _ _ _ _ (releaseReserve_kept _ _ _ k)))

theorem noteJoin_kept {s0 : State} (s : State) (g : Nat) (j : JoinReq) (h : Nat) (kept : Kept s0 s) :
    Kept s0 (noteJoin s g j h) := by
  unfold noteJoin
  repeat' first
      | with_reducible assumption
      | with_reducible apply updGroup_kept
      | with_reducible apply bump_kept
      | with_reducible apply bumpIf_kept
      | with_reducible apply sillage_kept
      | (fail_if_no_progress with_reducible refine Kept.lit ?_ (fun _ p => p))
      | trivial
      | split
      | dsimp only

theorem dropJoin_kept {s0 : State} (s : State) (g : Nat) (j : JoinReq) (kept : Kept s0 s) :
    Kept s0 (dropJoin s g j) := by
  unfold dropJoin
  repeat' first
      | with_reducible assumption
      | with_reducible apply updGroup_kept
      | with_reducible apply finishCmd_kept
      | with_reducible apply bump_kept
      | with_reducible apply bumpIf_kept
      | with_reducible apply sillage_kept
      | (fail_if_no_progress with_reducible refine Kept.lit ?_ (fun _ p => p))
      | trivial
      | split
      | dsimp only

theorem runJoins_kept {s0 : State} (g : Nat) (l : List JoinReq) (s : State) (h : Kept s0 s) : Kept s0 (runJoins g l s).1 := by
  induction l generalizing s with
  | nil => exact h
  | cons j js ih =>
    unfold runJoins
    have hj := tryJoin_kept s g j h
    split
    · exact ih _ (dropJoin_kept _ _ _ h)
    · rename_i e
      rw [e] at hj
      exact ih _ (noteJoin_kept _ _ _ _ hj)
    · split
      · exact h
      · split
        · exact h
        · split
          · exact h
          · exact updGroup_kept _ _ _ h

theorem deferJoins_kept {s0 : State} (s : State) (g : Nat) (kept : Kept s0 s) :
    Kept s0 (deferJoins s g) := by
  unfold deferJoins
  repeat' first
      | with_reducible assumption
      | with_reducible apply bumpIf_kept
      | with_reducible apply updGroup_kept
      | with_reducible apply interimCmd_kept
      | (with_reducible refine foldl_kept _ ?_ (fun _ _ _ => ?_))
      | (with_reducible refine foldl_keptP (get := Prod.fst) _ ?_ (fun _ _ _ => ?_))
      | (with_reducible refine foldl_keptP (get := Prod.snd) _ ?_ (fun _ _ _ => ?_))
      | with_reducible apply bump_kept
      | with_reducible apply sillage_kept
      | (fail_if_no_progress with_reducible refine Kept.lit ?_ (fun _ p => p))
      | trivial
      | split
      | dsimp only

theorem undefJob_kept {s0 : State} (s : State) (asid va len : Nat) (kept : Kept s0 s) :
    Kept s0 (undefJob s asid va len) := by
  unfold undefJob
  repeat' first
      | with_reducible assumption
      | with_reducible apply undefSpace_kept
      | (with_reducible refine foldl_kept _ ?_ (fun _ _ _ => ?_))
      | (with_reducible refine foldl_keptP (get := Prod.fst) _ ?_ (fun _ _ _ => ?_))
      | (with_reducible refine foldl_keptP (get := Prod.snd) _ ?_ (fun _ _ _ => ?_))
      | with_reducible apply bump_kept
      | with_reducible apply bumpIf_kept
      | with_reducible apply sillage_kept
      | (fail_if_no_progress with_reducible refine Kept.lit ?_ (fun _ p => p))
      | trivial
      | split
      | dsimp only

theorem closeBoundary_kept {s0 : State} (s : State) (g : Nat) (kept : Kept s0 s) :
    Kept s0 (closeBoundary s g) := by
  unfold closeBoundary
  repeat' first
      | with_reducible assumption
      | with_reducible apply jobWritesD_kept
      | with_reducible apply add32_kept
      | (with_reducible refine OkAll.bind (add32_kept (s0 := s0) _ _ _ _ ?_) (fun _ _ => ?_))
      | (with_reducible refine okAll_snd (add32_kept (s0 := s0) _ _ _ _ ?_) (by assumption))
      | with_reducible apply setGroup_kept
      | with_reducible apply finishCmd_kept
      | with_reducible apply deferJoins_kept
      | with_reducible apply undefJob_kept
      | (with_reducible refine foldl_kept _ ?_ (fun _ _ _ => ?_))
      | (with_reducible refine foldl_keptP (get := Prod.fst) _ ?_ (fun _ _ _ => ?_))
      | (with_reducible refine foldl_keptP (get := Prod.snd) _ ?_ (fun _ _ _ => ?_))
      | with_reducible apply bump_kept
      | with_reducible apply bumpIf_kept
      | with_reducible apply sillage_kept
      | (fail_if_no_progress with_reducible refine Kept.lit ?_ (fun _ p => p))
      | trivial
      | split
      | dsimp only

theorem joinsAndClose_kept {s0 : State} (s : State) (g : Nat) (kept : Kept s0 s) :
    Kept s0 (joinsAndClose s g) := by
  unfold joinsAndClose
  repeat' first
      | with_reducible assumption
      | with_reducible apply runJoins_kept
      | with_reducible apply closeBoundary_kept
      | with_reducible apply bump_kept
      | with_reducible apply bumpIf_kept
      | with_reducible apply sillage_kept
      | (fail_if_no_progress with_reducible refine Kept.lit ?_ (fun _ p => p))
      | trivial
      | split
      | dsimp only

theorem runLeave_kept {s0 : State} (s : State) (g : Nat) (l : LeaveReq) (kept : Kept s0 s) :
    Kept s0 (runLeave s g l) := by
  unfold runLeave
  repeat' first
      | with_reducible assumption
      | with_reducible apply updGroup_kept
      | with_reducible apply dropFuture_kept
      | with_reducible apply finishCmd_kept
      | with_reducible apply putFuture_kept
      | with_reducible apply bump_kept
      | with_reducible apply bumpIf_kept
      | with_reducible apply sillage_kept
      | (fail_if_no_progress with_reducible refine Kept.lit ?_ (fun _ p => p))
      | trivial
      | split
      | dsimp only

theorem sweepBatch_kept {s0 : State} (s : State) (g : Nat) (kept : Kept s0 s) :
    Kept s0 (sweepBatch s g) := by
  unfold sweepBatch
  repeat' first
      | with_reducible assumption
      | with_reducible apply updGroup_kept
      | (with_reducible refine foldl_kept _ ?_ (fun _ _ _ => ?_))
      | (with_reducible refine foldl_keptP (get := Prod.fst) _ ?_ (fun _ _ _ => ?_))
      | (with_reducible refine foldl_keptP (get := Prod.snd) _ ?_ (fun _ _ _ => ?_))
      | with_reducible apply bump_kept
      | with_reducible apply bumpIf_kept
      | with_reducible apply sillage_kept
      | (fail_if_no_progress with_reducible refine Kept.lit ?_ (fun _ p => p))
      | trivial
      | split
      | dsimp only

theorem admitJoining_kept {s0 : State} (s : State) (g : Nat) (kept : Kept s0 s) :
    Kept s0 (admitJoining s g) := by
  unfold admitJoining
  repeat' first
      | with_reducible assumption
      | with_reducible apply updGroup_kept
      | with_reducible apply putFuture_kept
      | (with_reducible refine foldl_kept _ ?_ (fun _ _ _ => ?_))
      | (with_reducible refine foldl_keptP (get := Prod.fst) _ ?_ (fun _ _ _ => ?_))
      | (with_reducible refine foldl_keptP (get := Prod.snd) _ ?_ (fun _ _ _ => ?_))
      | with_reducible apply bump_kept
      | with_reducible apply bumpIf_kept
      | with_reducible apply sillage_kept
      | (fail_if_no_progress with_reducible refine Kept.lit ?_ (fun _ p => p))
      | trivial
      | split
      | dsimp only

end Sys2Proof.Machine
end

