-- ==== Sys2Proof/Laws/KeptMemory.lean ====
section
/-! SUPPORT. What DRAM, thermal control, the tiers and the Imago cache keep. `Kept` says what; one lemma per operation. -/

namespace Sys2Proof.Machine

set_option linter.unusedTactic false
set_option linter.unreachableTactic false

theorem setChan_kept {s0 : State} (s : State) (d n : Nat) (st : ChanState) (kept : Kept s0 s) :
    Kept s0 (setChan s d n st) := by
  unfold setChan
  repeat' first
      | with_reducible assumption
      | with_reducible apply sillage_kept
      | with_reducible apply updDie_kept
      | with_reducible apply bump_kept
      | with_reducible apply bumpIf_kept
      | (fail_if_no_progress with_reducible refine Kept.lit ?_ (fun _ p => p))
      | trivial
      | split
      | dsimp only

theorem noteNoSpare_kept {s0 : State} (s : State) (d n : Nat) (kept : Kept s0 s) :
    Kept s0 (noteNoSpare s d n) := by
  unfold noteNoSpare
  repeat' first
      | with_reducible assumption
      | with_reducible apply sillage_kept
      | with_reducible apply setDie_kept
      | with_reducible apply bump_kept
      | with_reducible apply bumpIf_kept
      | (fail_if_no_progress with_reducible refine Kept.lit ?_ (fun _ p => p))
      | trivial
      | split
      | dsimp only

theorem queueMig_kept {s0 : State} (s : State) (d n prio : Nat) (auto : Bool) (kept : Kept s0 s) :
    Kept s0 (queueMig s d n prio auto) := by
  unfold queueMig
  repeat' first
      | with_reducible assumption
      | with_reducible apply setDie_kept
      | with_reducible apply noteNoSpare_kept
      | with_reducible apply bump_kept
      | with_reducible apply bumpIf_kept
      | with_reducible apply sillage_kept
      | (fail_if_no_progress with_reducible refine Kept.lit ?_ (fun _ p => p))
      | trivial
      | split
      | dsimp only

theorem noteCe_kept {s0 : State} (s : State) (d dpa : Nat) (kept : Kept s0 s) :
    Kept s0 (noteCe s d dpa) := by
  unfold noteCe
  repeat' first
      | with_reducible assumption
      | with_reducible apply bump_kept
      | with_reducible apply setDie_kept
      | with_reducible apply queueMig_kept
      | with_reducible apply bumpIf_kept
      | with_reducible apply sillage_kept
      | (fail_if_no_progress with_reducible refine Kept.lit ?_ (fun _ p => p))
      | trivial
      | split
      | dsimp only

theorem noteUe_kept {s0 : State} (s : State) (d dpa : Nat) (kept : Kept s0 s) :
    Kept s0 (noteUe s d dpa).1 := by
  unfold noteUe
  repeat' first
      | with_reducible assumption
      | with_reducible apply countUe_kept
      | with_reducible apply repairUe_kept
      | with_reducible apply bump_kept
      | with_reducible apply bumpIf_kept
      | with_reducible apply sillage_kept
      | (fail_if_no_progress with_reducible refine Kept.lit ?_ (fun _ p => p))
      | trivial
      | split
      | dsimp only

theorem judge_kept {s0 : State} (s : State) (d dpa errs : Nat) (kept : Kept s0 s) :
    Kept s0 (judge s d dpa errs).1 := by
  unfold judge
  repeat' first
      | with_reducible assumption
      | with_reducible apply noteCe_kept
      | with_reducible apply noteUe_kept
      | (with_reducible refine pair_fst (noteUe_kept (s0 := s0) _ _ _ ?_) (by assumption))
      | with_reducible apply bump_kept
      | with_reducible apply bumpIf_kept
      | with_reducible apply sillage_kept
      | (fail_if_no_progress with_reducible refine Kept.lit ?_ (fun _ p => p))
      | trivial
      | split
      | dsimp only

theorem failReq_kept {s0 : State} (s : State) (src : DramSource) (f : Fail) (kept : Kept s0 s) :
    Kept s0 (failReq s src f) := by
  unfold failReq
  repeat' first
      | with_reducible assumption
      | with_reducible apply failJobService_kept
      | with_reducible apply bump_kept
      | with_reducible apply bumpIf_kept
      | with_reducible apply sillage_kept
      | (fail_if_no_progress with_reducible refine Kept.lit ?_ (fun _ p => p))
      | trivial
      | split
      | dsimp only

theorem serveCw_kept {s0 : State} (d : Nat) (r : DramReq) (acc : State × Option Fail) (i : Nat) (kept : Kept s0 acc.1) :
    Kept s0 (serveCw d r acc i).1 := by
  unfold serveCw
  extract_lets a lo hi cw whole found
  have k : Kept s0 found.1 := by
    unfold found
    split
    · exact clearUe_kept _ _ kept
    · exact judge_kept _ _ _ _ kept
  clear_value found
  split
  · exact k
  · split
    · exact k
    · extract_lets part
      dsimp only
      refine dropWbacks_kept _ _ ?_
      exact Kept.lit_dram k (fun _ p => p) fun w => memWrites_wf w _ _

theorem readFill_kept {s0 : State} (s : State) (bs : List Byte) (kept : Kept s0 s) :
    Kept s0 (readFill s bs) := by
  unfold readFill
  repeat' first
      | with_reducible assumption
      | with_reducible apply sendHostMem_kept
      | with_reducible apply bump_kept
      | with_reducible apply bumpIf_kept
      | with_reducible apply sillage_kept
      | (fail_if_no_progress with_reducible refine Kept.lit ?_ (fun _ p => p))
      | trivial
      | split
      | dsimp only

theorem hostAnswer_kept {s0 : State} (s : State) (d : Nat) (r : DramReq) (bad : Bool) (kept : Kept s0 s) :
    Kept s0 (hostAnswer s d r bad) := by
  unfold hostAnswer
  repeat' first
      | with_reducible assumption
      | with_reducible apply sillage_kept
      | with_reducible apply bump_kept
      | with_reducible apply sendHostMem_kept
      | with_reducible apply postEvent_kept
      | with_reducible apply readFill_kept
      | with_reducible apply bumpIf_kept
      | (fail_if_no_progress with_reducible refine Kept.lit ?_ (fun _ p => p))
      | trivial
      | split
      | dsimp only

theorem serve_kept {s0 : State} (s : State) (d : Nat) (r : DramReq) (kept : Kept s0 s) : Kept s0 (serve s d r) := by
  unfold serve
  extract_lets x
  have k : Kept s0 x.1 := foldl_keptP (get := Prod.fst) _ kept fun b a h => serveCw_kept _ _ _ _ h
  clear_value x
  split
  · exact hostAnswer_kept _ _ _ _ k
  · exact failReq_kept _ _ _ k
  · exact k

theorem atMapper_kept {s0 : State} (s : State) (d : Nat) (r : DramReq) (kept : Kept s0 s) :
    Kept s0 (atMapper s d r) := by
  unfold atMapper
  repeat' first
      | with_reducible assumption
      | with_reducible apply updDie_kept
      | with_reducible apply serve_kept
      | with_reducible apply bump_kept
      | with_reducible apply bumpIf_kept
      | with_reducible apply sillage_kept
      | (fail_if_no_progress with_reducible refine Kept.lit ?_ (fun _ p => p))
      | trivial
      | split
      | dsimp only

theorem takeParts_kept {s0 : State} (s : State) (d : Nat) (kept : Kept s0 s) :
    Kept s0 (takeParts s d) := by
  unfold takeParts
  repeat' first
      | with_reducible assumption
      | with_reducible apply updDie_kept
      | with_reducible apply bump_kept
      | with_reducible apply bumpIf_kept
      | with_reducible apply sillage_kept
      | (fail_if_no_progress with_reducible refine Kept.lit ?_ (fun _ p => p))
      | trivial
      | split
      | dsimp only

theorem arriveReq_kept {s0 : State} (s : State) (d : Nat) (r : DramReq) (kept : Kept s0 s) :
    Kept s0 (arriveReq s d r) := by
  unfold arriveReq
  repeat' first
      | with_reducible assumption
      | with_reducible apply updDie_kept
      | with_reducible apply admitReq_kept
      | with_reducible apply atMapper_kept
      | with_reducible apply bump_kept
      | with_reducible apply bumpIf_kept
      | with_reducible apply sillage_kept
      | (fail_if_no_progress with_reducible refine Kept.lit ?_ (fun _ p => p))
      | trivial
      | split
      | dsimp only

theorem crossing_kept {s0 : State} (s : State) (n d : Nat) (r : DramReq) (kept : Kept s0 s) :
    Kept s0 (crossing s n d r) := by
  unfold crossing
  repeat' first
      | with_reducible assumption
      | with_reducible apply send_kept
      | with_reducible apply bump_kept
      | with_reducible apply bumpIf_kept
      | with_reducible apply sillage_kept
      | (fail_if_no_progress with_reducible refine Kept.lit ?_ (fun _ p => p))
      | trivial
      | split
      | dsimp only

theorem degradedServe_kept {s0 : State} (s : State) (d : Nat) (r : DramReq) (kept : Kept s0 s) :
    Kept s0 (degradedServe s d r) := by
  unfold degradedServe
  repeat' first
      | with_reducible assumption
      | with_reducible apply bumpIf_kept
      | with_reducible apply crossing_kept
      | (with_reducible refine foldl_kept _ ?_ (fun _ _ _ => ?_))
      | (with_reducible refine foldl_keptP (get := Prod.fst) _ ?_ (fun _ _ _ => ?_))
      | (with_reducible refine foldl_keptP (get := Prod.snd) _ ?_ (fun _ _ _ => ?_))
      | with_reducible apply bump_kept
      | with_reducible apply sillage_kept
      | (fail_if_no_progress with_reducible refine Kept.lit ?_ (fun _ p => p))
      | trivial
      | split
      | dsimp only

theorem outOfReach_kept {s0 : State} (s : State) (d : Nat) (r : DramReq) (kept : Kept s0 s) :
    Kept s0 (outOfReach s d r) := by
  unfold outOfReach
  repeat' first
      | with_reducible assumption
      | with_reducible apply bump_kept
      | with_reducible apply failReq_kept
      | with_reducible apply readFill_kept
      | with_reducible apply degradedServe_kept
      | with_reducible apply bumpIf_kept
      | with_reducible apply sillage_kept
      | (fail_if_no_progress with_reducible refine Kept.lit ?_ (fun _ p => p))
      | trivial
      | split
      | dsimp only

theorem requestDram_kept {s0 : State} (s : State) (d : Nat) (r : DramReq) (kept : Kept s0 s) :
    Kept s0 (requestDram s d r) := by
  unfold requestDram
  repeat' first
      | with_reducible assumption
      | with_reducible apply arriveReq_kept
      | with_reducible apply crossing_kept
      | with_reducible apply outOfReach_kept
      | with_reducible apply bump_kept
      | with_reducible apply bumpIf_kept
      | with_reducible apply sillage_kept
      | (fail_if_no_progress with_reducible refine Kept.lit ?_ (fun _ p => p))
      | trivial
      | split
      | dsimp only

theorem releaseHeld_kept {s0 : State} (s : State) (d : Nat) (h : HeldReq) (kept : Kept s0 s) :
    Kept s0 (releaseHeld s d h) := by
  unfold releaseHeld
  repeat' first
      | with_reducible assumption
      | with_reducible apply bumpIf_kept
      | with_reducible apply updDie_kept
      | with_reducible apply admitReq_kept
      | with_reducible apply atMapper_kept
      | with_reducible apply bump_kept
      | with_reducible apply sillage_kept
      | (fail_if_no_progress with_reducible refine Kept.lit ?_ (fun _ p => p))
      | trivial
      | split
      | dsimp only

theorem releaseRound_kept {s0 : State} (n : Nat) (s : State) (d : Nat) (kept : Kept s0 s) :
    Kept s0 (releaseRound n s d) := by
  induction n generalizing s with
  | zero => exact kept
  | succ n ih =>
    unfold releaseRound
    repeat' first
      | with_reducible assumption
      | with_reducible apply ih
      | with_reducible apply releaseHeld_kept
      | split
      | dsimp only

theorem applyAdd_kept {s0 : State} (s : State) (d : Nat) (q : AddReq) (kept : Kept s0 s) : Kept s0 (applyAdd s d q) := by
  unfold applyAdd
  extract_lets n a found t old u
  have k : Kept s0 found.1 := judge_kept _ _ _ _ kept
  have k2 : Kept s0 u := dropWbacks_kept _ _ (Kept.lit_dram k (fun _ p => p) fun w => memWrites_wf w _ _)
  clear_value u t old
  split
  · exact failReq_kept _ _ _ k
  · split
    · exact updDie_kept _ _ _ k2
    · exact landAt_kept _ _ _ (updDie_kept _ _ _ k2)
    · exact landAt_kept _ _ _ k2

theorem requestAdd_kept {s0 : State} (s : State) (d : Nat) (q : AddReq) (kept : Kept s0 s) :
    Kept s0 (requestAdd s d q) := by
  unfold requestAdd
  extract_lets n
  split
  · exact failReq_kept _ _ _ kept
  · split
    · exact failReq_kept _ _ _ kept
    · split
      · exact failReq_kept _ _ _ kept
      · split
        · exact updDie_kept _ _ _ kept
        · exact applyAdd_kept _ _ _ kept

theorem requeueMig_kept {s0 : State} (s : State) (d : Nat) (kept : Kept s0 s) :
    Kept s0 (requeueMig s d) := by
  unfold requeueMig
  repeat' first
      | with_reducible assumption
      | with_reducible apply setDie_kept
      | with_reducible apply bump_kept
      | with_reducible apply bumpIf_kept
      | with_reducible apply sillage_kept
      | (fail_if_no_progress with_reducible refine Kept.lit ?_ (fun _ p => p))
      | trivial
      | split
      | dsimp only

theorem copyTo_kept {s0 : State} (s : State) (d : Nat) (m : Migration) (new : Nat) (kept : Kept s0 s) :
    Kept s0 (copyTo s d m new) := by
  unfold copyTo
  repeat' first
      | with_reducible assumption
      | with_reducible apply updDie_kept
      | with_reducible apply countUe_kept
      | (with_reducible refine foldl_kept _ ?_ (fun _ _ _ => ?_))
      | (with_reducible refine foldl_keptP (get := Prod.fst) _ ?_ (fun _ _ _ => ?_))
      | (with_reducible refine foldl_keptP (get := Prod.snd) _ ?_ (fun _ _ _ => ?_))
      | with_reducible apply bump_kept
      | with_reducible apply bumpIf_kept
      | with_reducible apply sillage_kept
      | (fail_if_no_progress with_reducible refine Kept.lit ?_ (fun _ p => p))
      | trivial
      | split
      | dsimp only

theorem copyTick_kept {s0 : State} (s : State) (d : Nat) (kept : Kept s0 s) :
    Kept s0 (copyTick s d) := by
  unfold copyTick
  repeat' first
      | with_reducible assumption
      | with_reducible apply copyTo_kept
      | with_reducible apply bump_kept
      | with_reducible apply bumpIf_kept
      | with_reducible apply sillage_kept
      | (fail_if_no_progress with_reducible refine Kept.lit ?_ (fun _ p => p))
      | trivial
      | split
      | dsimp only

theorem passTime_kept {s0 : State} (s : State) (kept : Kept s0 s) :
    Kept s0 (passTime s) := by
  unfold passTime
  repeat' first
      | with_reducible assumption
      | with_reducible apply linksTick_kept
      | with_reducible apply hostTick_kept
      | with_reducible apply copyTick_kept
      | (with_reducible refine foldl_kept _ ?_ (fun _ _ _ => ?_))
      | (with_reducible refine foldl_keptP (get := Prod.fst) _ ?_ (fun _ _ _ => ?_))
      | (with_reducible refine foldl_keptP (get := Prod.snd) _ ?_ (fun _ _ _ => ?_))
      | with_reducible apply bump_kept
      | with_reducible apply bumpIf_kept
      | with_reducible apply sillage_kept
      | (fail_if_no_progress with_reducible refine Kept.lit ?_ (fun _ p => p))
      | trivial
      | split
      | dsimp only

theorem releaseSwap_kept {s0 : State} (s : State) (d : Nat) (kept : Kept s0 s) :
    Kept s0 (releaseSwap s d) := by
  unfold releaseSwap
  repeat' first
      | with_reducible assumption
      | with_reducible apply updDie_kept
      | with_reducible apply serve_kept
      | with_reducible apply applyAdd_kept
      | (with_reducible refine foldl_kept _ ?_ (fun _ _ _ => ?_))
      | (with_reducible refine foldl_keptP (get := Prod.fst) _ ?_ (fun _ _ _ => ?_))
      | (with_reducible refine foldl_keptP (get := Prod.snd) _ ?_ (fun _ _ _ => ?_))
      | with_reducible apply bump_kept
      | with_reducible apply bumpIf_kept
      | with_reducible apply sillage_kept
      | (fail_if_no_progress with_reducible refine Kept.lit ?_ (fun _ p => p))
      | trivial
      | split
      | dsimp only

theorem swapMap_kept {s0 : State} (s : State) (d : Nat) (m : Migration) (kept : Kept s0 s) :
    Kept s0 (swapMap s d m) := by
  unfold swapMap
  repeat' first
      | with_reducible assumption
      | with_reducible apply bump_kept
      | with_reducible apply setDie_kept
      | with_reducible apply setChan_kept
      | with_reducible apply bumpIf_kept
      | with_reducible apply sillage_kept
      | (fail_if_no_progress with_reducible refine Kept.lit ?_ (fun _ p => p))
      | trivial
      | split
      | dsimp only

theorem measureTrims_kept {s0 : State} (s : State) (d : Nat) (kept : Kept s0 s) :
    Kept s0 (measureTrims s d) := by
  unfold measureTrims
  repeat' first
      | with_reducible assumption
      | with_reducible apply updCluster_kept
      | (with_reducible refine foldl_kept _ ?_ (fun _ _ _ => ?_))
      | (with_reducible refine foldl_keptP (get := Prod.fst) _ ?_ (fun _ _ _ => ?_))
      | (with_reducible refine foldl_keptP (get := Prod.snd) _ ?_ (fun _ _ _ => ?_))
      | with_reducible apply bump_kept
      | with_reducible apply bumpIf_kept
      | with_reducible apply sillage_kept
      | (fail_if_no_progress with_reducible refine Kept.lit ?_ (fun _ p => p))
      | trivial
      | split
      | dsimp only

theorem abandonMig_kept {s0 : State} (s : State) (d : Nat) (kept : Kept s0 s) :
    Kept s0 (abandonMig s d) := by
  unfold abandonMig
  repeat' first
      | with_reducible assumption
      | with_reducible apply setDie_kept
      | with_reducible apply setChan_kept
      | with_reducible apply bump_kept
      | with_reducible apply bumpIf_kept
      | with_reducible apply sillage_kept
      | (fail_if_no_progress with_reducible refine Kept.lit ?_ (fun _ p => p))
      | trivial
      | split
      | dsimp only

theorem applyPoint_kept {s0 : State} (s : State) (k : Nat) (kept : Kept s0 s) :
    Kept s0 (applyPoint s k) := by
  unfold applyPoint
  repeat' first
      | with_reducible assumption
      | with_reducible apply updCluster_kept
      | with_reducible apply chargeCluster_kept
      | with_reducible apply bump_kept
      | with_reducible apply bumpIf_kept
      | with_reducible apply sillage_kept
      | (fail_if_no_progress with_reducible refine Kept.lit ?_ (fun _ p => p))
      | trivial
      | split
      | dsimp only

theorem layerPeriod_kept {s0 : State} (s : State) (d l : Nat) (kept : Kept s0 s) :
    Kept s0 (layerPeriod s d l) := by
  unfold layerPeriod
  repeat' first
      | with_reducible assumption
      | with_reducible apply sillage_kept
      | with_reducible apply setDie_kept
      | with_reducible apply bump_kept
      | with_reducible apply bumpIf_kept
      | (fail_if_no_progress with_reducible refine Kept.lit ?_ (fun _ p => p))
      | trivial
      | split
      | dsimp only

theorem clusterPeriod_kept {s0 : State} (s : State) (k : Nat) (kept : Kept s0 s) :
    Kept s0 (clusterPeriod s k) := by
  unfold clusterPeriod
  repeat' first
      | with_reducible assumption
      | with_reducible apply updDie_kept
      | with_reducible apply setCluster_kept
      | with_reducible apply bump_kept
      | with_reducible apply bumpIf_kept
      | with_reducible apply sillage_kept
      | (fail_if_no_progress with_reducible refine Kept.lit ?_ (fun _ p => p))
      | trivial
      | split
      | dsimp only

theorem countLowered_kept {s0 : State} (s : State) (d : Nat) (kept : Kept s0 s) :
    Kept s0 (countLowered s d) := by
  unfold countLowered
  repeat' first
      | with_reducible assumption
      | with_reducible apply bump_kept
      | with_reducible apply updDie_kept
      | with_reducible apply bumpIf_kept
      | with_reducible apply sillage_kept
      | (fail_if_no_progress with_reducible refine Kept.lit ?_ (fun _ p => p))
      | trivial
      | split
      | dsimp only

theorem powerPeriod_kept {s0 : State} (s : State) (kept : Kept s0 s) :
    Kept s0 (powerPeriod s) := by
  unfold powerPeriod
  repeat' first
      | with_reducible assumption
      | with_reducible apply sillage_kept
      | with_reducible apply bump_kept
      | with_reducible apply updCluster_kept
      | (with_reducible refine foldl_kept _ ?_ (fun _ _ _ => ?_))
      | (with_reducible refine foldl_keptP (get := Prod.fst) _ ?_ (fun _ _ _ => ?_))
      | (with_reducible refine foldl_keptP (get := Prod.snd) _ ?_ (fun _ _ _ => ?_))
      | with_reducible apply bumpIf_kept
      | (fail_if_no_progress with_reducible refine Kept.lit ?_ (fun _ p => p))
      | trivial
      | split
      | dsimp only

theorem startHalf_kept {s0 : State} (s : State) (d : Nat) (kept : Kept s0 s) :
    Kept s0 (startHalf s d) := by
  unfold startHalf
  repeat' first
      | with_reducible assumption
      | with_reducible apply bump_kept
      | with_reducible apply updDie_kept
      | with_reducible apply bumpIf_kept
      | with_reducible apply sillage_kept
      | (fail_if_no_progress with_reducible refine Kept.lit ?_ (fun _ p => p))
      | trivial
      | split
      | dsimp only

theorem currentPeriod_kept {s0 : State} (s : State) (kept : Kept s0 s) : Kept s0 (currentPeriod s) := by
  unfold currentPeriod
  extract_lets pkgOver t n
  have ht : Kept s0 t := by
    unfold t
    refine foldl_kept _ kept fun s d k => ?_
    extract_lets excess s1 s2 n
    have h1 : Kept s0 s1 := by
      unfold s1
      split
      · refine foldl_kept _ k fun s c k => ?_
        split
        · exact updCluster_kept _ _ _ k
        · exact k
      · exact k
    have h2 : Kept s0 s2 := by
      unfold s2
      split
      · exact updDie_kept _ _ _ h1
      · exact h1
    clear_value s2
    exact Kept.lit h2 fun _ p => p
  clear_value t
  exact Kept.lit ht fun _ p => p

theorem takeReadings_kept {s0 : State} (s : State) (r : Readings) (kept : Kept s0 s) :
    Kept s0 (takeReadings s r) := by
  unfold takeReadings
  repeat' first
      | with_reducible assumption
      | with_reducible apply updDie_kept
      | (with_reducible refine foldl_kept _ ?_ (fun _ _ _ => ?_))
      | (with_reducible refine foldl_keptP (get := Prod.fst) _ ?_ (fun _ _ _ => ?_))
      | (with_reducible refine foldl_keptP (get := Prod.snd) _ ?_ (fun _ _ _ => ?_))
      | with_reducible apply bump_kept
      | with_reducible apply bumpIf_kept
      | with_reducible apply sillage_kept
      | (fail_if_no_progress with_reducible refine Kept.lit ?_ (fun _ p => p))
      | trivial
      | split
      | dsimp only

theorem endSpace_kept {s0 : State} (s : State) (asid : Nat) (kept : Kept s0 s) :
    Kept s0 (endSpace s asid) := by
  unfold endSpace
  repeat' first
      | with_reducible assumption
      | with_reducible apply dropCaches_kept
      | with_reducible apply imagoSettle_kept
      | with_reducible apply bump_kept
      | with_reducible apply bumpIf_kept
      | with_reducible apply sillage_kept
      | (fail_if_no_progress with_reducible refine Kept.lit ?_ (fun _ p => p))
      | trivial
      | split
      | dsimp only

theorem finishMap_kept {s0 : State} (s : State) (id : Nat) (c : Cmd) (kept : Kept s0 s) :
    Kept s0 (finishMap s id c) := by
  unfold finishMap
  repeat' first
      | with_reducible assumption
      | with_reducible apply finishCmd_kept
      | with_reducible apply bump_kept
      | with_reducible apply bumpIf_kept
      | with_reducible apply sillage_kept
      | (fail_if_no_progress with_reducible refine Kept.lit ?_ (fun _ p => p))
      | trivial
      | split
      | dsimp only

theorem mapOne_kept {s0 : State} (s : State) (id : Nat) (c : Cmd) (v : Nat) (rest : List Nat) (frame : Nat) (kept : Kept s0 s) :
    Kept s0 (mapOne s id c v rest frame) := by
  unfold mapOne
  repeat' first
      | with_reducible assumption
      | with_reducible apply updCmd_kept
      | with_reducible apply interimCmd_kept
      | with_reducible apply setPte_kept
      | with_reducible apply finishMap_kept
      | with_reducible apply bump_kept
      | with_reducible apply bumpIf_kept
      | with_reducible apply sillage_kept
      | (fail_if_no_progress with_reducible refine Kept.lit ?_ (fun _ p => p))
      | trivial
      | split
      | dsimp only

theorem mapRun_kept {s0 : State} (s : State) (id : Nat) (c : Cmd) (frame : Nat) (kept : Kept s0 s) :
    Kept s0 (mapRun s id c frame) := by
  unfold mapRun
  repeat' first
      | with_reducible assumption
      | with_reducible apply updCmd_kept
      | with_reducible apply interimCmd_kept
      | with_reducible apply setPte_kept
      | with_reducible apply finishMap_kept
      | (with_reducible refine foldl_kept _ ?_ (fun _ _ _ => ?_))
      | (with_reducible refine foldl_keptP (get := Prod.fst) _ ?_ (fun _ _ _ => ?_))
      | (with_reducible refine foldl_keptP (get := Prod.snd) _ ?_ (fun _ _ _ => ?_))
      | with_reducible apply bump_kept
      | with_reducible apply bumpIf_kept
      | with_reducible apply sillage_kept
      | (fail_if_no_progress with_reducible refine Kept.lit ?_ (fun _ p => p))
      | trivial
      | split
      | dsimp only

theorem beginMove_kept {s0 : State} (s : State) (asid vpn : Nat) (p : Pte) (tier die frame : Nat) (kept : Kept s0 s) :
    Kept s0 (beginMove s asid vpn p tier die frame) := by
  unfold beginMove
  repeat' first
      | with_reducible assumption
      | with_reducible apply setPte_kept
      | with_reducible apply bump_kept
      | with_reducible apply bumpIf_kept
      | with_reducible apply sillage_kept
      | (fail_if_no_progress with_reducible refine Kept.lit ?_ (fun _ p => p))
      | trivial
      | split
      | dsimp only

theorem copyPage_kept {s0 : State} (s : State) (a b : PAddr) (kept : Kept s0 s) :
    Kept s0 (copyPage s a b) := by
  unfold copyPage
  repeat' first
      | with_reducible assumption
      | with_reducible apply physWrite_kept
      | (with_reducible refine foldl_kept _ ?_ (fun _ _ _ => ?_))
      | (with_reducible refine foldl_keptP (get := Prod.fst) _ ?_ (fun _ _ _ => ?_))
      | (with_reducible refine foldl_keptP (get := Prod.snd) _ ?_ (fun _ _ _ => ?_))
      | with_reducible apply bump_kept
      | with_reducible apply bumpIf_kept
      | with_reducible apply sillage_kept
      | (fail_if_no_progress with_reducible refine Kept.lit ?_ (fun _ p => p))
      | trivial
      | split
      | dsimp only

theorem settlePlaces_kept {s0 : State} (s : State) (asid vpn : Nat) (kept : Kept s0 s) :
    Kept s0 (settlePlaces s asid vpn) := by
  unfold settlePlaces
  repeat' first
      | with_reducible assumption
      | with_reducible apply updCmd_kept
      | with_reducible apply finishCmd_kept
      | (with_reducible refine foldl_kept _ ?_ (fun _ _ _ => ?_))
      | (with_reducible refine foldl_keptP (get := Prod.fst) _ ?_ (fun _ _ _ => ?_))
      | (with_reducible refine foldl_keptP (get := Prod.snd) _ ?_ (fun _ _ _ => ?_))
      | with_reducible apply bump_kept
      | with_reducible apply bumpIf_kept
      | with_reducible apply sillage_kept
      | (fail_if_no_progress with_reducible refine Kept.lit ?_ (fun _ p => p))
      | trivial
      | split
      | dsimp only

theorem freshSegs_kept {s0 : State} (s : State) (kept : Kept s0 s) : Kept s0 (freshSegs s) :=
  mapTasks_kept kept fun _ _ => rfl

theorem movePaid_kept {s0 : State} (s : State) (bytes t0 d0 t1 d1 page : Nat) (kept : Kept s0 s) :
    Kept s0 (movePaid s bytes t0 d0 t1 d1 page) := by
  unfold movePaid
  repeat' first
      | with_reducible assumption
      | with_reducible apply send_kept
      | with_reducible apply admitReq_kept
      | with_reducible apply bump_kept
      | with_reducible apply bumpIf_kept
      | with_reducible apply sillage_kept
      | (fail_if_no_progress with_reducible refine Kept.lit ?_ (fun _ p => p))
      | trivial
      | split
      | dsimp only

theorem placeOne_kept {s0 : State} (s : State) (id : Nat) (c : Cmd) (v : Nat) (rest : List Nat) (frame : Nat) (kept : Kept s0 s) :
    Kept s0 (placeOne s id c v rest frame) := by
  unfold placeOne
  repeat' first
      | with_reducible assumption
      | with_reducible apply undefSpace_kept
      | with_reducible apply updCmd_kept
      | with_reducible apply interimCmd_kept
      | with_reducible apply setPte_kept
      | with_reducible apply beginMove_kept
      | with_reducible apply bump_kept
      | with_reducible apply bumpIf_kept
      | with_reducible apply sillage_kept
      | (fail_if_no_progress with_reducible refine Kept.lit ?_ (fun _ p => p))
      | trivial
      | split
      | dsimp only

theorem demotePage_kept {s0 : State} (s : State) (d from0 frame : Nat) (l : List (Nat × Nat × Pte)) (kept : Kept s0 s) :
    Kept s0 (demotePage s d from0 frame l) := by
  unfold demotePage
  repeat' first
      | with_reducible assumption
      | with_reducible apply beginMove_kept
      | with_reducible apply bump_kept
      | with_reducible apply bumpIf_kept
      | with_reducible apply sillage_kept
      | (fail_if_no_progress with_reducible refine Kept.lit ?_ (fun _ p => p))
      | trivial
      | split
      | dsimp only

theorem promoteKv_kept {s0 : State} (s : State) (key : Nat) (kept : Kept s0 s) :
    Kept s0 (promoteKv s key) := by
  unfold promoteKv
  repeat' first
      | with_reducible assumption
      | with_reducible apply freshSegs_kept
      | with_reducible apply movePaid_kept
      | with_reducible apply bump_kept
      | with_reducible apply bumpIf_kept
      | with_reducible apply sillage_kept
      | (fail_if_no_progress with_reducible refine Kept.lit ?_ (fun _ p => p))
      | trivial
      | split
      | dsimp only

theorem promotePage_kept {s0 : State} (s : State) (asid vpn frame : Nat) (kept : Kept s0 s) :
    Kept s0 (promotePage s asid vpn frame) := by
  unfold promotePage
  repeat' first
      | with_reducible assumption
      | with_reducible apply beginMove_kept
      | with_reducible apply bump_kept
      | with_reducible apply bumpIf_kept
      | with_reducible apply sillage_kept
      | (fail_if_no_progress with_reducible refine Kept.lit ?_ (fun _ p => p))
      | trivial
      | split
      | dsimp only

theorem makeRoom_kept {s0 : State} (n : Nat) (s : State) (ps : List (Nat × Nat × Bool)) (kept : Kept s0 s) :
    Kept s0 (makeRoom n s ps) := by
  induction n generalizing s with
  | zero => exact kept
  | succ n ih =>
    unfold makeRoom
    split
    · exact kept
    · split
      · exact ih _ (freeImago_kept _ _ kept)
      · exact kept

theorem extendMr_kept {s0 : State} (s : State) (i : Nat) (digest : List Byte) (t : String) (kept : Kept s0 s) :
    Kept s0 (extendMr s i digest t) := by
  unfold extendMr
  repeat' first
      | with_reducible assumption
      | with_reducible apply bump_kept
      | with_reducible apply bumpIf_kept
      | with_reducible apply sillage_kept
      | (fail_if_no_progress with_reducible refine Kept.lit ?_ (fun _ p => p))
      | trivial
      | split
      | dsimp only

theorem beginLoad_kept {s0 : State} (s : State) (m : Image) (slot frame id : Nat) (kept : Kept s0 s) :
    Kept s0 (beginLoad s m slot frame id) := by
  unfold beginLoad
  repeat' first
      | with_reducible assumption
      | with_reducible apply updCmd_kept
      | with_reducible apply interimCmd_kept
      | with_reducible apply makeRoom_kept
      | with_reducible apply bump_kept
      | with_reducible apply bumpIf_kept
      | with_reducible apply sillage_kept
      | (fail_if_no_progress with_reducible refine Kept.lit ?_ (fun _ p => p))
      | trivial
      | split
      | dsimp only

theorem landPages_kept {s0 : State} (s : State) (m : Image) (ps : List ImagoPage) (kept : Kept s0 s) :
    Kept s0 (landPages s m ps) := by
  unfold landPages
  refine foldl_kept _ kept fun s p k => ?_
  split
  · exact Kept.lit_dram k (fun _ p => p) fun h => memWrites_wf h _ _
  · exact k

theorem formParity_kept {s0 : State} (s : State) (m : Imago) (p : ImagoPage) (kept : Kept s0 s) :
    Kept s0 (formParity s m p) := by
  unfold formParity
  extract_lets others bs
  clear_value others bs
  exact Kept.lit_dram kept (fun _ p => p) fun h => memWrites_wf h _ _

theorem endLoad_kept {s0 : State} (s : State) (m : Imago) (slot : Nat) (f : Fail) (kept : Kept s0 s) :
    Kept s0 (endLoad s m slot f) := by
  unfold endLoad
  repeat' first
      | with_reducible assumption
      | with_reducible apply finishCmd_kept
      | (with_reducible refine foldl_kept _ ?_ (fun _ _ _ => ?_))
      | (with_reducible refine foldl_keptP (get := Prod.fst) _ ?_ (fun _ _ _ => ?_))
      | (with_reducible refine foldl_keptP (get := Prod.snd) _ ?_ (fun _ _ _ => ?_))
      | with_reducible apply bump_kept
      | with_reducible apply bumpIf_kept
      | with_reducible apply sillage_kept
      | (fail_if_no_progress with_reducible refine Kept.lit ?_ (fun _ p => p))
      | trivial
      | split
      | dsimp only

theorem payLoad_kept {s0 : State} (s : State) (m : Imago) (kept : Kept s0 s) :
    Kept s0 (payLoad s m) := by
  unfold payLoad
  repeat' first
      | with_reducible assumption
      | with_reducible apply admitReq_kept
      | (with_reducible refine foldl_kept _ ?_ (fun _ _ _ => ?_))
      | (with_reducible refine foldl_keptP (get := Prod.fst) _ ?_ (fun _ _ _ => ?_))
      | (with_reducible refine foldl_keptP (get := Prod.snd) _ ?_ (fun _ _ _ => ?_))
      | with_reducible apply bump_kept
      | with_reducible apply bumpIf_kept
      | with_reducible apply sillage_kept
      | (fail_if_no_progress with_reducible refine Kept.lit ?_ (fun _ p => p))
      | trivial
      | split
      | dsimp only

theorem setBlock_kept {s0 : State} (s : State) (k : Nat) (b : NandBlock) (kept : Kept s0 s) :
    Kept s0 (setBlock s k b) := by
  unfold setBlock
  repeat' first
      | with_reducible assumption
      | with_reducible apply bump_kept
      | with_reducible apply bumpIf_kept
      | with_reducible apply sillage_kept
      | (fail_if_no_progress with_reducible refine Kept.lit ?_ (fun _ p => p))
      | trivial
      | split
      | dsimp only

theorem countRead_kept {s0 : State} (s : State) (page half : Nat) (kept : Kept s0 s) :
    Kept s0 (countRead s page half) := by
  unfold countRead
  repeat' first
      | with_reducible assumption
      | with_reducible apply setBlock_kept
      | (with_reducible refine foldl_kept _ ?_ (fun _ _ _ => ?_))
      | (with_reducible refine foldl_keptP (get := Prod.fst) _ ?_ (fun _ _ _ => ?_))
      | (with_reducible refine foldl_keptP (get := Prod.snd) _ ?_ (fun _ _ _ => ?_))
      | with_reducible apply bump_kept
      | with_reducible apply bumpIf_kept
      | with_reducible apply sillage_kept
      | (fail_if_no_progress with_reducible refine Kept.lit ?_ (fun _ p => p))
      | trivial
      | split
      | dsimp only

theorem spillFails_kept {s0 : State} (s : State) (handle : Nat) (kept : Kept s0 s) :
    Kept s0 (spillFails s handle) := by
  unfold spillFails
  repeat' first
      | with_reducible assumption
      | with_reducible apply bump_kept
      | with_reducible apply updJob_kept
      | with_reducible apply failJobService_kept
      | (with_reducible refine foldl_kept _ ?_ (fun _ _ _ => ?_))
      | (with_reducible refine foldl_keptP (get := Prod.fst) _ ?_ (fun _ _ _ => ?_))
      | (with_reducible refine foldl_keptP (get := Prod.snd) _ ?_ (fun _ _ _ => ?_))
      | with_reducible apply bumpIf_kept
      | with_reducible apply sillage_kept
      | (fail_if_no_progress with_reducible refine Kept.lit ?_ (fun _ p => p))
      | trivial
      | split
      | dsimp only

theorem rewriteBlock_kept {s0 : State} (s : State) (k q : Nat) (kept : Kept s0 s) :
    Kept s0 (rewriteBlock s k q) := by
  unfold rewriteBlock
  repeat' first
      | with_reducible assumption
      | with_reducible apply setBlock_kept
      | with_reducible apply bump_kept
      | with_reducible apply bumpIf_kept
      | with_reducible apply sillage_kept
      | (fail_if_no_progress with_reducible refine Kept.lit ?_ (fun _ p => p))
      | trivial
      | split
      | dsimp only

end Sys2Proof.Machine
end

