-- ==== Sys2Proof/Laws/KeptHub.lean ====
section
/-! SUPPORT. What rings, service, resets, links, the dictionary, the field network, the Cocoon and the boot keep. `Kept` says what; one lemma per operation. -/

namespace Sys2Proof.Machine

set_option linter.unusedTactic false
set_option linter.unreachableTactic false

theorem enableRing_kept {s0 : State} (s : State) (r : Nat) (kept : Kept s0 s) :
    Kept s0 (enableRing s r) := by
  unfold enableRing
  repeat' first
      | with_reducible assumption
      | (with_reducible refine setRing_kept ?_ (fun p e => by subst e; exact p))
      | (with_reducible refine OkAll.bindKept (s0 := s0) ?_ (fun _ _ => ?_))
      | (with_reducible refine OkAll.bind' (fun _ => ?_))
      | (with_reducible refine SomeAll.bind' (fun _ => ?_))
      | (with_reducible refine updRing_kept ?_ (fun _ p => by unfold freshEnable; exact p))
      | (with_reducible refine setRing_kept ?_ (fun p e => by subst e; unfold freshEnable; exact p))
      | with_reducible apply bump_kept
      | with_reducible apply bumpIf_kept
      | with_reducible apply sillage_kept
      | (fail_if_no_progress with_reducible refine Kept.lit ?_ (fun _ p => p))
      | trivial
      | split
      | dsimp only

theorem disableRing_kept {s0 : State} (s : State) (r : Nat) (kept : Kept s0 s) :
    Kept s0 (disableRing s r) := by
  unfold disableRing
  repeat' first
      | with_reducible assumption
      | (with_reducible refine setRing_kept ?_ (fun p e => by subst e; exact p))
      | with_reducible apply drydownEnd_kept
      | (with_reducible refine OkAll.bindKept (s0 := s0) ?_ (fun _ _ => ?_))
      | (with_reducible refine OkAll.bind' (fun _ => ?_))
      | (with_reducible refine SomeAll.bind' (fun _ => ?_))
      | with_reducible apply bump_kept
      | with_reducible apply bumpIf_kept
      | with_reducible apply sillage_kept
      | (fail_if_no_progress with_reducible refine Kept.lit ?_ (fun _ p => p))
      | trivial
      | split
      | dsimp only

theorem discardBell_kept {s0 : State} (s : State) (kept : Kept s0 s) :
    Kept s0 (discardBell s) := by
  unfold discardBell
  repeat' first
      | with_reducible assumption
      | with_reducible apply bump_kept
      | with_reducible apply bumpIf_kept
      | with_reducible apply sillage_kept
      | (fail_if_no_progress with_reducible refine Kept.lit ?_ (fun _ p => p))
      | trivial
      | split
      | dsimp only

theorem forwardBell_kept {s0 : State} (s : State) (r : Nat) (kept : Kept s0 s) :
    Kept s0 (forwardBell s r) := by
  unfold forwardBell
  repeat' first
      | with_reducible assumption
      | with_reducible apply send_kept
      | with_reducible apply bump_kept
      | with_reducible apply bumpIf_kept
      | with_reducible apply sillage_kept
      | (fail_if_no_progress with_reducible refine Kept.lit ?_ (fun _ p => p))
      | trivial
      | split
      | dsimp only

theorem takeEntry_kept {s0 : State} (s : State) (r : Nat) (e : BitVec 512) (kept : Kept s0 s) :
    Kept s0 (takeEntry s r e) := by
  unfold takeEntry
  repeat' first
      | with_reducible assumption
      | (with_reducible refine setRing_kept ?_ (fun p e => by subst e; exact p))
      | with_reducible apply post_kept
      | (with_reducible refine OkAll.bindKept (s0 := s0) ?_ (fun _ _ => ?_))
      | (with_reducible refine OkAll.bind' (fun _ => ?_))
      | (with_reducible refine SomeAll.bind' (fun _ => ?_))
      | with_reducible apply bump_kept
      | with_reducible apply bumpIf_kept
      | with_reducible apply sillage_kept
      | (fail_if_no_progress with_reducible refine Kept.lit ?_ (fun _ p => p))
      | trivial
      | split
      | dsimp only

theorem writeCq_kept {s0 : State} (s : State) (r : Nat) (p : Post) (hostError : Bool) (kept : Kept s0 s) :
    Kept s0 (writeCq s r p hostError) := by
  unfold writeCq
  repeat' first
      | with_reducible assumption
      | (with_reducible refine setRing_kept ?_ (fun p e => by subst e; exact p))
      | with_reducible apply raiseRing_kept
      | with_reducible apply ringError_kept
      | with_reducible apply flushLine_kept
      | with_reducible apply bump_kept
      | with_reducible apply bumpIf_kept
      | with_reducible apply sillage_kept
      | (fail_if_no_progress with_reducible refine Kept.lit ?_ (fun _ p => p))
      | trivial
      | split
      | dsimp only

theorem dueRamps_kept {s0 : State} (s : State) (cores : List Nat) (kept : Kept s0 s) :
    Kept s0 (dueRamps s cores) := by
  unfold dueRamps
  repeat' first
      | with_reducible assumption
      | (with_reducible refine updCore_kept ?_ (fun _ a b => ⟨a, b⟩))
      | (with_reducible refine foldl_kept _ ?_ (fun _ _ _ => ?_))
      | (with_reducible refine foldl_keptP (get := Prod.fst) _ ?_ (fun _ _ _ => ?_))
      | (with_reducible refine foldl_keptP (get := Prod.snd) _ ?_ (fun _ _ _ => ?_))
      | with_reducible apply bump_kept
      | with_reducible apply bumpIf_kept
      | with_reducible apply sillage_kept
      | (fail_if_no_progress with_reducible refine Kept.lit ?_ (fun _ p => p))
      | trivial
      | split
      | dsimp only

theorem cutRamps_kept {s0 : State} (s : State) (cores : List Nat) (kept : Kept s0 s) :
    Kept s0 (cutRamps s cores) := by
  unfold cutRamps
  repeat' first
      | with_reducible assumption
      | with_reducible apply dueRamps_kept
      | with_reducible apply bump_kept
      | with_reducible apply bumpIf_kept
      | with_reducible apply sillage_kept
      | (fail_if_no_progress with_reducible refine Kept.lit ?_ (fun _ p => p))
      | trivial
      | split
      | dsimp only

theorem stopScope_kept {s0 : State} (s : State) (scope ring tag : Nat) (kept : Kept s0 s) :
    Kept s0 (stopScope s scope ring tag).1 := by
  unfold stopScope
  repeat' first
      | with_reducible assumption
      | with_reducible apply updJob_kept
      | with_reducible apply failJobService_kept
      | with_reducible apply finishCmd_kept
      | with_reducible apply endWaiting_kept
      | with_reducible apply cutRamps_kept
      | (with_reducible refine foldl_kept _ ?_ (fun _ _ _ => ?_))
      | (with_reducible refine foldl_keptP (get := Prod.fst) _ ?_ (fun _ _ _ => ?_))
      | (with_reducible refine foldl_keptP (get := Prod.snd) _ ?_ (fun _ _ _ => ?_))
      | with_reducible apply bump_kept
      | with_reducible apply bumpIf_kept
      | with_reducible apply sillage_kept
      | (fail_if_no_progress with_reducible refine Kept.lit ?_ (fun _ p => p))
      | trivial
      | split
      | dsimp only

theorem quench_kept {s0 : State} (s : State) (path scope ring tag : Nat) (disable : Bool) (kept : Kept s0 s) :
    Kept s0 (quench s path scope ring tag disable).1 := by
  unfold quench
  repeat' first
      | with_reducible assumption
      | with_reducible apply sillage_kept
      | with_reducible apply bump_kept
      | with_reducible apply sendCtrlAll_kept
      | with_reducible apply disableRing_kept
      | with_reducible apply stopScope_kept
      | (with_reducible refine pair_fst (stopScope_kept (s0 := s0) _ _ _ _ ?_) (by assumption))
      | (with_reducible refine foldl_kept _ ?_ (fun _ _ _ => ?_))
      | (with_reducible refine foldl_keptP (get := Prod.fst) _ ?_ (fun _ _ _ => ?_))
      | (with_reducible refine foldl_keptP (get := Prod.snd) _ ?_ (fun _ _ _ => ?_))
      | with_reducible apply bumpIf_kept
      | (fail_if_no_progress with_reducible refine Kept.lit ?_ (fun _ p => p))
      | trivial
      | split
      | dsimp only

theorem quenchPin_kept {s0 : State} (s : State) (level : Bool) (kept : Kept s0 s) :
    Kept s0 (quenchPin s level) := by
  unfold quenchPin
  repeat' first
      | with_reducible assumption
      | with_reducible apply sillage_kept
      | with_reducible apply postEvent_kept
      | with_reducible apply quench_kept
      | (with_reducible refine pair_fst (quench_kept (s0 := s0) _ _ _ _ _ _ ?_) (by assumption))
      | with_reducible apply bump_kept
      | with_reducible apply bumpIf_kept
      | (fail_if_no_progress with_reducible refine Kept.lit ?_ (fun _ p => p))
      | trivial
      | split
      | dsimp only

theorem mbRespond_kept {s0 : State} (s : State) (result : Nat) (bytes : List Byte) (kept : Kept s0 s) :
    Kept s0 (mbRespond s result bytes) := by
  unfold mbRespond
  repeat' first
      | with_reducible assumption
      | with_reducible apply raiseVector_kept
      | with_reducible apply bump_kept
      | with_reducible apply bumpIf_kept
      | with_reducible apply sillage_kept
      | (fail_if_no_progress with_reducible refine Kept.lit ?_ (fun _ p => p))
      | trivial
      | split
      | dsimp only

theorem mbReject_kept {s0 : State} (s : State) (result : Nat) (kept : Kept s0 s) :
    Kept s0 (mbReject s result) := by
  unfold mbReject
  repeat' first
      | with_reducible assumption
      | with_reducible apply bump_kept
      | with_reducible apply mbRespond_kept
      | with_reducible apply bumpIf_kept
      | with_reducible apply sillage_kept
      | (fail_if_no_progress with_reducible refine Kept.lit ?_ (fun _ p => p))
      | trivial
      | split
      | dsimp only

theorem declare_kept {s0 : State} (s : State) (d cause : Nat) (kept : Kept s0 s) :
    Kept s0 (declare s d cause) := by
  unfold declare
  repeat' first
      | with_reducible assumption
      | with_reducible apply bump_kept
      | with_reducible apply bumpIf_kept
      | with_reducible apply sillage_kept
      | (fail_if_no_progress with_reducible refine Kept.lit ?_ (fun _ p => p))
      | trivial
      | split
      | dsimp only

theorem repoint_kept {s0 : State} (s : State) (a b : Nat) (kept : Kept s0 s) :
    Kept s0 (repoint s a b) := by
  unfold repoint
  repeat' first
      | with_reducible assumption
      | with_reducible apply bump_kept
      | with_reducible apply bumpIf_kept
      | with_reducible apply sillage_kept
      | (fail_if_no_progress with_reducible refine Kept.lit ?_ (fun _ p => p))
      | trivial
      | split
      | dsimp only

theorem loseKv_kept {s0 : State} (s : State) (key : Nat) (p : KvPage) (kept : Kept s0 s) :
    Kept s0 (loseKv s key p) := by
  unfold loseKv
  repeat' first
      | with_reducible assumption
      | with_reducible apply updPage_kept
      | with_reducible apply repoint_kept
      | with_reducible apply bump_kept
      | with_reducible apply bumpIf_kept
      | with_reducible apply sillage_kept
      | (fail_if_no_progress with_reducible refine Kept.lit ?_ (fun _ p => p))
      | trivial
      | split
      | dsimp only

theorem moveChunk_kept {s0 : State} (s : State) (key : Nat) (kept : Kept s0 s) :
    Kept s0 (moveChunk s key) := by
  unfold moveChunk
  repeat' first
      | with_reducible assumption
      | with_reducible apply rekeyChunk_kept
      | with_reducible apply bump_kept
      | with_reducible apply bumpIf_kept
      | with_reducible apply sillage_kept
      | (fail_if_no_progress with_reducible refine Kept.lit ?_ (fun _ p => p))
      | trivial
      | split
      | dsimp only

theorem dropSlots_kept {s0 : State} (s : State) (d : Nat) (kept : Kept s0 s) :
    Kept s0 (dropSlots s d) := by
  unfold dropSlots
  repeat' first
      | with_reducible assumption
      | with_reducible apply bump_kept
      | with_reducible apply bumpIf_kept
      | with_reducible apply sillage_kept
      | (fail_if_no_progress with_reducible refine Kept.lit ?_ (fun _ p => p))
      | trivial
      | split
      | dsimp only

theorem losePool_kept {s0 : State} (s : State) (d : Nat) (kept : Kept s0 s) :
    Kept s0 (losePool s d) := by
  unfold losePool
  repeat' first
      | with_reducible assumption
      | with_reducible apply loseKv_kept
      | with_reducible apply moveChunk_kept
      | with_reducible apply dropSlots_kept
      | (with_reducible refine foldl_kept _ ?_ (fun _ _ _ => ?_))
      | (with_reducible refine foldl_keptP (get := Prod.fst) _ ?_ (fun _ _ _ => ?_))
      | (with_reducible refine foldl_keptP (get := Prod.snd) _ ?_ (fun _ _ _ => ?_))
      | with_reducible apply bump_kept
      | with_reducible apply bumpIf_kept
      | with_reducible apply sillage_kept
      | (fail_if_no_progress with_reducible refine Kept.lit ?_ (fun _ p => p))
      | trivial
      | split
      | dsimp only

theorem setLags_kept {s0 : State} (s : State) (kept : Kept s0 s) :
    Kept s0 (setLags s) := by
  unfold setLags
  repeat' first
      | with_reducible assumption
      | with_reducible apply setLag_kept
      | (with_reducible refine foldl_kept _ ?_ (fun _ _ _ => ?_))
      | (with_reducible refine foldl_keptP (get := Prod.fst) _ ?_ (fun _ _ _ => ?_))
      | (with_reducible refine foldl_keptP (get := Prod.snd) _ ?_ (fun _ _ _ => ?_))
      | with_reducible apply bump_kept
      | with_reducible apply bumpIf_kept
      | with_reducible apply sillage_kept
      | (fail_if_no_progress with_reducible refine Kept.lit ?_ (fun _ p => p))
      | trivial
      | split
      | dsimp only

theorem settleFuture_kept {s0 : State} (s : State) (g i : Nat) (kept : Kept s0 s) :
    Kept s0 (settleFuture s g i) := by
  unfold settleFuture
  repeat' first
      | with_reducible assumption
      | with_reducible apply bump_kept
      | with_reducible apply updGroup_kept
      | with_reducible apply writeFstate_kept
      | with_reducible apply dropFuture_kept
      | with_reducible apply truncFuture_kept
      | (with_reducible refine foldl_kept _ ?_ (fun _ _ _ => ?_))
      | (with_reducible refine foldl_keptP (get := Prod.fst) _ ?_ (fun _ _ _ => ?_))
      | (with_reducible refine foldl_keptP (get := Prod.snd) _ ?_ (fun _ _ _ => ?_))
      | with_reducible apply bumpIf_kept
      | with_reducible apply sillage_kept
      | (fail_if_no_progress with_reducible refine Kept.lit ?_ (fun _ p => p))
      | trivial
      | split
      | dsimp only

theorem settleGroup_kept {s0 : State} (s : State) (g : Nat) (kept : Kept s0 s) :
    Kept s0 (settleGroup s g) := by
  unfold settleGroup
  repeat' first
      | with_reducible assumption
      | with_reducible apply setLag_kept
      | with_reducible apply settleFuture_kept
      | (with_reducible refine foldl_kept _ ?_ (fun _ _ _ => ?_))
      | (with_reducible refine foldl_keptP (get := Prod.fst) _ ?_ (fun _ _ _ => ?_))
      | (with_reducible refine foldl_keptP (get := Prod.snd) _ ?_ (fun _ _ _ => ?_))
      | with_reducible apply bump_kept
      | with_reducible apply bumpIf_kept
      | with_reducible apply sillage_kept
      | (fail_if_no_progress with_reducible refine Kept.lit ?_ (fun _ p => p))
      | trivial
      | split
      | dsimp only

theorem interrupt_kept {s0 : State} (s : State) (jn d : Nat) (kept : Kept s0 s) :
    Kept s0 (interrupt s jn d) := by
  unfold interrupt
  repeat' first
      | with_reducible assumption
      | with_reducible apply updJob_kept
      | with_reducible apply undefJobData_kept
      | with_reducible apply stopJob_kept
      | with_reducible apply cutRamps_kept
      | with_reducible apply bump_kept
      | with_reducible apply bumpIf_kept
      | with_reducible apply sillage_kept
      | (fail_if_no_progress with_reducible refine Kept.lit ?_ (fun _ p => p))
      | trivial
      | split
      | dsimp only

theorem failLost_kept {s0 : State} (s : State) (jn d : Nat) (kept : Kept s0 s) :
    Kept s0 (failLost s jn d) := by
  unfold failLost
  repeat' first
      | with_reducible assumption
      | with_reducible apply updJob_kept
      | with_reducible apply failJobService_kept
      | with_reducible apply endWaiting_kept
      | with_reducible apply bump_kept
      | with_reducible apply bumpIf_kept
      | with_reducible apply sillage_kept
      | (fail_if_no_progress with_reducible refine Kept.lit ?_ (fun _ p => p))
      | trivial
      | split
      | dsimp only

theorem loseSpace_setSpaceTables_kept {s0 : State} (d asid : Nat) (s : State) (a : ASpace) (kept : Kept s0 s) :
    Kept s0 (loseSpace.setSpaceTables d asid s a) := by
  unfold loseSpace.setSpaceTables
  split
  · exact updSpace_kept _ _ _ kept
  · exact kept

theorem loseSpace_gone_kept {s0 : State} (d asid : Nat) (s : State) (kept : Kept s0 s) :
    Kept s0 (loseSpace.gone d asid s) := by
  unfold loseSpace.gone
  refine endSpace_kept _ _ (foldl_kept _ kept fun s j k => ?_)
  split
  · exact failLost_kept _ _ _ k
  · exact k

theorem loseSpace_kept {s0 : State} (s : State) (d asid : Nat) (kept : Kept s0 s) :
    Kept s0 (loseSpace s d asid) := by
  unfold loseSpace
  repeat' first
      | with_reducible assumption
      | with_reducible apply updSpace_kept
      | with_reducible apply loseSpace_setSpaceTables_kept
      | with_reducible apply loseSpace_gone_kept
      | with_reducible apply loseSpace_gone_kept
      | with_reducible apply loseSpace_setSpaceTables_kept
      | with_reducible apply bump_kept
      | with_reducible apply bumpIf_kept
      | with_reducible apply sillage_kept
      | (fail_if_no_progress with_reducible refine Kept.lit ?_ (fun _ p => p))
      | trivial
      | split
      | dsimp only

theorem loseGroup_gone_kept {s0 : State} (d g : Nat) (s : State) (gr : Group) (kept : Kept s0 s) :
    Kept s0 (loseGroup.gone d g s gr) := by
  unfold loseGroup.gone
  refine destroyGroup_kept _ _ ?_
  split
  · exact failLost_kept _ _ _ kept
  · exact kept

theorem loseGroup_kept {s0 : State} (s : State) (d g : Nat) (kept : Kept s0 s) :
    Kept s0 (loseGroup s d g) := by
  unfold loseGroup
  repeat' first
      | with_reducible assumption
      | with_reducible apply updGroup_kept
      | with_reducible apply settleGroup_kept
      | with_reducible apply loseGroup_gone_kept
      | with_reducible apply loseGroup_gone_kept
      | with_reducible apply bump_kept
      | with_reducible apply bumpIf_kept
      | with_reducible apply sillage_kept
      | (fail_if_no_progress with_reducible refine Kept.lit ?_ (fun _ p => p))
      | trivial
      | split
      | dsimp only

theorem clearDie_kept {s0 : State} (s : State) (d : Nat) (kept : Kept s0 s) :
    Kept s0 (clearDie s d) := by
  unfold clearDie
  repeat' first
      | with_reducible assumption
      | with_reducible apply updDie_kept
      | with_reducible apply updCluster_kept
      | with_reducible apply loseCore_kept
      | (with_reducible refine foldl_kept _ ?_ (fun _ _ _ => ?_))
      | (with_reducible refine foldl_keptP (get := Prod.fst) _ ?_ (fun _ _ _ => ?_))
      | (with_reducible refine foldl_keptP (get := Prod.snd) _ ?_ (fun _ _ _ => ?_))
      | with_reducible apply bump_kept
      | with_reducible apply bumpIf_kept
      | with_reducible apply sillage_kept
      | (fail_if_no_progress with_reducible refine Kept.lit ?_ (fun _ p => p))
      | trivial
      | split
      | dsimp only

theorem settleMoves_kept {s0 : State} (s : State) (kept : Kept s0 s) :
    Kept s0 (settleMoves s) := by
  unfold settleMoves
  repeat' first
      | with_reducible assumption
      | with_reducible apply updCmd_kept
      | with_reducible apply finishCmd_kept
      | (with_reducible refine foldl_kept _ ?_ (fun _ _ _ => ?_))
      | (with_reducible refine foldl_keptP (get := Prod.fst) _ ?_ (fun _ _ _ => ?_))
      | (with_reducible refine foldl_keptP (get := Prod.snd) _ ?_ (fun _ _ _ => ?_))
      | with_reducible apply bump_kept
      | with_reducible apply bumpIf_kept
      | with_reducible apply sillage_kept
      | (fail_if_no_progress with_reducible refine Kept.lit ?_ (fun _ p => p))
      | trivial
      | split
      | dsimp only

theorem failOversize_kept {s0 : State} (s : State) (js : List Nat) (kept : Kept s0 s) :
    Kept s0 (failOversize s js) := by
  unfold failOversize
  repeat' first
      | with_reducible assumption
      | with_reducible apply endWaiting_kept
      | (with_reducible refine foldl_kept _ ?_ (fun _ _ _ => ?_))
      | (with_reducible refine foldl_keptP (get := Prod.fst) _ ?_ (fun _ _ _ => ?_))
      | (with_reducible refine foldl_keptP (get := Prod.snd) _ ?_ (fun _ _ _ => ?_))
      | with_reducible apply bump_kept
      | with_reducible apply bumpIf_kept
      | with_reducible apply sillage_kept
      | (fail_if_no_progress with_reducible refine Kept.lit ?_ (fun _ p => p))
      | trivial
      | split
      | dsimp only

theorem loseDie_kept {s0 : State} (s : State) (d cause : Nat) (kept : Kept s0 s) :
    Kept s0 (loseDie s d cause) := by
  unfold loseDie
  repeat' first
      | with_reducible assumption
      | with_reducible apply sillage_kept
      | with_reducible apply bump_kept
      | with_reducible apply updDie_kept
      | with_reducible apply setRole_kept
      | with_reducible apply freshSegs_kept
      | with_reducible apply dueRamps_kept
      | with_reducible apply losePool_kept
      | with_reducible apply interrupt_kept
      | with_reducible apply loseSpace_kept
      | with_reducible apply loseGroup_kept
      | with_reducible apply clearDie_kept
      | with_reducible apply settleMoves_kept
      | with_reducible apply failOversize_kept
      | (with_reducible refine foldl_kept _ ?_ (fun _ _ _ => ?_))
      | (with_reducible refine foldl_keptP (get := Prod.fst) _ ?_ (fun _ _ _ => ?_))
      | (with_reducible refine foldl_keptP (get := Prod.snd) _ ?_ (fun _ _ _ => ?_))
      | with_reducible apply bumpIf_kept
      | (fail_if_no_progress with_reducible refine Kept.lit ?_ (fun _ p => p))
      | trivial
      | split
      | dsimp only

theorem findSome_kept {α : Type} {s0 t : State} {f : α → Option State} (l : List α) (hf : ∀ a, SomeAll (Kept s0) (f a))
    (e : l.findSome? f = some t) : Kept s0 t := by
  obtain ⟨a, -, ha⟩ := List.exists_of_findSome?_eq_some e
  exact someAll_kept (hf a) ha

theorem reserveAgain_kept {s0 : State} (s : State) (g i r : Nat) (kept : Kept s0 s) : Kept s0 (reserveAgain s g i r) := by
  unfold reserveAgain
  extract_lets u v
  have ku : Kept s0 u := by
    unfold u
    split
    · exact releaseReserve_kept _ _ _ kept
    · exact kept
  have kv : Kept s0 v := updFuture_kept _ _ _ _ ku
  clear_value u v
  split
  · rename_i t e
    exact findSome_kept _ (fun n => takeReserve_kept _ _ _ _ kv) e
  · exact kv

theorem exactCut_kept {s0 : State} (s : State) (g i n : Nat) (kept : Kept s0 s) :
    Kept s0 (exactCut s g i n) := by
  unfold exactCut
  repeat' first
      | with_reducible assumption
      | with_reducible apply updFuture_kept
      | with_reducible apply updPage_kept
      | with_reducible apply writeFstate_kept
      | with_reducible apply ownPage_kept
      | (with_reducible refine SomeAll.bind (ownPage_kept (s0 := s0) _ _ _ _ _ _ _ ?_) (fun _ _ => ?_))
      | (with_reducible refine someAll_snd (ownPage_kept (s0 := s0) _ _ _ _ _ _ _ ?_) (by assumption))
      | (with_reducible refine someAll_snd' (ownPage_kept (s0 := s0) _ _ _ _ _ _ _ ?_) (by assumption))
      | (with_reducible refine SomeAll.mapSnd (s0 := s0) ?_ (fun _ _ => ?_))
      | (with_reducible refine SomeAll.mapKept (s0 := s0) ?_ (fun _ _ => ?_))
      | with_reducible apply truncFuture_kept
      | (with_reducible refine foldl_kept _ ?_ (fun _ _ _ => ?_))
      | (with_reducible refine foldl_keptP (get := Prod.fst) _ ?_ (fun _ _ _ => ?_))
      | (with_reducible refine foldl_keptP (get := Prod.snd) _ ?_ (fun _ _ _ => ?_))
      | with_reducible apply bump_kept
      | with_reducible apply bumpIf_kept
      | with_reducible apply sillage_kept
      | (fail_if_no_progress with_reducible refine Kept.lit ?_ (fun _ p => p))
      | trivial
      | split
      | dsimp only

theorem prepareFutures_kept {s0 : State} (s : State) (j : Job) (kept : Kept s0 s) :
    Kept s0 (prepareFutures s j) := by
  unfold prepareFutures
  repeat' first
      | with_reducible assumption
      | with_reducible apply dropFuture_kept
      | with_reducible apply exactCut_kept
      | (with_reducible refine foldl_kept _ ?_ (fun _ _ _ => ?_))
      | (with_reducible refine foldl_keptP (get := Prod.fst) _ ?_ (fun _ _ _ => ?_))
      | (with_reducible refine foldl_keptP (get := Prod.snd) _ ?_ (fun _ _ _ => ?_))
      | with_reducible apply bump_kept
      | with_reducible apply bumpIf_kept
      | with_reducible apply sillage_kept
      | (fail_if_no_progress with_reducible refine Kept.lit ?_ (fun _ p => p))
      | trivial
      | split
      | dsimp only

theorem startRelease_kept {s0 : State} (s : State) (d : Nat) (kept : Kept s0 s) :
    Kept s0 (startRelease s d) := by
  unfold startRelease
  repeat' first
      | with_reducible assumption
      | with_reducible apply updDie_kept
      | with_reducible apply bump_kept
      | with_reducible apply bumpIf_kept
      | with_reducible apply sillage_kept
      | (fail_if_no_progress with_reducible refine Kept.lit ?_ (fun _ p => p))
      | trivial
      | split
      | dsimp only

theorem startRejoin_kept {s0 : State} (s : State) (d : Nat) (auto : Bool) (kept : Kept s0 s) :
    Kept s0 (startRejoin s d auto) := by
  unfold startRejoin
  repeat' first
      | with_reducible assumption
      | with_reducible apply updDie_kept
      | with_reducible apply startRelease_kept
      | with_reducible apply bump_kept
      | with_reducible apply bumpIf_kept
      | with_reducible apply sillage_kept
      | (fail_if_no_progress with_reducible refine Kept.lit ?_ (fun _ p => p))
      | trivial
      | split
      | dsimp only

theorem switchPtes_kept {s0 : State} (s : State) (n : Nat) (moves : List (ImagoPage × ImagoPage)) (kept : Kept s0 s) :
    Kept s0 (switchPtes s n moves) := by
  unfold switchPtes
  repeat' first
      | with_reducible assumption
      | with_reducible apply bump_kept
      | with_reducible apply bumpIf_kept
      | with_reducible apply sillage_kept
      | (fail_if_no_progress with_reducible refine Kept.lit ?_ (fun _ p => p))
      | trivial
      | split
      | dsimp only

theorem gateEmpty_kept {s0 : State} (s : State) (k : Nat) (kept : Kept s0 s) :
    Kept s0 (gateEmpty s k) := by
  unfold gateEmpty
  repeat' first
      | with_reducible assumption
      | with_reducible apply setCluster_kept
      | with_reducible apply bump_kept
      | with_reducible apply bumpIf_kept
      | with_reducible apply sillage_kept
      | (fail_if_no_progress with_reducible refine Kept.lit ?_ (fun _ p => p))
      | trivial
      | split
      | dsimp only

theorem recordRetired_kept {s0 : State} (s : State) (c : Nat) (kept : Kept s0 s) :
    Kept s0 (recordRetired s c) := by
  unfold recordRetired
  repeat' first
      | with_reducible assumption
      | with_reducible apply sillage_kept
      | (with_reducible refine setCore_kept ?_ ?_)
      | exact fun p => p _
      | exact fun p => ⟨(p _).1, (p _).2⟩
      | exact fun p => ⟨(p _).1, fun _ q => by cases q⟩
      | exact fun p => ⟨fun _ q => by cases q, (p _).2⟩
      | with_reducible apply bump_kept
      | with_reducible apply updDie_kept
      | with_reducible apply setCluster_kept
      | with_reducible apply loseCore_kept
      | with_reducible apply gateEmpty_kept
      | (with_reducible refine OkAll.bindKept (s0 := s0) ?_ (fun _ _ => ?_))
      | (with_reducible refine OkAll.bind' (fun _ => ?_))
      | (with_reducible refine SomeAll.bind' (fun _ => ?_))
      | exact fun _ => ⟨fun _ q => (by cases q), fun _ q => (by cases q)⟩
      | with_reducible apply bumpIf_kept
      | (fail_if_no_progress with_reducible refine Kept.lit ?_ (fun _ p => p))
      | trivial
      | split
      | dsimp only

theorem askRetire_kept {s0 : State} (s : State) (c : Nat) (kept : Kept s0 s) :
    Kept s0 (askRetire s c) := by
  unfold askRetire
  repeat' first
      | with_reducible assumption
      | with_reducible apply updDie_kept
      | with_reducible apply setCluster_kept
      | with_reducible apply bump_kept
      | with_reducible apply bumpIf_kept
      | with_reducible apply sillage_kept
      | (fail_if_no_progress with_reducible refine Kept.lit ?_ (fun _ p => p))
      | trivial
      | split
      | dsimp only

theorem raiseMin_kept {s0 : State} (s : State) (kind : Nat) (kept : Kept s0 s) :
    Kept s0 (raiseMin s kind) := by
  unfold raiseMin
  repeat' first
      | with_reducible assumption
      | (with_reducible refine foldl_kept _ ?_ (fun _ _ _ => ?_))
      | (with_reducible refine foldl_keptP (get := Prod.fst) _ ?_ (fun _ _ _ => ?_))
      | (with_reducible refine foldl_keptP (get := Prod.snd) _ ?_ (fun _ _ _ => ?_))
      | with_reducible apply bump_kept
      | with_reducible apply bumpIf_kept
      | with_reducible apply sillage_kept
      | (fail_if_no_progress with_reducible refine Kept.lit ?_ (fun _ p => p))
      | trivial
      | split
      | dsimp only

theorem activate_kept {s0 : State} (s : State) (unit kind bank : Nat) (prefer : Bool) (kept : Kept s0 s) :
    Kept s0 (activate s unit kind bank prefer) := by
  unfold activate
  repeat' first
      | with_reducible assumption
      | with_reducible apply extendMr_kept
      | with_reducible apply raiseMin_kept
      | with_reducible apply bump_kept
      | with_reducible apply bumpIf_kept
      | with_reducible apply sillage_kept
      | (fail_if_no_progress with_reducible refine Kept.lit ?_ (fun _ p => p))
      | trivial
      | split
      | dsimp only

theorem recordFw_kept {s0 : State} (s : State) (instar die kind bank : Nat) (kept : Kept s0 s) :
    Kept s0 (recordFw s instar die kind bank) := by
  unfold recordFw
  repeat' first
      | with_reducible assumption
      | with_reducible apply sillage_kept
      | with_reducible apply bump_kept
      | with_reducible apply bumpIf_kept
      | (fail_if_no_progress with_reducible refine Kept.lit ?_ (fun _ p => p))
      | trivial
      | split
      | dsimp only

theorem resetRecord_kept {s0 : State} (s : State) (origin src block : Nat) (kept : Kept s0 s) :
    Kept s0 (resetRecord s origin src block) := by
  unfold resetRecord
  repeat' first
      | with_reducible assumption
      | with_reducible apply sillage_kept
      | with_reducible apply bump_kept
      | with_reducible apply bumpIf_kept
      | (fail_if_no_progress with_reducible refine Kept.lit ?_ (fun _ p => p))
      | trivial
      | split
      | dsimp only

theorem dieBits_kept {s0 : State} (s : State) (d src : Nat) (kept : Kept s0 s) :
    Kept s0 (dieBits s d src) := by
  unfold dieBits
  repeat' first
      | with_reducible assumption
      | with_reducible apply updDie_kept
      | with_reducible apply updCluster_kept
      | (with_reducible refine foldl_kept _ ?_ (fun _ _ _ => ?_))
      | (with_reducible refine foldl_keptP (get := Prod.fst) _ ?_ (fun _ _ _ => ?_))
      | (with_reducible refine foldl_keptP (get := Prod.snd) _ ?_ (fun _ _ _ => ?_))
      | with_reducible apply bump_kept
      | with_reducible apply bumpIf_kept
      | with_reducible apply sillage_kept
      | (fail_if_no_progress with_reducible refine Kept.lit ?_ (fun _ p => p))
      | trivial
      | split
      | dsimp only

theorem pkgCause_kept {s0 : State} (s : State) (origin src : Nat) (kept : Kept s0 s) :
    Kept s0 (pkgCause s origin src) := by
  unfold pkgCause
  repeat' first
      | with_reducible assumption
      | with_reducible apply resetRecord_kept
      | with_reducible apply bump_kept
      | with_reducible apply bumpIf_kept
      | with_reducible apply sillage_kept
      | (fail_if_no_progress with_reducible refine Kept.lit ?_ (fun _ p => p))
      | trivial
      | split
      | dsimp only

theorem wideCause_kept {s0 : State} (s : State) (origin src : Nat) (kept : Kept s0 s) :
    Kept s0 (wideCause s origin src) := by
  unfold wideCause
  repeat' first
      | with_reducible assumption
      | with_reducible apply dieBits_kept
      | with_reducible apply pkgCause_kept
      | (with_reducible refine foldl_kept _ ?_ (fun _ _ _ => ?_))
      | (with_reducible refine foldl_keptP (get := Prod.fst) _ ?_ (fun _ _ _ => ?_))
      | (with_reducible refine foldl_keptP (get := Prod.snd) _ ?_ (fun _ _ _ => ?_))
      | with_reducible apply bump_kept
      | with_reducible apply bumpIf_kept
      | with_reducible apply sillage_kept
      | (fail_if_no_progress with_reducible refine Kept.lit ?_ (fun _ p => p))
      | trivial
      | split
      | dsimp only

theorem closeSession_kept {s0 : State} (s : State) (n cause : Nat) (kept : Kept s0 s) :
    Kept s0 (closeSession s n cause) := by
  unfold closeSession
  repeat' first
      | with_reducible assumption
      | with_reducible apply sillage_kept
      | with_reducible apply bump_kept
      | with_reducible apply bumpIf_kept
      | (fail_if_no_progress with_reducible refine Kept.lit ?_ (fun _ p => p))
      | trivial
      | split
      | dsimp only

theorem closeSessions_kept {s0 : State} (s : State) (cause : Nat) (kept : Kept s0 s) :
    Kept s0 (closeSessions s cause) := by
  unfold closeSessions
  repeat' first
      | with_reducible assumption
      | with_reducible apply closeSession_kept
      | (with_reducible refine foldl_kept _ ?_ (fun _ _ _ => ?_))
      | (with_reducible refine foldl_keptP (get := Prod.fst) _ ?_ (fun _ _ _ => ?_))
      | (with_reducible refine foldl_keptP (get := Prod.snd) _ ?_ (fun _ _ _ => ?_))
      | with_reducible apply bump_kept
      | with_reducible apply bumpIf_kept
      | with_reducible apply sillage_kept
      | (fail_if_no_progress with_reducible refine Kept.lit ?_ (fun _ p => p))
      | trivial
      | split
      | dsimp only

theorem endAllJobs_kept {s0 : State} (s : State) (kept : Kept s0 s) :
    Kept s0 (endAllJobs s) := by
  unfold endAllJobs
  repeat' first
      | with_reducible assumption
      | with_reducible apply endJob_kept
      | with_reducible apply closeSlots_kept
      | with_reducible apply stopScope_kept
      | (with_reducible refine pair_fst (stopScope_kept (s0 := s0) _ _ _ _ ?_) (by assumption))
      | (with_reducible refine foldl_kept _ ?_ (fun _ _ _ => ?_))
      | (with_reducible refine foldl_keptP (get := Prod.fst) _ ?_ (fun _ _ _ => ?_))
      | (with_reducible refine foldl_keptP (get := Prod.snd) _ ?_ (fun _ _ _ => ?_))
      | with_reducible apply bump_kept
      | with_reducible apply bumpIf_kept
      | with_reducible apply sillage_kept
      | (fail_if_no_progress with_reducible refine Kept.lit ?_ (fun _ p => p))
      | trivial
      | split
      | dsimp only

theorem discardWork_kept {s0 : State} (s : State) (kept : Kept s0 s) :
    Kept s0 (discardWork s) := by
  unfold discardWork
  repeat' first
      | with_reducible assumption
      | with_reducible apply bump_kept
      | with_reducible apply bumpIf_kept
      | with_reducible apply sillage_kept
      | (fail_if_no_progress with_reducible refine Kept.lit ?_ (fun _ p => p))
      | trivial
      | split
      | dsimp only

/-- A state whose rings read fresh. -/
theorem Kept.ringsFresh {s0 s t : State} (h : Kept s0 s) (hr : (getRing t 0).priv = true) (e1 : t.pending = s.pending)
    (e2 : t.coc.fuses = s.coc.fuses) (e3 : t.dram = s.dram) (e4 : t.hostMem = s.hostMem) (e5 : t.nand = s.nand)
    (e6 : t.scratch = s.scratch) (e7 : t.sill = s.sill) (e9 : t.cores = s.cores) : Kept s0 t := by
  refine h.trans ⟨e1, ?_, ?_, ?_, ?_, ?_, ?_, fun _ => hr, ?_⟩
  · intro d p; rw [e2]; exact p
  · rw [e3]; exact id
  · rw [e4]; exact id
  · rw [e5]; exact id
  · rw [e6]; exact id
  · rw [e7]; exact id
  · intro p; simpa only [TasksOk, getCore, e9] using p

theorem ringHomes_priv (l : Tab Ring) :
    (tgetD (l.filterMap fun r => r.2.home.map fun d => (r.1, { freshRing r.1 with home := some d })) 0 (freshRing 0)).priv = true := by
  induction l with
  | nil => rfl
  | cons p l ih =>
    obtain ⟨k, r⟩ := p
    cases e : r.home with
    | none => rw [List.filterMap_cons_none (by simp [e])]; exact ih
    | some d =>
      rw [List.filterMap_cons_some (b := (k, { freshRing k with home := some d })) (by simp only [e, Option.map_some])]
      unfold tgetD tget
      split
      · rename_i z; subst z; rfl
      · exact ih

theorem resetFunction_kept {s0 : State} (s : State) (kept : Kept s0 s) : Kept s0 (resetFunction s) := by
  unfold resetFunction
  have h : Kept s0 (s.rings.foldl (fun s r => flushLine s r.1) s) := foldl_kept _ kept fun _ _ k => flushLine_kept _ _ k
  exact h.ringsFresh (ringHomes_priv _) rfl rfl rfl rfl rfl rfl rfl rfl

theorem functionReset_kept {s0 : State} (s : State) (kept : Kept s0 s) :
    Kept s0 (functionReset s) := by
  unfold functionReset
  repeat' first
      | with_reducible assumption
      | with_reducible apply destroyGroup_kept
      | with_reducible apply endSpace_kept
      | with_reducible apply endAllJobs_kept
      | with_reducible apply discardWork_kept
      | with_reducible apply resetFunction_kept
      | (with_reducible refine foldl_kept _ ?_ (fun _ _ _ => ?_))
      | (with_reducible refine foldl_keptP (get := Prod.fst) _ ?_ (fun _ _ _ => ?_))
      | (with_reducible refine foldl_keptP (get := Prod.snd) _ ?_ (fun _ _ _ => ?_))
      | with_reducible apply bump_kept
      | with_reducible apply bumpIf_kept
      | with_reducible apply sillage_kept
      | (fail_if_no_progress with_reducible refine Kept.lit ?_ (fun _ p => p))
      | trivial
      | split
      | dsimp only

theorem resetCxl_kept {s0 : State} (s : State) (kept : Kept s0 s) :
    Kept s0 (resetCxl s) := by
  unfold resetCxl
  repeat' first
      | with_reducible assumption
      | with_reducible apply bump_kept
      | with_reducible apply bumpIf_kept
      | with_reducible apply sillage_kept
      | (fail_if_no_progress with_reducible refine Kept.lit ?_ (fun _ p => p))
      | trivial
      | split
      | dsimp only

theorem emptyCore_kept {s0 : State} (s : State) (c : Nat) (kept : Kept s0 s) : Kept s0 (emptyCore s c) := by
  unfold emptyCore
  exact updCore_kept (loseCore_kept _ _ kept) fun _ _ _ => ⟨fun _ q => (by cases q), fun _ q => (by cases q)⟩

theorem wipeDie_kept {s0 : State} (s : State) (d : Nat) (kept : Kept s0 s) :
    Kept s0 (wipeDie s d) := by
  unfold wipeDie
  repeat' first
      | with_reducible assumption
      | with_reducible apply updDie_kept
      | with_reducible apply updCluster_kept
      | with_reducible apply abandonMig_kept
      | with_reducible apply emptyCore_kept
      | (with_reducible refine foldl_kept _ ?_ (fun _ _ _ => ?_))
      | (with_reducible refine foldl_keptP (get := Prod.fst) _ ?_ (fun _ _ _ => ?_))
      | (with_reducible refine foldl_keptP (get := Prod.snd) _ ?_ (fun _ _ _ => ?_))
      | (with_reducible refine OkAll.bindKept (s0 := s0) ?_ (fun _ _ => ?_))
      | (with_reducible refine OkAll.bind' (fun _ => ?_))
      | (with_reducible refine SomeAll.bind' (fun _ => ?_))
      | with_reducible apply bump_kept
      | with_reducible apply bumpIf_kept
      | with_reducible apply sillage_kept
      | (fail_if_no_progress with_reducible refine Kept.lit ?_ (fun _ p => p))
      | trivial
      | split
      | dsimp only

theorem wipeDies_kept {s0 : State} (s : State) (kept : Kept s0 s) :
    Kept s0 (wipeDies s) := by
  unfold wipeDies
  repeat' first
      | with_reducible assumption
      | with_reducible apply wipeDie_kept
      | (with_reducible refine foldl_kept _ ?_ (fun _ _ _ => ?_))
      | (with_reducible refine foldl_keptP (get := Prod.fst) _ ?_ (fun _ _ _ => ?_))
      | (with_reducible refine foldl_keptP (get := Prod.snd) _ ?_ (fun _ _ _ => ?_))
      | with_reducible apply bump_kept
      | with_reducible apply bumpIf_kept
      | with_reducible apply sillage_kept
      | (fail_if_no_progress with_reducible refine Kept.lit ?_ (fun _ p => p))
      | trivial
      | split
      | dsimp only

theorem dropLink_kept {s0 : State} (s : State) (kept : Kept s0 s) :
    Kept s0 (dropLink s) := by
  unfold dropLink
  repeat' first
      | with_reducible assumption
      | with_reducible apply bump_kept
      | with_reducible apply bumpIf_kept
      | with_reducible apply sillage_kept
      | (fail_if_no_progress with_reducible refine Kept.lit ?_ (fun _ p => p))
      | trivial
      | split
      | dsimp only

theorem hubBack_kept {s0 : State} (s : State) (kept : Kept s0 s) :
    Kept s0 (hubBack s) := by
  unfold hubBack
  repeat' first
      | with_reducible assumption
      | with_reducible apply bump_kept
      | with_reducible apply bumpIf_kept
      | with_reducible apply sillage_kept
      | (fail_if_no_progress with_reducible refine Kept.lit ?_ (fun _ p => p))
      | trivial
      | split
      | dsimp only

theorem restartDie_kept {s0 : State} (s : State) (d : Nat) (kept : Kept s0 s) :
    Kept s0 (restartDie s d) := by
  unfold restartDie
  repeat' first
      | with_reducible assumption
      | with_reducible apply startRelease_kept
      | with_reducible apply bump_kept
      | with_reducible apply bumpIf_kept
      | with_reducible apply sillage_kept
      | (fail_if_no_progress with_reducible refine Kept.lit ?_ (fun _ p => p))
      | trivial
      | split
      | dsimp only

theorem loseDram_kept {s0 : State} (s : State) (kept : Kept s0 s) :
    Kept s0 (loseDram s) := by
  unfold loseDram
  repeat' first
      | with_reducible assumption
      | with_reducible apply undefSpace_kept
      | with_reducible apply bump_kept
      | with_reducible apply bumpIf_kept
      | with_reducible apply sillage_kept
      | (fail_if_no_progress with_reducible refine Kept.lit ?_ (fun _ p => p))
      | trivial
      | split
      | dsimp only

theorem freshRoles_kept {s0 : State} (s : State) (kept : Kept s0 s) :
    Kept s0 (freshRoles s) := by
  unfold freshRoles
  repeat' first
      | with_reducible assumption
      | with_reducible apply bump_kept
      | with_reducible apply bumpIf_kept
      | with_reducible apply sillage_kept
      | (fail_if_no_progress with_reducible refine Kept.lit ?_ (fun _ p => p))
      | trivial
      | split
      | dsimp only

theorem resetPackage_kept {s0 : State} (s : State) (kept : Kept s0 s) : Kept s0 (resetPackage s) := by
  unfold resetPackage
  extract_lets t u v
  have ht : Kept s0 t := closeSessions_kept _ _ (kept.ringsFresh rfl rfl rfl rfl rfl rfl rfl rfl rfl)
  have hu : Kept s0 u := loseDram_kept _ (wipeDies_kept _ ht)
  have hv : Kept s0 v := foldl_kept _ hu fun _ _ k => updDie_kept _ _ _ k
  clear_value v
  exact freshRoles_kept _ (Kept.lit hv fun _ p => p)

theorem assertPor_kept {s0 : State} (s : State) (kept : Kept s0 s) : Kept s0 (assertPor s) := by
  unfold assertPor
  have h := resetPackage_kept s kept
  generalize resetPackage s = t at h
  exact resetRecord_kept _ _ _ _ (Kept.lit h fun _ p => p)

theorem assertTrip_kept {s0 : State} (s : State) (cause sensor reading : Nat) (kept : Kept s0 s) :
    Kept s0 (assertTrip s cause sensor reading) := by
  unfold assertTrip
  repeat' first
      | with_reducible assumption
      | with_reducible apply sillage_kept
      | with_reducible apply bump_kept
      | with_reducible apply wideCause_kept
      | with_reducible apply resetPackage_kept
      | with_reducible apply bumpIf_kept
      | (fail_if_no_progress with_reducible refine Kept.lit ?_ (fun _ p => p))
      | trivial
      | split
      | dsimp only

theorem setDebug_kept {s0 : State} (s : State) (v : Nat) (kept : Kept s0 s) :
    Kept s0 (setDebug s v) := by
  unfold setDebug
  repeat' first
      | with_reducible assumption
      | with_reducible apply sillage_kept
      | with_reducible apply extendMr_kept
      | (with_reducible refine OkAll.bindKept (s0 := s0) ?_ (fun _ _ => ?_))
      | (with_reducible refine OkAll.bind' (fun _ => ?_))
      | (with_reducible refine SomeAll.bind' (fun _ => ?_))
      | with_reducible apply bump_kept
      | with_reducible apply bumpIf_kept
      | (fail_if_no_progress with_reducible refine Kept.lit ?_ (fun _ p => p))
      | trivial
      | split
      | dsimp only

theorem startAlias_kept {s0 : State} (s : State) (kept : Kept s0 s) :
    Kept s0 (startAlias s) := by
  unfold startAlias
  repeat' first
      | with_reducible assumption
      | with_reducible apply bump_kept
      | with_reducible apply bumpIf_kept
      | with_reducible apply sillage_kept
      | (fail_if_no_progress with_reducible refine Kept.lit ?_ (fun _ p => p))
      | trivial
      | split
      | dsimp only

theorem releaseBoot_kept {s0 : State} (s : State) (kept : Kept s0 s) :
    Kept s0 (releaseBoot s) := by
  unfold releaseBoot
  repeat' first
      | with_reducible assumption
      | with_reducible apply extendMr_kept
      | with_reducible apply setDebug_kept
      | with_reducible apply startAlias_kept
      | with_reducible apply bump_kept
      | with_reducible apply bumpIf_kept
      | with_reducible apply sillage_kept
      | (fail_if_no_progress with_reducible refine Kept.lit ?_ (fun _ p => p))
      | trivial
      | split
      | dsimp only

theorem strapRecord_kept {s0 : State} (s : State) (kept : Kept s0 s) :
    Kept s0 (strapRecord s) := by
  unfold strapRecord
  repeat' first
      | with_reducible assumption
      | with_reducible apply sillage_kept
      | with_reducible apply bump_kept
      | with_reducible apply bumpIf_kept
      | (fail_if_no_progress with_reducible refine Kept.lit ?_ (fun _ p => p))
      | trivial
      | split
      | dsimp only

theorem loadMaps_kept {s0 : State} (s : State) (kept : Kept s0 s) :
    Kept s0 (loadMaps s) := by
  unfold loadMaps
  repeat' first
      | with_reducible assumption
      | with_reducible apply updDie_kept
      | (with_reducible refine foldl_kept _ ?_ (fun _ _ _ => ?_))
      | (with_reducible refine foldl_keptP (get := Prod.fst) _ ?_ (fun _ _ _ => ?_))
      | (with_reducible refine foldl_keptP (get := Prod.snd) _ ?_ (fun _ _ _ => ?_))
      | with_reducible apply bump_kept
      | with_reducible apply bumpIf_kept
      | with_reducible apply sillage_kept
      | (fail_if_no_progress with_reducible refine Kept.lit ?_ (fun _ p => p))
      | trivial
      | split
      | dsimp only

theorem execLockstepMismatch_again_kept {s0 : State} (s : State) (kept : Kept s0 s) :
    Kept s0 (execLockstepMismatch.again s) := by
  unfold execLockstepMismatch.again
  repeat' first
      | with_reducible assumption
      | with_reducible apply bump_kept
      | with_reducible apply bumpIf_kept
      | with_reducible apply sillage_kept
      | (fail_if_no_progress with_reducible refine Kept.lit ?_ (fun _ p => p))
      | trivial
      | split
      | dsimp only

theorem assertDie_kept {s0 : State} (s : State) (d : Nat) (kept : Kept s0 s) :
    Kept s0 (assertDie s d) := by
  unfold assertDie
  repeat' first
      | with_reducible assumption
      | with_reducible apply updDie_kept
      | with_reducible apply destroyGroup_kept
      | with_reducible apply losePool_kept
      | with_reducible apply setLags_kept
      | with_reducible apply resetRecord_kept
      | with_reducible apply dieBits_kept
      | with_reducible apply wipeDie_kept
      | (with_reducible refine foldl_kept _ ?_ (fun _ _ _ => ?_))
      | (with_reducible refine foldl_keptP (get := Prod.fst) _ ?_ (fun _ _ _ => ?_))
      | (with_reducible refine foldl_keptP (get := Prod.snd) _ ?_ (fun _ _ _ => ?_))
      | with_reducible apply bump_kept
      | with_reducible apply bumpIf_kept
      | with_reducible apply sillage_kept
      | (fail_if_no_progress with_reducible refine Kept.lit ?_ (fun _ p => p))
      | trivial
      | split
      | dsimp only

theorem settleReady_kept {s0 : State} (s : State) (kept : Kept s0 s) :
    Kept s0 (settleReady s) := by
  unfold settleReady
  repeat' first
      | with_reducible assumption
      | with_reducible apply accordChange_kept
      | with_reducible apply extendMr_kept
      | with_reducible apply bump_kept
      | with_reducible apply bumpIf_kept
      | with_reducible apply sillage_kept
      | (fail_if_no_progress with_reducible refine Kept.lit ?_ (fun _ p => p))
      | trivial
      | split
      | dsimp only

theorem askCores_kept {s0 : State} (s : State) (b : IdleBlock) (kept : Kept s0 s) :
    Kept s0 (askCores s b) := by
  unfold askCores
  repeat' first
      | with_reducible assumption
      | (with_reducible refine updCore_kept ?_ (fun _ a b => ⟨a, b⟩))
      | (with_reducible refine foldl_kept _ ?_ (fun _ _ _ => ?_))
      | (with_reducible refine foldl_keptP (get := Prod.fst) _ ?_ (fun _ _ _ => ?_))
      | (with_reducible refine foldl_keptP (get := Prod.snd) _ ?_ (fun _ _ _ => ?_))
      | with_reducible apply bump_kept
      | with_reducible apply bumpIf_kept
      | with_reducible apply sillage_kept
      | (fail_if_no_progress with_reducible refine Kept.lit ?_ (fun _ p => p))
      | trivial
      | split
      | dsimp only

theorem quenchBlock_kept {s0 : State} (s : State) (b : IdleBlock) (kept : Kept s0 s) :
    Kept s0 (quenchBlock s b) := by
  unfold quenchBlock
  repeat' first
      | with_reducible assumption
      | with_reducible apply failJobService_kept
      | (with_reducible refine foldl_kept _ ?_ (fun _ _ _ => ?_))
      | (with_reducible refine foldl_keptP (get := Prod.fst) _ ?_ (fun _ _ _ => ?_))
      | (with_reducible refine foldl_keptP (get := Prod.snd) _ ?_ (fun _ _ _ => ?_))
      | with_reducible apply bump_kept
      | with_reducible apply bumpIf_kept
      | with_reducible apply sillage_kept
      | (fail_if_no_progress with_reducible refine Kept.lit ?_ (fun _ p => p))
      | trivial
      | split
      | dsimp only

theorem assertBlock_kept {s0 : State} (s : State) (b : IdleBlock) (kept : Kept s0 s) :
    Kept s0 (assertBlock s b) := by
  unfold assertBlock
  repeat' first
      | with_reducible assumption
      | (with_reducible refine updCore_kept ?_ (fun _ a b => ⟨a, b⟩))
      | with_reducible apply updCluster_kept
      | with_reducible apply clusterCause_kept
      | with_reducible apply releaseFence_kept
      | with_reducible apply undefCore_kept
      | with_reducible apply loseCore_kept
      | with_reducible apply startRelease_kept
      | with_reducible apply assertDie_kept
      | with_reducible apply quenchBlock_kept
      | (with_reducible refine foldl_kept _ ?_ (fun _ _ _ => ?_))
      | (with_reducible refine foldl_keptP (get := Prod.fst) _ ?_ (fun _ _ _ => ?_))
      | (with_reducible refine foldl_keptP (get := Prod.snd) _ ?_ (fun _ _ _ => ?_))
      | with_reducible apply bump_kept
      | with_reducible apply bumpIf_kept
      | with_reducible apply sillage_kept
      | (fail_if_no_progress with_reducible refine Kept.lit ?_ (fun _ p => p))
      | trivial
      | split
      | dsimp only

theorem forceCause_kept {s0 : State} (s : State) (b : IdleBlock) (kept : Kept s0 s) :
    Kept s0 (forceCause s b) := by
  unfold forceCause
  repeat' first
      | with_reducible assumption
      | with_reducible apply updDie_kept
      | with_reducible apply updCluster_kept
      | with_reducible apply bump_kept
      | with_reducible apply bumpIf_kept
      | with_reducible apply sillage_kept
      | (fail_if_no_progress with_reducible refine Kept.lit ?_ (fun _ p => p))
      | trivial
      | split
      | dsimp only

theorem linkRecord_kept {s0 : State} (s : State) (l : Nat) (kept : Kept s0 s) :
    Kept s0 (linkRecord s l) := by
  unfold linkRecord
  repeat' first
      | with_reducible assumption
      | with_reducible apply sillage_kept
      | with_reducible apply postEvent_kept
      | with_reducible apply bump_kept
      | with_reducible apply bumpIf_kept
      | (fail_if_no_progress with_reducible refine Kept.lit ?_ (fun _ p => p))
      | trivial
      | split
      | dsimp only

theorem rerouteDir_kept {s0 : State} (s : State) (a b : Nat) (x : LinkDir) (kept : Kept s0 s) :
    Kept s0 (rerouteDir s a b x) := by
  unfold rerouteDir
  repeat' first
      | with_reducible assumption
      | with_reducible apply send_kept
      | with_reducible apply bump_kept
      | with_reducible apply bumpIf_kept
      | with_reducible apply sillage_kept
      | (fail_if_no_progress with_reducible refine Kept.lit ?_ (fun _ p => p))
      | trivial
      | split
      | dsimp only

theorem downLink_kept {s0 : State} (s : State) (l : Nat) (kept : Kept s0 s) :
    Kept s0 (downLink s l) := by
  unfold downLink
  repeat' first
      | with_reducible assumption
      | with_reducible apply setLink_kept
      | with_reducible apply rerouteDir_kept
      | with_reducible apply bump_kept
      | with_reducible apply bumpIf_kept
      | with_reducible apply sillage_kept
      | (fail_if_no_progress with_reducible refine Kept.lit ?_ (fun _ p => p))
      | trivial
      | split
      | dsimp only

theorem setSetting_kept {s0 : State} (s : State) (index sub v : Nat) (kept : Kept s0 s) :
    Kept s0 (setSetting s index sub v) := by
  unfold setSetting
  repeat' first
      | with_reducible assumption
      | with_reducible apply bump_kept
      | with_reducible apply bumpIf_kept
      | with_reducible apply sillage_kept
      | (fail_if_no_progress with_reducible refine Kept.lit ?_ (fun _ p => p))
      | trivial
      | split
      | dsimp only

theorem lossQuery_kept {s0 : State} (s : State) (v : Nat) (kept : Kept s0 s) :
    Kept s0 (lossQuery s v) := by
  unfold lossQuery
  repeat' first
      | with_reducible assumption
      | with_reducible apply bump_kept
      | with_reducible apply bumpIf_kept
      | with_reducible apply sillage_kept
      | (fail_if_no_progress with_reducible refine Kept.lit ?_ (fun _ p => p))
      | trivial
      | split
      | dsimp only

theorem enablePort_kept {s0 : State} (s : State) (on : Bool) (kept : Kept s0 s) :
    Kept s0 (enablePort s on) := by
  unfold enablePort
  repeat' first
      | with_reducible assumption
      | with_reducible apply closeSessions_kept
      | with_reducible apply bump_kept
      | with_reducible apply bumpIf_kept
      | with_reducible apply sillage_kept
      | (fail_if_no_progress with_reducible refine Kept.lit ?_ (fun _ p => p))
      | trivial
      | split
      | dsimp only

theorem sendSetpoint_kept {s0 : State} (s : State) (kept : Kept s0 s) :
    Kept s0 (sendSetpoint s) := by
  unfold sendSetpoint
  repeat' first
      | with_reducible assumption
      | with_reducible apply bump_kept
      | with_reducible apply bumpIf_kept
      | with_reducible apply sillage_kept
      | (fail_if_no_progress with_reducible refine Kept.lit ?_ (fun _ p => p))
      | trivial
      | split
      | dsimp only

theorem enablePmbus_kept {s0 : State} (s : State) (on : Bool) (kept : Kept s0 s) :
    Kept s0 (enablePmbus s on) := by
  unfold enablePmbus
  repeat' first
      | with_reducible assumption
      | with_reducible apply sendSetpoint_kept
      | with_reducible apply bump_kept
      | with_reducible apply bumpIf_kept
      | with_reducible apply sillage_kept
      | (fail_if_no_progress with_reducible refine Kept.lit ?_ (fun _ p => p))
      | trivial
      | split
      | dsimp only

theorem settingEffect_kept {s0 : State} (s : State) (index sub v : Nat) (kept : Kept s0 s) :
    Kept s0 (settingEffect s index sub v) := by
  unfold settingEffect
  repeat' first
      | with_reducible assumption
      | with_reducible apply setPool_kept
      | with_reducible apply setSetting_kept
      | with_reducible apply lossQuery_kept
      | with_reducible apply enablePort_kept
      | with_reducible apply sendSetpoint_kept
      | with_reducible apply enablePmbus_kept
      | with_reducible apply bump_kept
      | with_reducible apply bumpIf_kept
      | with_reducible apply sillage_kept
      | (fail_if_no_progress with_reducible refine Kept.lit ?_ (fun _ p => p))
      | trivial
      | split
      | dsimp only

theorem dieService_kept {s0 : State} (s : State) (v : Nat) (kept : Kept s0 s) :
    SomeAll (Kept s0) (dieService s v) := by
  unfold dieService
  repeat' first
      | with_reducible assumption
      | with_reducible apply updDie_kept
      | with_reducible apply setRole_kept
      | with_reducible apply serve_kept
      | with_reducible apply startRejoin_kept
      | with_reducible apply okAll_mk
      | with_reducible apply okAll_pure
      | with_reducible apply someAll_mk
      | with_reducible apply someAll_pure
      | with_reducible apply bump_kept
      | with_reducible apply bumpIf_kept
      | with_reducible apply sillage_kept
      | (fail_if_no_progress with_reducible refine Kept.lit ?_ (fun _ p => p))
      | trivial
      | split
      | dsimp only

theorem coreRetire_kept {s0 : State} (s : State) (d v : Nat) (kept : Kept s0 s) :
    SomeAll (Kept s0) (coreRetire s d v) := by
  unfold coreRetire
  repeat' first
      | with_reducible assumption
      | with_reducible apply askRetire_kept
      | with_reducible apply okAll_mk
      | with_reducible apply okAll_pure
      | with_reducible apply someAll_mk
      | with_reducible apply someAll_pure
      | with_reducible apply bump_kept
      | with_reducible apply bumpIf_kept
      | with_reducible apply sillage_kept
      | (fail_if_no_progress with_reducible refine Kept.lit ?_ (fun _ p => p))
      | trivial
      | split
      | dsimp only

theorem stageData_kept {s0 : State} (s : State) (bs : List Byte) (kept : Kept s0 s) :
    SomeAll (Kept s0) (stageData s bs) := by
  unfold stageData
  repeat' first
      | with_reducible assumption
      | with_reducible apply setSetting_kept
      | with_reducible apply okAll_mk
      | with_reducible apply okAll_pure
      | with_reducible apply someAll_mk
      | with_reducible apply someAll_pure
      | with_reducible apply bump_kept
      | with_reducible apply bumpIf_kept
      | with_reducible apply sillage_kept
      | (fail_if_no_progress with_reducible refine Kept.lit ?_ (fun _ p => p))
      | trivial
      | split
      | dsimp only

theorem stageCommit_kept {s0 : State} (s : State) (kept : Kept s0 s) :
    Kept s0 (stageCommit s).1 := by
  unfold stageCommit
  repeat' first
      | with_reducible assumption
      | with_reducible apply bump_kept
      | with_reducible apply bumpIf_kept
      | with_reducible apply sillage_kept
      | (fail_if_no_progress with_reducible refine Kept.lit ?_ (fun _ p => p))
      | trivial
      | split
      | dsimp only

theorem bankSwap_kept {s0 : State} (s : State) (kept : Kept s0 s) :
    SomeAll (Kept s0) (bankSwap s) := by
  unfold bankSwap
  repeat' first
      | with_reducible assumption
      | with_reducible apply bump_kept
      | with_reducible apply okAll_mk
      | with_reducible apply okAll_pure
      | with_reducible apply someAll_mk
      | with_reducible apply someAll_pure
      | with_reducible apply bumpIf_kept
      | with_reducible apply sillage_kept
      | (fail_if_no_progress with_reducible refine Kept.lit ?_ (fun _ p => p))
      | trivial
      | split
      | dsimp only

theorem beginStore_kept {s0 : State} (s : State) (kept : Kept s0 s) :
    SomeAll (Kept s0) (beginStore s) := by
  unfold beginStore
  repeat' first
      | with_reducible assumption
      | with_reducible apply okAll_mk
      | with_reducible apply okAll_pure
      | with_reducible apply someAll_mk
      | with_reducible apply someAll_pure
      | (with_reducible refine SomeAll.map' (fun _ => ?_))
      | with_reducible apply bump_kept
      | with_reducible apply bumpIf_kept
      | with_reducible apply sillage_kept
      | (fail_if_no_progress with_reducible refine Kept.lit ?_ (fun _ p => p))
      | trivial
      | split
      | dsimp only

theorem clearCauses_kept {s0 : State} (s : State) (kept : Kept s0 s) :
    Kept s0 (clearCauses s) := by
  unfold clearCauses
  repeat' first
      | with_reducible assumption
      | (with_reducible refine foldl_kept _ ?_ (fun _ _ _ => ?_))
      | (with_reducible refine foldl_keptP (get := Prod.fst) _ ?_ (fun _ _ _ => ?_))
      | (with_reducible refine foldl_keptP (get := Prod.snd) _ ?_ (fun _ _ _ => ?_))
      | with_reducible apply bump_kept
      | with_reducible apply bumpIf_kept
      | with_reducible apply sillage_kept
      | (fail_if_no_progress with_reducible refine Kept.lit ?_ (fun _ p => p))
      | trivial
      | split
      | dsimp only

theorem serviceEffect_kept {s0 : State} (s : State) (path index sub v : Nat) (bs : List Byte) (kept : Kept s0 s) :
    Kept s0 (serviceEffect s path index sub v bs).1 := by
  unfold serviceEffect
  extract_lets done
  have hd : ∀ o, SomeAll (Kept s0) o → Kept s0 (done o).1 := by
    intro o h
    cases o with
    | none => exact kept
    | some t => exact h
  clear_value done
  repeat' first
      | with_reducible assumption
      | with_reducible apply hd
      | with_reducible apply quench_kept
      | with_reducible apply beginStore_kept
      | with_reducible apply dieService_kept
      | with_reducible apply clearCauses_kept
      | with_reducible apply stageData_kept
      | with_reducible apply stageCommit_kept
      | with_reducible apply bankSwap_kept
      | with_reducible apply coreRetire_kept
      | with_reducible apply queueMig_kept
      | (fail_if_no_progress with_reducible refine Kept.lit ?_ (fun _ p => p))
      | exact kept.trans ⟨rfl, fun _ p => p, id, id, id, id, fun _ => Nat.zero_le _, id, id⟩
      | split
      | dsimp only

theorem applyField_kept {s0 : State} (s : State) (path : Nat) (f : FieldWrite) (kept : Kept s0 s) :
    Kept s0 (applyField s path f).1 := by
  unfold applyField
  repeat' first
      | with_reducible assumption
      | with_reducible apply setSetting_kept
      | with_reducible apply settingEffect_kept
      | with_reducible apply serviceEffect_kept
      | (with_reducible refine pair_fst (serviceEffect_kept (s0 := s0) _ _ _ _ _ _ ?_) (by assumption))
      | with_reducible apply bump_kept
      | with_reducible apply bumpIf_kept
      | with_reducible apply sillage_kept
      | (fail_if_no_progress with_reducible refine Kept.lit ?_ (fun _ p => p))
      | trivial
      | split
      | dsimp only

theorem applyFields_kept {s0 : State} {step : State → FieldWrite → State × Nat} (s : State) (fs : List FieldWrite)
    (hs : ∀ s f, Kept s0 s → Kept s0 (step s f).1) (kept : Kept s0 s) : Kept s0 (applyFields step s fs).1 := by
  unfold applyFields
  exact foldl_keptP (get := Prod.fst) _ kept fun b f k => hs _ f k

theorem closeWrite_kept {s0 : State} (s : State) (src : Nat) (rs : List ClampRec) (changed : Bool) (kept : Kept s0 s) :
    Kept s0 (closeWrite s src rs changed) := by
  unfold closeWrite
  repeat' first
      | with_reducible assumption
      | with_reducible apply sillage_kept
      | with_reducible apply bump_kept
      | with_reducible apply bumpIf_kept
      | (fail_if_no_progress with_reducible refine Kept.lit ?_ (fun _ p => p))
      | trivial
      | split
      | dsimp only

theorem restoreVals_kept {s0 : State} (s : State) (vals : List (Nat × Nat)) (kept : Kept s0 s) :
    Kept s0 (restoreVals s vals) := by
  unfold restoreVals
  repeat' first
      | with_reducible assumption
      | with_reducible apply applyField_kept
      | (with_reducible refine pair_fst (applyField_kept (s0 := s0) _ _ _ ?_) (by assumption))
      | with_reducible apply applyFields_kept
      | (with_reducible refine pair_fst (applyFields_kept (s0 := s0) _ _ _ ?_) (by assumption))
      | with_reducible apply closeWrite_kept
      | exact fun _ _ k => applyField_kept _ _ _ k
      | with_reducible apply bump_kept
      | with_reducible apply bumpIf_kept
      | with_reducible apply sillage_kept
      | (fail_if_no_progress with_reducible refine Kept.lit ?_ (fun _ p => p))
      | trivial
      | split
      | dsimp only

theorem restoreStored_kept {s0 : State} (s : State) (kept : Kept s0 s) :
    Kept s0 (restoreStored s) := by
  unfold restoreStored
  repeat' first
      | with_reducible assumption
      | with_reducible apply restoreVals_kept
      | with_reducible apply bump_kept
      | with_reducible apply bumpIf_kept
      | with_reducible apply sillage_kept
      | (fail_if_no_progress with_reducible refine Kept.lit ?_ (fun _ p => p))
      | trivial
      | split
      | dsimp only

theorem restoreDefaults_kept {s0 : State} (s : State) (kept : Kept s0 s) :
    Kept s0 (restoreDefaults s) := by
  unfold restoreDefaults
  repeat' first
      | with_reducible assumption
      | with_reducible apply restoreVals_kept
      | with_reducible apply bump_kept
      | with_reducible apply bumpIf_kept
      | with_reducible apply sillage_kept
      | (fail_if_no_progress with_reducible refine Kept.lit ?_ (fun _ p => p))
      | trivial
      | split
      | dsimp only

theorem writeRequest_kept {s0 : State} (s : State) (src : Nat) (fs : List FieldWrite) (kept : Kept s0 s) :
    Kept s0 (writeRequest s src fs).1 := by
  unfold writeRequest
  repeat' first
      | with_reducible assumption
      | with_reducible apply applyField_kept
      | (with_reducible refine pair_fst (applyField_kept (s0 := s0) _ _ _ ?_) (by assumption))
      | with_reducible apply applyFields_kept
      | (with_reducible refine pair_fst (applyFields_kept (s0 := s0) _ _ _ ?_) (by assumption))
      | with_reducible apply closeWrite_kept
      | with_reducible apply restoreStored_kept
      | with_reducible apply restoreDefaults_kept
      | (with_reducible refine pair_fst (applyFields_kept (s0 := s0) _ _ (fun _ _ k => applyField_kept _ _ _ k) ?_) (by assumption))
      | with_reducible apply bump_kept
      | with_reducible apply bumpIf_kept
      | with_reducible apply sillage_kept
      | (fail_if_no_progress with_reducible refine Kept.lit ?_ (fun _ p => p))
      | trivial
      | split
      | dsimp only

theorem mbWrite_kept {s0 : State} (s : State) (index sub ty : Nat) (bs : List Byte) (kept : Kept s0 s) :
    Kept s0 (mbWrite s index sub ty bs) := by
  unfold mbWrite
  repeat' first
      | with_reducible assumption
      | with_reducible apply writeRequest_kept
      | (with_reducible refine pair_fst (writeRequest_kept (s0 := s0) _ _ _ ?_) (by assumption))
      | with_reducible apply bump_kept
      | with_reducible apply bumpIf_kept
      | with_reducible apply sillage_kept
      | (fail_if_no_progress with_reducible refine Kept.lit ?_ (fun _ p => p))
      | trivial
      | split
      | dsimp only

theorem fieldRespond_kept {s0 : State} (s : State) (mac session seq op : Nat) (bytes : List Byte) (kept : Kept s0 s) :
    Kept s0 (fieldRespond s mac session seq op bytes) := by
  unfold fieldRespond
  repeat' first
      | with_reducible assumption
      | with_reducible apply bump_kept
      | with_reducible apply bumpIf_kept
      | with_reducible apply sillage_kept
      | (fail_if_no_progress with_reducible refine Kept.lit ?_ (fun _ p => p))
      | trivial
      | split
      | dsimp only

theorem respond_kept {s0 : State} (s : State) (q : Request) (answer : Option (List Byte)) (kept : Kept s0 s) :
    Kept s0 (respond s q answer) := by
  unfold respond
  repeat' first
      | with_reducible assumption
      | with_reducible apply mbRespond_kept
      | with_reducible apply mbReject_kept
      | with_reducible apply fieldRespond_kept
      | with_reducible apply bump_kept
      | with_reducible apply bumpIf_kept
      | with_reducible apply sillage_kept
      | (fail_if_no_progress with_reducible refine Kept.lit ?_ (fun _ p => p))
      | trivial
      | split
      | dsimp only

theorem takeReq_kept {s0 : State} (s : State) (p : Request → Bool) (kept : Kept s0 s) :
    SomeAll (fun p => Kept s0 p.2) (takeReq s p) := by
  unfold takeReq
  repeat' first
      | with_reducible assumption
      | with_reducible apply okAll_mk
      | with_reducible apply okAll_pure
      | with_reducible apply someAll_mk
      | with_reducible apply someAll_pure
      | with_reducible apply bump_kept
      | with_reducible apply bumpIf_kept
      | with_reducible apply sillage_kept
      | (fail_if_no_progress with_reducible refine Kept.lit ?_ (fun _ p => p))
      | trivial
      | split
      | dsimp only

theorem nextDict_kept {s0 : State} (s : State) (op : Nat) (kept : Kept s0 s) :
    SomeAll (fun p => Kept s0 p.2) (nextDict s op) := by
  unfold nextDict
  repeat' first
      | with_reducible assumption
      | with_reducible apply takeReq_kept
      | (with_reducible refine SomeAll.bind (takeReq_kept (s0 := s0) _ _ ?_) (fun _ _ => ?_))
      | (with_reducible refine someAll_snd (takeReq_kept (s0 := s0) _ _ ?_) (by assumption))
      | (with_reducible refine someAll_snd' (takeReq_kept (s0 := s0) _ _ ?_) (by assumption))
      | with_reducible apply okAll_mk
      | with_reducible apply okAll_pure
      | with_reducible apply someAll_mk
      | with_reducible apply someAll_pure
      | with_reducible apply bump_kept
      | with_reducible apply bumpIf_kept
      | with_reducible apply sillage_kept
      | (fail_if_no_progress with_reducible refine Kept.lit ?_ (fun _ p => p))
      | trivial
      | split
      | dsimp only

theorem rejectFrame_kept {s0 : State} (s : State) (src op cause : Nat) (kept : Kept s0 s) :
    Kept s0 (rejectFrame s src op cause) := by
  unfold rejectFrame
  repeat' first
      | with_reducible assumption
      | with_reducible apply sillage_kept
      | with_reducible apply bump_kept
      | with_reducible apply bumpIf_kept
      | (fail_if_no_progress with_reducible refine Kept.lit ?_ (fun _ p => p))
      | trivial
      | split
      | dsimp only

theorem rejectLayout_kept {s0 : State} (s : State) (src op : Nat) (kept : Kept s0 s) :
    Kept s0 (rejectLayout s src op) := by
  unfold rejectLayout
  repeat' first
      | with_reducible assumption
      | with_reducible apply rejectFrame_kept
      | with_reducible apply bump_kept
      | with_reducible apply bumpIf_kept
      | with_reducible apply sillage_kept
      | (fail_if_no_progress with_reducible refine Kept.lit ?_ (fun _ p => p))
      | trivial
      | split
      | dsimp only

theorem acceptRequest_kept {s0 : State} (s : State) (src session seq op : Nat) (data : List Byte) (kept : Kept s0 s) :
    Kept s0 (acceptRequest s src session seq op data) := by
  unfold acceptRequest
  repeat' first
      | with_reducible assumption
      | with_reducible apply rejectFrame_kept
      | with_reducible apply bump_kept
      | with_reducible apply bumpIf_kept
      | with_reducible apply sillage_kept
      | (fail_if_no_progress with_reducible refine Kept.lit ?_ (fun _ p => p))
      | trivial
      | split
      | dsimp only

theorem dropReasm_kept {s0 : State} (s : State) (b : Option Nat) (src op : Nat) (kept : Kept s0 s) :
    Kept s0 (dropReasm s b src op) := by
  unfold dropReasm
  repeat' first
      | with_reducible assumption
      | with_reducible apply bump_kept
      | with_reducible apply rejectFrame_kept
      | with_reducible apply bumpIf_kept
      | with_reducible apply sillage_kept
      | (fail_if_no_progress with_reducible refine Kept.lit ?_ (fun _ p => p))
      | trivial
      | split
      | dsimp only

theorem takeFragment_kept {s0 : State} (s : State) (f : Frame) (kept : Kept s0 s) :
    Kept s0 (takeFragment s f) := by
  unfold takeFragment
  repeat' first
      | with_reducible assumption
      | with_reducible apply acceptRequest_kept
      | with_reducible apply dropReasm_kept
      | with_reducible apply bump_kept
      | with_reducible apply bumpIf_kept
      | with_reducible apply sillage_kept
      | (fail_if_no_progress with_reducible refine Kept.lit ?_ (fun _ p => p))
      | trivial
      | split
      | dsimp only

theorem retireDie_kept {s0 : State} (s : State) (d : Nat) (kept : Kept s0 s) : Kept s0 (retireDie s d) := by
  unfold retireDie
  extract_lets _ t v w u
  have ht : Kept s0 t := by
    refine Kept.lit kept fun k p => ?_
    simp only [Fin.getElem_fin, Vector.getElem_setIfInBounds]
    split
    · rfl
    · exact p
  have hu : Kept s0 u := by
    unfold u
    split
    · exact loseDie_kept _ _ _ ht
    · split
      · exact Kept.lit (updDie_kept _ _ _ ht) (fun _ p => p)
      · exact ht
  exact sillage_kept (setRole_kept _ _ _ hu)

theorem setCocoon_kept {s0 : State} (s : State) (index sub v : Nat) (f : FieldWrite) (uses : Bool) (kept : Kept s0 s) :
    Kept s0 (setCocoon s index sub v f uses) := by
  unfold setCocoon
  repeat' first
      | with_reducible assumption
      | with_reducible apply closeSessions_kept
      | with_reducible apply setDebug_kept
      | with_reducible apply retireDie_kept
      | with_reducible apply bump_kept
      | with_reducible apply bumpIf_kept
      | with_reducible apply sillage_kept
      | (fail_if_no_progress with_reducible refine Kept.lit ?_ (fun _ p => p))
      | trivial
      | split
      | dsimp only

theorem orderField_kept {s0 : State} (o : Order) (mailbox : Bool) (s : State) (f : FieldWrite) (kept : Kept s0 s) :
    Kept s0 (orderField o mailbox s f).1 := by
  unfold orderField
  repeat' first
      | with_reducible assumption
      | with_reducible apply sillage_kept
      | with_reducible apply setCocoon_kept
      | with_reducible apply bump_kept
      | with_reducible apply bumpIf_kept
      | (fail_if_no_progress with_reducible refine Kept.lit ?_ (fun _ p => p))
      | trivial
      | split
      | dsimp only

theorem lowerWorking_kept {s0 : State} (s : State) (kept : Kept s0 s) :
    Kept s0 (lowerWorking s).1 := by
  unfold lowerWorking
  repeat' first
      | with_reducible assumption
      | with_reducible apply setSetting_kept
      | (with_reducible refine foldl_kept _ ?_ (fun _ _ _ => ?_))
      | (with_reducible refine foldl_keptP (get := Prod.fst) _ ?_ (fun _ _ _ => ?_))
      | (with_reducible refine foldl_keptP (get := Prod.snd) _ ?_ (fun _ _ _ => ?_))
      | with_reducible apply bump_kept
      | with_reducible apply bumpIf_kept
      | with_reducible apply sillage_kept
      | (fail_if_no_progress with_reducible refine Kept.lit ?_ (fun _ p => p))
      | trivial
      | split
      | dsimp only

theorem applyOrder_kept {s0 : State} (s : State) (o : Order) (mailbox : Bool) (bs : List Byte) (kept : Kept s0 s) :
    Kept s0 (applyOrder s o mailbox bs).1 := by
  unfold applyOrder
  repeat' first
      | with_reducible assumption
      | with_reducible apply extendMr_kept
      | with_reducible apply applyFields_kept
      | (with_reducible refine pair_fst (applyFields_kept (s0 := s0) _ _ _ ?_) (by assumption))
      | with_reducible apply closeWrite_kept
      | with_reducible apply orderField_kept
      | (with_reducible refine pair_fst (orderField_kept (s0 := s0) _ _ _ _ ?_) (by assumption))
      | with_reducible apply lowerWorking_kept
      | (with_reducible refine pair_fst (lowerWorking_kept (s0 := s0) _ ?_) (by assumption))
      | with_reducible apply bump_kept
      | with_reducible apply bumpIf_kept
      | with_reducible apply sillage_kept
      | (fail_if_no_progress with_reducible refine Kept.lit ?_ (fun _ p => p))
      | trivial
      | split
      | dsimp only

theorem nextCocoon_kept {s0 : State} (s : State) (p : Request → Bool) (kept : Kept s0 s) :
    SomeAll (fun p => Kept s0 p.2) (nextCocoon s p) := by
  unfold nextCocoon
  repeat' first
      | with_reducible assumption
      | with_reducible apply takeReq_kept
      | (with_reducible refine SomeAll.bind (takeReq_kept (s0 := s0) _ _ ?_) (fun _ _ => ?_))
      | (with_reducible refine someAll_snd (takeReq_kept (s0 := s0) _ _ ?_) (by assumption))
      | (with_reducible refine someAll_snd' (takeReq_kept (s0 := s0) _ _ ?_) (by assumption))
      | with_reducible apply okAll_mk
      | with_reducible apply okAll_pure
      | with_reducible apply someAll_mk
      | with_reducible apply someAll_pure
      | with_reducible apply bump_kept
      | with_reducible apply bumpIf_kept
      | with_reducible apply sillage_kept
      | (fail_if_no_progress with_reducible refine Kept.lit ?_ (fun _ p => p))
      | trivial
      | split
      | dsimp only

theorem refuseOrder_kept {s0 : State} (s : State) (q : Request) (status : Nat) (kept : Kept s0 s) :
    Kept s0 (refuseOrder s q status) := by
  unfold refuseOrder
  repeat' first
      | with_reducible assumption
      | with_reducible apply bump_kept
      | with_reducible apply respond_kept
      | with_reducible apply bumpIf_kept
      | with_reducible apply sillage_kept
      | (fail_if_no_progress with_reducible refine Kept.lit ?_ (fun _ p => p))
      | trivial
      | split
      | dsimp only

theorem runFrom_kept {s0 : State} (s : State) (unit bank : Nat) (kept : Kept s0 s) :
    Kept s0 (runFrom s unit bank) := by
  unfold runFrom
  repeat' first
      | with_reducible assumption
      | with_reducible apply bump_kept
      | with_reducible apply bumpIf_kept
      | with_reducible apply sillage_kept
      | (fail_if_no_progress with_reducible refine Kept.lit ?_ (fun _ p => p))
      | trivial
      | split
      | dsimp only

theorem loadFlash_kept {s0 : State} (s : State) (kept : Kept s0 s) :
    Kept s0 (loadFlash s) := by
  unfold loadFlash
  repeat' first
      | with_reducible assumption
      | with_reducible apply bump_kept
      | with_reducible apply bumpIf_kept
      | with_reducible apply sillage_kept
      | (fail_if_no_progress with_reducible refine Kept.lit ?_ (fun _ p => p))
      | trivial
      | split
      | dsimp only

theorem startRecovery_kept {s0 : State} (s : State) (kept : Kept s0 s) :
    Kept s0 (startRecovery s) := by
  unfold startRecovery
  repeat' first
      | with_reducible assumption
      | with_reducible apply extendMr_kept
      | with_reducible apply bump_kept
      | with_reducible apply bumpIf_kept
      | with_reducible apply sillage_kept
      | (fail_if_no_progress with_reducible refine Kept.lit ?_ (fun _ p => p))
      | trivial
      | split
      | dsimp only

theorem bootDict_kept {s0 : State} (s : State) (kept : Kept s0 s) :
    Kept s0 (bootDict s) := by
  unfold bootDict
  repeat' first
      | with_reducible assumption
      | with_reducible apply restoreStored_kept
      | with_reducible apply bump_kept
      | with_reducible apply bumpIf_kept
      | with_reducible apply sillage_kept
      | (fail_if_no_progress with_reducible refine Kept.lit ?_ (fun _ p => p))
      | trivial
      | split
      | dsimp only

theorem startPorts_kept {s0 : State} (s : State) (kept : Kept s0 s) :
    Kept s0 (startPorts s) := by
  unfold startPorts
  repeat' first
      | with_reducible assumption
      | with_reducible apply enablePort_kept
      | with_reducible apply sendSetpoint_kept
      | with_reducible apply bump_kept
      | with_reducible apply bumpIf_kept
      | with_reducible apply sillage_kept
      | (fail_if_no_progress with_reducible refine Kept.lit ?_ (fun _ p => p))
      | trivial
      | split
      | dsimp only

theorem startHub_kept {s0 : State} (s : State) (bank : Nat) (kept : Kept s0 s) :
    Kept s0 (startHub s bank) := by
  unfold startHub
  repeat' first
      | with_reducible assumption
      | with_reducible apply extendMr_kept
      | with_reducible apply settleReady_kept
      | with_reducible apply runFrom_kept
      | with_reducible apply loadFlash_kept
      | with_reducible apply bootDict_kept
      | with_reducible apply startPorts_kept
      | with_reducible apply bump_kept
      | with_reducible apply bumpIf_kept
      | with_reducible apply sillage_kept
      | (fail_if_no_progress with_reducible refine Kept.lit ?_ (fun _ p => p))
      | trivial
      | split
      | dsimp only

theorem startCocoon_kept {s0 : State} (s : State) (bank : Nat) (kept : Kept s0 s) :
    Kept s0 (startCocoon s bank) := by
  unfold startCocoon
  repeat' first
      | with_reducible assumption
      | with_reducible apply extendMr_kept
      | with_reducible apply runFrom_kept
      | with_reducible apply bump_kept
      | with_reducible apply bumpIf_kept
      | with_reducible apply sillage_kept
      | (fail_if_no_progress with_reducible refine Kept.lit ?_ (fun _ p => p))
      | trivial
      | split
      | dsimp only

theorem failDieBoot_kept {s0 : State} (s : State) (d : Nat) (kept : Kept s0 s) :
    Kept s0 (failDieBoot s d) := by
  unfold failDieBoot
  repeat' first
      | with_reducible assumption
      | with_reducible apply sillage_kept
      | with_reducible apply bump_kept
      | with_reducible apply updDie_kept
      | with_reducible apply loseDie_kept
      | with_reducible apply settleReady_kept
      | with_reducible apply bumpIf_kept
      | (fail_if_no_progress with_reducible refine Kept.lit ?_ (fun _ p => p))
      | trivial
      | split
      | dsimp only

end Sys2Proof.Machine
end

