-- ==== Sys2Proof/Tests/Slice0.lean ====
section
/-! SUPPORT. Tests: terms that WellFormed refuses, values that the manual states, and for each statement of the
obligations states and operands that meet its hypotheses. -/

namespace Sys2Proof.Tests
set_option Elab.async false
open Sys2Proof Sys2Proof.Machine

/-! ### WellFormed refuses -/

theorem test_wf_commit : wellFormed (.commit 0 0 256 1) = false := by decide
theorem test_wf_append : wellFormed (.appendDone 0 0 256) = false := by decide
theorem test_wf_scrub : wellFormed (.scratchScrub 0 0 73) = false := by decide
theorem test_wf_dram_range : wellFormed (.dramRequest 0 { dpa := 120 * 2 ^ 30 - 1, len := 2 }) = false := by decide
theorem test_wf_dram_bytes : wellFormed (.dramRequest 0 { dpa := 0, len := 2, write := some [0] }) = false := by decide
theorem test_wf_writeback : wellFormed (.ceWriteback 0 0 (120 * 2 ^ 30)) = false := by decide
theorem test_wf_adder : wellFormed (.adderOp 0 (120 * 2 ^ 30) 0 { kind := .add } 0 0) = false := by decide
theorem test_wf_compute : wellFormed (.controlPeriod { compute := [0] }) = false := by decide
theorem test_wf_dram_readings : wellFormed (.controlPeriod { dram := [0] }) = false := by decide
theorem test_wf_hub_readings : wellFormed (.controlPeriod { hub := [0] }) = false := by decide
theorem test_wf_amps : wellFormed (.controlPeriod { dieA := [0] }) = false := by decide
theorem test_wf_width : wellFormed (.cxlLinkTrain 2 3) = false := by decide
theorem test_wf_mailbox : wellFormed (.mbGo 1 0 0 (List.replicate 3841 0)) = false := by decide +kernel
theorem test_wf_host_read : wellFormed (.hostMemRead (2 ^ 39)) = false := by decide
theorem test_wf_host_write : wellFormed (.hostMemWrite (2 ^ 39) (List.replicate 64 0)) = false := by decide
theorem test_wf_host_line : wellFormed (.hostMemWrite 0 [0]) = false := by decide
theorem test_wf_hdm : wellFormed (.hdmCommit 0 (2 ^ 64) 0 0 1 false) = false
  ∧ wellFormed (.hdmCommit 0 0 (2 ^ 64) 0 1 false) = false ∧ wellFormed (.hdmCommit 0 0 0 (2 ^ 64) 1 false) = false
  ∧ wellFormed (.hdmCommit 0 0 0 0 0 false) = false := by decide
theorem test_wf_quench_ctrl : wellFormed (.quenchCtrl 0 0) = false ∧ wellFormed (.quenchCtrl 0 9) = false := by decide
theorem test_wf_bridge_lanes : wellFormed (.linkTrain 0 529) = false ∧ wellFormed (.linkTrain 6 137) = false := by decide
theorem test_wf_stage : wellFormed (.fwStageData (List.replicate 3777 0)) = false := by decide +kernel
theorem test_wf_frame : wellFormed (.fnFrame (List.replicate 1519 0)) = false := by decide +kernel

/-! ### States -/

/-- A running part: booted, linked, its dies serving. -/
def up : State :=
  { State.reset with
    por := false
    refOk := true
    nowNs := 5000000000
    hub := { State.reset.hub with instar := 3, inReset := false, ready := true, linkUp := true, linkRate := 2, linkWidth := 16
                                  cxlMode := true }
    pins := { State.reset.pins with perst := false }
    pow := { State.reset.pow with vinUp := true }
    accord := { State.reset.accord with begun := true, epoch := 1 }
    coc := { State.reset.coc with up := true }
    flash := { State.reset.flash with up := true }
    dies := (List.range 4).map fun d => (d, { dieRst := false, phase := .done, instar := 3 })
    links := (List.range 10).map fun l => (l, { up := true }) }

/-- The word with the given fields, each a low bit and a value. -/
def word (fs : List (Nat × Nat)) : Body := BitVec.ofNat 120 (fs.map fun f => f.2 * 2 ^ f.1).sum

/-- A submission entry with the given fields. -/
def entry (fs : List (Nat × Nat)) : BitVec 512 := BitVec.ofNat 512 (fs.map fun f => f.2 * 2 ^ f.1).sum

def job1 : Job := { ring := 1, tag := 1, state := .running, cores := [0], asid := 1, progLen := 8 }
def task1 : Task := { job := 1, lc := false, rank := 0, started := true, pc := 2 }
def spaceOf (pages : Tab Pte) : Tab ASpace := [(1, { tableDie := 0, pages := pages })]

/-- A descriptor with VALID set, whose tensor is the tile. -/
def tile (space fmt base rows cols pitch : Nat) : BitVec 256 :=
  BitVec.ofNat 256 (space * 2 ^ 252 + fmt * 2 ^ 248 + 2 ^ 247 + base * 2 ^ 192 + rows * 2 ^ 172 + cols * 2 ^ 156
    + pitch * 2 ^ 124 + rows * 2 ^ 92 + cols * 2 ^ 60)

/-- A task with descriptors from td0 upward. -/
def withTd (t : Task) (ds : List (BitVec 256)) : Task :=
  { t with td := ds.zipIdx.foldl (fun v d => v.setIfInBounds d.2 d.1) t.td }

/-- Core 0 runs the task `t` of job 1, with one page of job memory at 0x10000. -/
def run (t : Task) (j : Job := job1) : State :=
  { up with jobs := [(1, j)], cores := [(0, { be := some t })], aspaces := spaceOf [(1, { tier := 2, frame := 5 })] }

def ctxOf (t : Task) (j : Job := job1) : Ctx := { core := 0, task := t, jobn := 1, job := j, ix := t.ix }

/-- The task with some index registers set. -/
def withIx (t : Task) (vs : List (Fin 16 × Nat)) : Task :=
  { t with ix := vs.foldl (fun x v => x.set v.1 (BitVec.ofNat 32 v.2)) t.ix }

/-! ### The step, the invariants, the sequencer -/

theorem wit_idle : up.pending = [] := by decide
theorem wit_invariants : MemoriesCanonical up ∧ SillageBounded up ∧ RingZeroPrivileged up
    ∧ { up.coc with fuses := up.coc.fuses.set 2 true }.fuses[(2 : Die)] = true := by
  unfold MemoriesCanonical SillageBounded RingZeroPrivileged
  decide +kernel

/-- A core's task of its own class. -/
theorem wit_classes : TaskClassesAgree (run task1) := by
  intro c
  by_cases h : c = 0
  · subst h; constructor <;> intro t ht <;> simp [getCore, run, tgetD, tget] at ht; simp [← ht, task1]
  · have : getCore (run task1) c = {} := by
      simp only [getCore, run, tgetD, tget]
      split <;> simp_all
    simp [this]

/-- A step of a run that the invariants speak of. -/
theorem wit_step : ∃ t, step { up with pending := [.nop 0] } = .next t := ⟨_, rfl⟩

theorem issue_run (t : Task) (j : Job) (h : taskIssues t = true) (h1 : t.job = 1) (h2 : j.failed = none) :
    issueCtx (run t j) 0 = some (ctxOf t j) := by
  simp [issueCtx, run, getCore, tgetD, tget, coreOpen, issuingLc, h, h1, h2, ctxOf]

theorem task_run (t : Task) (j : Job) (h : t.lc = false) : getTask (run t j) 0 t.lc = some t := by
  simp [getTask, getCore, run, tgetD, tget, h]

/-- The words are ready in the state: what SeqReady asks. -/
theorem ready_of (t : Task) (j : Job) (op : BitVec 8) (ws : List Body)
    (h : (taskIssues t && decide (t.job = 1) && !t.lc && j.failed.isNone
      && ws.all fun b => !ixStalls t op b && decide (field b 112 3 = 0) && !wiBit b) = true) :
    ∀ b ∈ ws, SeqReady (run t j) 0 (ctxOf t j) op b := by
  simp only [Bool.and_eq_true, Bool.not_eq_true', decide_eq_true_eq, List.all_eq_true, Option.isNone_iff_eq_none] at h
  intro b hb
  have := h.2 b hb
  exact ⟨issue_run t j h.1.1.1.1 h.1.1.1.2 h.1.2, task_run t j h.1.1.2, this.1.1, this.1.2, this.2⟩

def seqTask : Task := withIx { task1 with sem := task1.sem.set 3 2 } [(1, 3), (2, 4), (3, 10), (4, 2 ^ 32 - 1), (5, 0), (6, 100)]

/-- LOOP with CIX, LIX, MODE, TARGET, IMM. -/
def loopW (cix lix mode tgt imm : Nat) : Body := word [(108, cix), (104, lix), (102, mode), (82, tgt), (50, imm)]

theorem wit_loop :
    (∀ b ∈ [word [(0, 1)], loopW 1 2 0 0 0, loopW 0 2 1 0 1, loopW 1 2 1 0 7, loopW 1 2 2 0 7, loopW 1 2 3 0 7, loopW 1 2 0 0 1,
        loopW 1 3 0 (2 ^ 20 - 2) 1, loopW 1 3 0 5 1, loopW 1 3 0 6 1, loopW 3 2 0 (2 ^ 20 - 3) (2 ^ 32 - 1)],
      SeqReady (run seqTask) 0 (ctxOf seqTask) 0xB0 b) ∧
    ((branchTarget (ctxOf seqTask) (field (loopW 1 3 0 (2 ^ 20 - 2) 1) 82 20) = 0
      ∧ branchTarget (ctxOf seqTask) (field (loopW 1 3 0 5 1) 82 20) = 7
      ∧ branchTarget (ctxOf seqTask) (field (loopW 1 3 0 6 1) 82 20) = 8
      ∧ branchTarget (ctxOf seqTask) (field (loopW 3 2 0 (2 ^ 20 - 3) (2 ^ 32 - 1)) 82 20) = -1)) :=
  ⟨ready_of _ _ _ _ (by decide +kernel), by decide +kernel⟩

/-- JMP with TARGET, C, CMP, AIX, BIX, END. -/
def jmpW (tgt c cmp a d e : Nat) : Body := word [(92, tgt), (91, c), (88, cmp), (84, a), (80, d), (79, e)]

theorem wit_jmp : ∀ b ∈ [word [(0, 1)], jmpW 0 1 4 1 2 0, jmpW 0 1 0 1 2 0, jmpW 5 1 1 1 2 0, jmpW 6 1 2 1 2 0,
      jmpW 5 1 3 2 1 1, jmpW (2 ^ 20 - 3) 0 0 0 0 0],
    SeqReady (run seqTask) 0 (ctxOf seqTask) 0xB1 b :=
  ready_of _ _ _ _ (by decide +kernel)

/-- SKIPL with TIX, LIX, PMAX, COUNT, TSIZE. -/
def skiplW (tix lix pmax count tsize : Nat) : Body := word [(108, tix), (104, lix), (84, pmax), (68, count), (52, tsize)]

theorem wit_skipl :
    (∀ b ∈ [skiplW 1 2 100 3 2, skiplW 5 2 100 3 2, skiplW 1 2 4 3 1, skiplW 1 4 100 3 1, skiplW 1 5 100 3 1, skiplW 1 6 2 3 1],
      SeqReady (run seqTask) 0 (ctxOf seqTask) 0xB2 b) ∧
    -- a tile at the length (3 × 2 ≥ 4), one below it, the length at PMAX, then below 0, 0 and above PMAX
    ixVal seqTask.ix 2 ≤ ixVal seqTask.ix 1 * 2 ∧ ixVal seqTask.ix 5 * 2 < ixVal seqTask.ix 2 ∧ ixVal seqTask.ix 2 = 4
      ∧ ixVal seqTask.ix 4 = -1 ∧ ixVal seqTask.ix 5 = 0 ∧ (2 : Int) < ixVal seqTask.ix 6 ∧ 2 ≤ ixVal seqTask.ix 1 * 1 :=
  ⟨ready_of _ _ _ _ (by decide +kernel), by decide +kernel⟩
/-- A task with td0 a counter word of job memory. -/
def cntTask : Task := withTd seqTask [tile 1 0xB 0x10000 1 1 4]

/-- CNTA with DIX, LIMIX, INC, EXIT. -/
def cntaW (dix limix inc exit : Nat) : Body := word [(94, dix), (90, limix), (74, inc), (54, exit)]

theorem wit_cnta :
    (∀ b ∈ [cntaW 0 1 1 0, cntaW 2 1 1 0, cntaW 2 5 1 5, cntaW 2 5 65535 (2 ^ 20 - 2)],
      SeqReady (run cntTask) 0 (ctxOf cntTask) 0x81 b) ∧
    (counterVa (ctxOf cntTask) (cntaW 2 5 1 5) 98).toOption = some 0x10000 ∧
    ((memAdd32 (run cntTask) 1 0x10000 1).toOption.map (·.1)) = some 0 ∧
    toSigned 32 0 < ixVal cntTask.ix 1 ∧ ixVal cntTask.ix 5 ≤ toSigned 32 0
      ∧ branchTarget (ctxOf cntTask) (field (cntaW 2 5 1 5) 54 20) = 7
      ∧ branchTarget (ctxOf cntTask) (field (cntaW 2 5 65535 (2 ^ 20 - 2)) 54 20) = 0 :=
  ⟨ready_of _ _ _ _ (by decide +kernel), by decide +kernel⟩

/-- WAIT and SIG with MEM, SEM, COUNT, CTR's descriptor, VIX. -/
def waitW (mem sem count vix : Nat) : Body := word [(111, mem), (107, sem), (91, count), (73, vix)]

theorem wit_wait :
    (∀ b ∈ [waitW 0 3 2 0, waitW 0 3 3 0, waitW 1 0 0 5, waitW 1 0 0 1, waitW 0 0 1 0], SeqReady (run cntTask) 0 (ctxOf cntTask) 0xA0 b) ∧
    (cntTask.sem.getD 3 0).toNat = 2 ∧ (counterVa (ctxOf cntTask) (waitW 1 0 0 5) 77).toOption = some 0x10000 ∧
    (counterAt (run cntTask) 1 0x10000).toOption = some 0 ∧ ixVal cntTask.ix 5 ≤ 0 ∧ 0 < ixVal cntTask.ix 1 :=
  ⟨ready_of _ _ _ _ (by decide +kernel), by decide +kernel⟩

theorem wit_sig :
    (∀ b ∈ [waitW 0 3 7 0, waitW 1 0 7 0], SeqReady (run cntTask) 0 (ctxOf cntTask) 0xA1 b) ∧ quiet cntTask = true ∧
    field (waitW 0 3 7 0) 0 77 = 0 ∧ (counterVa (ctxOf cntTask) (waitW 1 0 7 0) 77).toOption = some 0x10000 :=
  ⟨ready_of _ _ _ _ (by decide +kernel), by decide +kernel⟩

def busyEntry : QEntry := { uid := 1, pc := 1, op := 0x01, body := 0, ix := Vector.replicate 16 0, started := true }
def busyTask : Task := { cntTask with fq := [busyEntry] }

theorem wit_bar :
    (∀ b ∈ [word [(108, 1), (92, 2)]], SeqReady (run cntTask) 0 (ctxOf cntTask) 0xA2 b) ∧ quiet cntTask = true ∧
    (∀ b ∈ [word [(108, 1), (92, 2)]], SeqReady (run busyTask) 0 (ctxOf busyTask) 0xA2 b) ∧ quiet busyTask = false :=
  ⟨ready_of _ _ _ _ (by decide +kernel), by decide +kernel, ready_of _ _ _ _ (by decide +kernel), by decide +kernel⟩

theorem wit_unassigned : issueCtx (run task1) 0 = some (ctxOf task1) ∧ opcodesOfTable.contains 0x00 = false
    ∧ opcodesOfTable.contains 0xFF = false ∧ opcodesOfTable.contains 0x05 = false ∧ opcodesOfTable.contains 0x01 = true :=
  ⟨issue_run _ _ rfl rfl rfl, by decide⟩

/-- Words of opcodes 0x10, 0xC1 with TRUNC and without, and 0xFF (R112, R143). -/
theorem wit_opcode :
    (((0x10 : BitVec 8) ++ (0 : BitVec 120)).extractLsb' 120 8).toNat = 0x10 ∧
    (((0xC1 : BitVec 8) ++ (1 : BitVec 120) <<< 107).extractLsb' 120 8).toNat = 0xC1 ∧
    ((0xC1 : BitVec 8) ++ (1 : BitVec 120) <<< 107).getLsbD 107 = true ∧
    opcodesOfTable.contains (((0xFF : BitVec 8) ++ (0 : BitVec 120)).extractLsb' 120 8) = false := by decide +kernel

/-- The task stands in a body that is being skipped. -/
def skipTask (zero : Bool) : Task := { cntTask with skips := [{ lo := 2, hi := 4, zero := zero }] }

theorem wit_passOver : issueCtx (run (skipTask false)) 0 = some (ctxOf (skipTask false)) ∧
    (liveSkips (skipTask false)).isEmpty = false ∧ (engineOf 0x10).isSome = true ∧ wiBit (word [(115, 1)]) = true ∧
    (liveSkips (skipTask false)).all (·.zero) = false ∧ wiBit (word []) = false :=
  ⟨issue_run _ _ (by decide +kernel) rfl rfl, by decide +kernel⟩
/-! ### The instructions of the two engines -/

/-- What StartsAtOnce asks of an instruction in a state, but for the decoration of its parts, the engine's queue being
empty. -/
def starts (form : Instr → Option (CoreNo × Body × EngineForm)) (i : Instr) (t : Task) (j : Job) (s : State) : Bool :=
  match form i with
  | none => false
  | some (c, b, f) =>
    let x := ctxOf t j
    c = 0 && taskIssues t && t.job = 1 && !t.lc && j.failed.isNone && (liveSkips t).isEmpty
      && !ixStalls t f.op b && field b 112 3 = 0
      && (!wiBit b || f.wiOk) && f.good && (f.look x).isOk && (queueOf t f.exe).isEmpty &&
    match issueLook f.effect x (issuedEntry s x b f) s with
    | .error _ => false
    | .ok e =>
      let q := queuedState s x f.exe e
      match entryCtx q c t.lc e with
      | none => false
      | some x1 =>
        let touches := opTouches x1 e.op e.body
        match f.effect x1 e q with
        | .error _ => false
        | .ok r => r.hold ≠ .carousel && r.hold ≠ .commits && !(getCore q 0).rampDue
            && holdOf x1 f.exe [] e.uid touches.1 touches.2 = .none
            && holdOf x1 f.exe [] e.uid (r.reads ++ touches.1) (r.writes ++ touches.2) = .none

/-- A core's task, and the state around it. -/
def runs (s : State) (t : Task) (j : Job) : Prop := issueCtx s 0 = some (ctxOf t j) ∧ getTask s 0 t.lc = some t

theorem runs_run (t : Task) (j : Job) (h : taskIssues t = true) (h1 : t.job = 1) (h2 : j.failed = none) (h3 : t.lc = false) :
    runs (run t j) t j := ⟨issue_run t j h h1 h2, task_run t j h3⟩

/-- All hypotheses of StartsAtOnce hold together. -/
def Begins (form : Instr → Option (CoreNo × Body × EngineForm)) : Prop :=
  ∃ (s : State) (i : Instr) (x x1 : Ctx) (c : CoreNo) (b : Body) (f : EngineForm) (e : QEntry) (r : Eff),
    form i = some (c, b, f) ∧ IssueReady s c x b f ∧ issueLook f.effect x (issuedEntry s x b f) s = .ok e ∧
    entryCtx (queuedState s x f.exe e) c x.task.lc e = some x1 ∧ NothingHolds (queuedState s x f.exe e) x x1 f e ∧
    f.effect x1 e (queuedState s x f.exe e) = .ok r ∧ r.hold ≠ .carousel ∧ r.hold ≠ .commits ∧
    holdOf x1 f.exe (queueOf x.task f.exe) e.uid (r.reads ++ (opTouches x1 e.op e.body).1)
      (r.writes ++ (opTouches x1 e.op e.body).2) = .none

/-- They do where `starts` says so. -/
theorem wit_starts (form : Instr → Option (CoreNo × Body × EngineForm)) (i : Instr) (t : Task) (j : Job) (s : State)
    (hr : runs s t j) (h : starts form i t j s = true) : Begins form := by
  unfold starts at h
  split at h
  · cases h
  · rename_i c b f hf
    simp only [Bool.and_eq_true, Bool.or_eq_true, decide_eq_true_eq, Bool.not_eq_true'] at h
    obtain ⟨⟨⟨⟨⟨⟨⟨⟨⟨⟨⟨⟨hc, -⟩, -⟩, -⟩, -⟩, hk⟩, hx⟩, hb⟩, hw⟩, hg⟩, hl⟩, hq⟩, h⟩ := h
    rw [List.isEmpty_iff] at hq
    split at h
    · cases h
    · rename_i e he
      split at h
      · cases h
      · rename_i x1 hx1
        split at h
        · cases h
        · rename_i r hr1
          simp only [Bool.and_eq_true, decide_eq_true_eq, Bool.not_eq_true'] at h
          obtain ⟨⟨⟨⟨h1, h2⟩, h3⟩, h4⟩, h5⟩ := h
          subst hc
          have cap : (queueOf t f.exe).length < queueCap t.lc f.exe := by
            rw [hq]; simp only [queueCap]; repeat' split
            all_goals decide
          have look : f.look (ctxOf t j) = .ok () := by
            revert hl; cases f.look (ctxOf t j) <;> simp [Except.isOk, Except.toBool]
          refine ⟨s, i, ctxOf t j, x1, 0, b, f, e, r, hf, ⟨hr.1, hr.2, List.isEmpty_iff.mp hk, cap, hx, hb, ?_, hg, look⟩,
            he, hx1, ⟨?_, ?_, ?_, ?_⟩, hr1, h1, h2, ?_⟩
          · intro hwi
            rcases hw with hw | hw
            · simp [hw] at hwi
            · exact hw
          · show (queueOf t f.exe).all _ = true; rw [hq]; rfl
          · intro _ q hm
            have : q ∈ queueOf t f.exe := hm
            rw [hq] at this; cases this
          · intro _ _; exact h3
          · show holdOf x1 f.exe (queueOf t f.exe) _ _ _ = _; rw [hq]; exact h4
          · show holdOf x1 f.exe (queueOf t f.exe) _ _ _ = _; rw [hq]; exact h5

theorem starts_task (form : Instr → Option (CoreNo × Body × EngineForm)) (i : Instr) (t : Task) (j : Job) (s : State)
    (h : starts form i t j s = true) : taskIssues t = true ∧ t.job = 1 ∧ j.failed = none ∧ t.lc = false := by
  unfold starts at h
  split at h
  · cases h
  · simp only [Bool.and_eq_true, decide_eq_true_eq, Bool.not_eq_true', Option.isNone_iff_eq_none] at h
    exact ⟨h.1.1.1.1.1.1.1.1.1.1.1.2, h.1.1.1.1.1.1.1.1.1.1.2, h.1.1.1.1.1.1.1.1.2, h.1.1.1.1.1.1.1.1.1.2⟩
/-- Descriptors: scratchpad and job memory tensors of one tile, and a window of one tap over 2 × 1 × 1 inputs. -/
def scr (fmt base rows cols pitch : Nat) : BitVec 256 := tile 0 fmt base rows cols pitch
def jm (fmt base rows cols pitch : Nat) : BitVec 256 := tile 1 fmt base rows cols pitch
def win1 : BitVec 256 := BitVec.ofNat 256 (3 * 2 ^ 252 + 2 ^ 247 + 2 ^ 234 + 2 ^ 229 + 2 ^ 224 + 2 ^ 216 + 2 ^ 208 + 2 ^ 200
  + 2 ^ 192 + 2 ^ 184 + 2 ^ 176 + 2 * 2 ^ 112 + 2 ^ 96 + 2 ^ 80 + 16 * 2 ^ 40)

/-- Operand specifiers, operand 1 first, each a descriptor number. -/
def ops (ns : List Nat) : List (Nat × Nat) := ns.zipIdx.map fun n => (98 + 8 - 14 * n.2, n.1)

/-- The instruction `i c word` on core 0, the task holding the descriptors. -/
def begins (form : Instr → Option (CoreNo × Body × EngineForm)) (i : CoreNo → Body → Instr) (fs : List (Nat × Nat))
    (ds : List (BitVec 256)) (t : Task := withIx task1 [(5, 1)]) (s : State → State := id) (j : Job := job1) : Bool :=
  starts form (i 0 (word fs)) (withTd t ds) j (s (run (withTd t ds) j))

def i8s : List (BitVec 256) := [scr 6 0 2 2 16, jm 6 0x10000 2 2 16, scr 11 64 2 1 4]

theorem wit_ldt : begins fetchForm .ldt (ops [0, 1]) i8s = true := by decide +kernel
theorem wit_stt : begins fetchForm .stt (ops [1, 0]) i8s = true := by decide +kernel
theorem wit_gath : begins fetchForm .gath (ops [0, 1, 2]) i8s = true := by decide +kernel
theorem wit_scat : begins fetchForm .scat (ops [1, 0, 2]) i8s = true := by decide +kernel
theorem wit_win : begins fetchForm .win ((78, 3) :: ops [1, 0]) (i8s ++ [win1]) = true := by decide +kernel
theorem wit_madd : begins fetchForm .madd ((68, 1) :: ops [1, 0, 2])
    [scr 11 0 1 2 16, jm 11 0x10000 1 2 16, scr 11 64 1 2 16] = true := by decide +kernel

/-- Job 1 has group 0 with the one future 0 × 2²¹ + 0. -/
def jobG : Job := { job1 with group := some 0 }
def withGroup (s : State) : State :=
  { s with groups := [(0, { home := 0, lc := false, maxF := 4, futures := [(0, { state := .inBatch, lens := [0], dirs := [[]] })]
                            batch := [0] })] }

theorem wit_fork : begins fetchForm .fork [(108, 1), (104, 5)] [] task1 withGroup jobG = true := by decide +kernel
theorem wit_drop : begins fetchForm .drop [(108, 1)] [] task1 withGroup jobG = true := by decide +kernel
theorem wit_dropTrunc : begins fetchForm .dropTrunc [(108, 1), (107, 1)] [] task1 withGroup jobG = true := by decide +kernel

def bf (base rows cols : Nat) : BitVec 256 := scr 1 base rows cols (cols * 2)
def f32 (base rows cols : Nat) : BitVec 256 := scr 0 base rows cols (cols * 4)

theorem wit_mma : begins computeForm (.mma · · none) (ops [0, 1, 0, 2]) [bf 0 8 16, bf 256 8 16, f32 512 8 8] = true := by
  decide +kernel
theorem wit_mmax : begins computeForm (.mmax · · none) (ops [0, 1, 2, 1, 0, 3])
    [scr 8 0 8 64 32, scr 13 256 8 2 2, scr 8 512 8 64 32, f32 1024 8 8] = true := by decide +kernel
theorem wit_ewu : begins computeForm (.ewu · · none) (ops [0, 1]) [bf 0 1 2, f32 16 1 2] = true := by decide +kernel
theorem wit_ewb : begins computeForm .ewb (ops [0, 0, 1]) [bf 0 1 2, f32 16 1 2] = true := by decide +kernel
theorem wit_act : begins computeForm (.act · · none) ((80, 1) :: ops [0, 1]) [bf 0 1 2, f32 16 1 2] = true := by decide +kernel
theorem wit_pool : begins computeForm .pool ((78, 2) :: ops [0, 1]) [bf 0 2 2, bf 16 2 2, win1] = true := by decide +kernel
theorem wit_cvt : begins computeForm .cvt (ops [0, 1]) [bf 0 1 2, f32 16 1 2] = true := by decide +kernel

theorem wit_atts : begins sequenceForm (.atts · · none) (ops [0, 1, 2, 3])
    [bf 0 8 16, bf 256 16 16, bf 768 8 16, f32 1024 8 8] = true := by decide +kernel
theorem wit_attv : begins sequenceForm (.attv · · none) (ops [0, 1, 2, 3])
    [bf 0 8 16, bf 256 16 16, f32 768 8 16, f32 2048 8 8] = true := by decide +kernel
theorem wit_scan : begins sequenceForm .scan ((52, 5) :: ops [0, 1, 2, 3])
    [bf 0 1 1, f32 16 1 25, f32 128 1 16, bf 256 1 1] = true := by decide +kernel
theorem wit_lconv : begins sequenceForm .lconv ((52, 5) :: (50, 1) :: ops [0, 1, 2, 3])
    [bf 0 1 1, f32 16 1 25, f32 128 1 16, bf 256 1 1] = true := by decide +kernel
theorem wit_route : begins sequenceForm (.route · · none) ((52, 1) :: (46, 5) :: ops [0, 1, 2, 3])
    [bf 0 1 2, scr 11 16 1 2 8, f32 32 1 1, jm 11 0x10000 1 2 8] = true := by decide +kernel
theorem wit_comb : begins sequenceForm (.comb · · []) (ops [0, 1, 2, 3])
    [bf 0 2 2, scr 11 16 1 2 8, f32 32 1 1, f32 48 1 2] = true := by decide +kernel
theorem wit_boxd : begins sequenceForm (.boxd · · none) (ops [0, 0, 1]) [bf 0 1 4, f32 16 1 4] = true := by decide +kernel
theorem wit_nms : begins sequenceForm .nms ((2, 5) :: ops [0, 1, 2]) [bf 0 1 4, f32 16 1 1, scr 11 32 1 1 4] = true := by
  decide +kernel

/-- The witnesses above meet all hypotheses of StartsAtOnce. -/
theorem wit_begins (form : Instr → Option (CoreNo × Body × EngineForm)) (i : CoreNo → Body → Instr) (fs : List (Nat × Nat))
    (ds : List (BitVec 256)) (t : Task) (f : State → State) (j : Job) (hf : f = id ∨ f = withGroup)
    (h : begins form i fs ds t f j = true) : Begins form := by
  obtain ⟨h1, h2, h3, h4⟩ := starts_task _ _ _ _ _ h
  have hr : runs (f (run (withTd t ds) j)) (withTd t ds) j := by
    have := runs_run (withTd t ds) j h1 h2 h3 h4
    rcases hf with rfl | rfl
    · exact this
    · exact this
  exact wit_starts form _ _ _ _ hr h
/-! ### Queues, held instructions, waits -/

theorem ok_of {ε α : Type} {r : Except ε α} (h : r.toOption.isSome = true) : ∃ a, r = .ok a := by
  cases r with
  | ok a => exact ⟨a, rfl⟩
  | error e => cases h

def ewuWord : Body := word (ops [0, 1])
def ewuDs : List (BitVec 256) := [bf 0 1 2, f32 16 1 2]
def held (op : BitVec 8) (b : Body) : QEntry := { uid := 1, pc := 1, op := op, body := b, ix := Vector.replicate 16 0 }
def ewuForm : EngineForm :=
  { exe := true, op := 0x20, good := true, effect := ewuEffect }

/-- A waiting entry in the execute queue; and a queue of 16. -/
def behind (n : Nat) : Task := { withTd task1 ewuDs with eq := List.replicate n (held 0x20 ewuWord) }

theorem ewu_form : ∃ f, engineForms (.ewu 0 ewuWord none) = some (0, ewuWord, f) ∧ f.exe = true ∧ f.op = 0x20
    ∧ f.good = true ∧ f.effect = ewuEffect ∧ f.fault = none ∧ f.order = [] ∧ f.look (ctxOf (behind 1)) = .ok () :=
  ⟨_, rfl, rfl, rfl, by decide +kernel, rfl, rfl, rfl, rfl⟩

theorem wit_inOrder : ∃ f e, engineForms (.ewu 0 ewuWord none) = some (0, ewuWord, f) ∧
    IssueReady (run (behind 1)) 0 (ctxOf (behind 1)) ewuWord f ∧
    (queueOf (behind 1) f.exe).any (fun q => !q.started) = true ∧
    issueLook f.effect (ctxOf (behind 1)) (issuedEntry (run (behind 1)) (ctxOf (behind 1)) ewuWord f) (run (behind 1)) = .ok e := by
  obtain ⟨e, he⟩ := ok_of (r := issueLook ewuEffect (ctxOf (behind 1))
    { uid := (run (behind 1)).seq, pc := 2, op := 0x20, body := ewuWord, ix := task1.ix } (run (behind 1))) (by decide +kernel)
  obtain ⟨f, hf, h1, h2, h3, h4, h5, h6, h7⟩ := ewu_form
  refine ⟨f, e, hf, ⟨issue_run _ _ rfl rfl rfl, task_run _ _ rfl, by decide +kernel, by rw [h1]; decide +kernel,
    by rw [h2]; decide +kernel, by decide +kernel, fun h => absurd h (by decide +kernel), h3, h7⟩, by rw [h1]; decide +kernel, ?_⟩
  rw [h4]
  simp only [issuedEntry, h2, h5, h6]
  exact he

/-- A full queue holds issue; a common reserved bit ends the job. -/
theorem wit_full : (∃ f, engineForms (.ewu 0 ewuWord none) = some (0, ewuWord, f) ∧ f.good = true ∧
      queueCap (behind 16).lc f.exe ≤ (queueOf (behind 16) f.exe).length) ∧
    runs (run (behind 16)) (behind 16) job1 :=
  let ⟨f, hf, h1, _, h3, _⟩ := ewu_form
  ⟨⟨f, hf, h3, by rw [h1]; decide +kernel⟩, runs_run _ _ rfl rfl rfl rfl⟩

def resWord : Body := word ((112, 1) :: ops [0, 1])
theorem wit_reserved : (∃ f, engineForms (.ewu 0 resWord none) = some (0, resWord, f) ∧ f.good = true ∧
      (queueOf (behind 0) f.exe).length < queueCap (behind 0).lc f.exe ∧ ixStalls (behind 0) f.op resWord = false) ∧
    runs (run (behind 0)) (behind 0) job1 ∧ liveSkips (behind 0) = [] ∧ field resWord 112 3 ≠ 0 :=
  ⟨⟨_, rfl, by decide +kernel, by decide +kernel, by decide +kernel⟩, runs_run _ _ rfl rfl rfl rfl, by decide +kernel, by decide +kernel⟩

/-- A started STT whose segments are done, and one with a segment left. -/
def doneTask : Task := { task1 with fq := [{ held 0x02 0 with started := true }] }
def segTask : Task := { task1 with fq := [{ held 0x02 0 with started := true, segs := [{ cls := .write, left := 1 }] }] }

theorem wit_retire :
    getTask (run doneTask) 0 false = some doneTask ∧ (queueOf doneTask false)[0]? = doneTask.fq.head? ∧
    tget (run doneTask).jobs 1 = some job1 ∧ doneTask.fq.all entryDone = true ∧
    doneTask.fq.all (mcastDone (run doneTask) job1) = true ∧
    (doneTask.fq.map fun e => nextEntry (retireEntry (run doneTask) 0 false false 0 e) 0 false true) = [none] ∧
    getTask (run segTask) 0 false = some segTask ∧ segTask.fq.all (·.started) = true ∧
    (getCore (run segTask) 0).lcHas = false ∧ ((segTask.fq.take 0).map (clsLeft .write)).sum < slotsOfClass segTask .write ∧
    (segTask.fq.map fun e => (takeSeg .write false e.segs).isSome) = [true] := by decide +kernel

/-- A fetch instruction that was held for a hazard, and one that waited for its carousel neighbours. -/
def heldTask (h : Hold) : Task :=
  { withTd task1 i8s with fq := [{ held 0x02 (word (ops [1, 0])) with hold := h }] }

theorem spill_run (t : Task) (h : t.lc = false) : ∀ q, (getCore (run t) q).spill = none := by
  intro q
  simp only [getCore, run, tgetD, tget]
  split <;> simp_all

theorem wit_held : ∀ h ∈ [Hold.hazard, Hold.carousel], mayStart (run (heldTask h)) 0 false = true ∧
    ((nextEntry (run (heldTask h)) 0 false false).map (·.2.hold)) = some h ∧
    (startEntry (run (heldTask h)) 0 false false 0).2 = true ∧
    nextEntry (startEntry (run (heldTask h)) 0 false false 0).1 0 false false = none := by decide +kernel

/-- A SIG add under way; WAITs on a counter word at 0, held by a controller and not; a wait that has just reached its
bound. -/
def waits (w : Blocked) (since : Nat) : Task :=
  { cntTask with blocked := some w, since := since, sigAdds := [(0x10000, 7, 3, 1)] }

theorem wit_counterWaits :
    getTask (run (waits (.watch 0x10000 0 true true) 0)) 0 false = some (waits (.watch 0x10000 0 true true) 0) ∧
    (memAdd32 (updTask (run (waits (.sem 3 5) 0)) 0 false fun t => { t with sigAdds := [] }) 1 0x10000 7).toOption.isSome = true ∧
    (waits (.watch 0x10000 0 true true) 0).blocked = some (.watch 0x10000 0 true true) ∧
    (waits (.watch 0x10000 0 false false) 0).blocked = some (.watch 0x10000 0 false false) ∧
    max (waits (.watch 0x10000 0 false false) 0).pollNs 0 + 2000 ≤ up.nowNs ∧
    up.nowNs < max (waits (.watch 0x10000 0 false false) up.nowNs).pollNs up.nowNs + 2000 ∧
    (counterAt (run (waits (.watch 0x10000 0 false false) 0)) 1 0x10000).toOption = some 0 ∧
    (counterAt (run (waits (.watch 0x10000 1 false false) 0)) 1 0x10000).toOption = some 0 ∧
    bounded (waits (.sem 3 5) 0).blocked = true ∧
    cntTask.timeout * 1000 < up.nowNs - (waits (.sem 3 5) 3999999999).since ∧
    up.nowNs - (waits (.sem 3 5) 4000000000).since ≤ cntTask.timeout * 1000 := by decide +kernel
/-! ### Slots, streams, multicast, identity writes, the scrub -/

def slot0 (st : SlotState) (landed : Nat) (wanted : Bool) : Slot :=
  { sbase := 0, record := 0x10000, ns := 8, channels := 1, anchorN := 0, hist := 0, anchor := 0, state := st, landed := landed
    wanted := wanted }
def slotTask (sl : Slot) (busy : Bool) : Task :=
  { task1 with states := [sl], eq := if busy then [{ held 0x50 0 with started := true, slots := [0] }] else [] }

/-- An LC task on core 0 alone. -/
def lcTask (sl : Slot) : Task := { task1 with lc := true, states := [sl], eq := [{ held 0x50 0 with hold := .slot 0 }] }
def jobLc : Job := { job1 with lc := true, footKib := 8 }
def runLc (t : Task) (j : Job) : State :=
  { up with jobs := [(1, j)], cores := [(0, { lc := some t })], aspaces := spaceOf [(1, { tier := 2, frame := 5 })] }

theorem wit_slots :
    (∀ sl ∈ [slot0 .swapped 1 false, slot0 .out 1 false, slot0 .resident 1 false, slot0 .out 0 true],
      slotAt (run (slotTask sl false)) 0 false 0 = some (slotTask sl false, job1, sl)) ∧
    (slot0 .resident 1 false).trigger = none ∧ slotBusy (slotTask (slot0 .out 0 true) false) 0 = false ∧
    (swapOut (run (slotTask (slot0 .out 0 true) false)) 0 false 0).toOption.isSome = true ∧
    slotAt (run (slotTask (slot0 .out 0 true) true)) 0 false 0
      = some (slotTask (slot0 .out 0 true) true, job1, slot0 .out 0 true) ∧
    slotBusy (slotTask (slot0 .out 0 true) true) 0 = true ∧
    slotAt (runLc (lcTask (slot0 .swapped 0 false)) jobLc) 0 true 0
      = some (lcTask (slot0 .swapped 0 false), jobLc, slot0 .swapped 0 false) ∧
    (triggerOf (runLc (lcTask (slot0 .swapped 0 false)) jobLc) 0 true 0).isSome = true ∧
    slotAt (runLc (lcTask (slot0 .inn 0 false)) jobLc) 0 true 0
      = some (lcTask (slot0 .inn 0 false), jobLc, slot0 .inn 0 false) ∧
    (swapIn (runLc (lcTask (slot0 .inn 0 false)) jobLc) 0 true 0).toOption.isSome = true := by decide +kernel

/-- An LDT on stream 2 has become the running one and is still to start. -/
def shadowTask : Task :=
  { withTd task1 i8s with fq := [{ held 0x01 (word (ops [0, 1])) with started := true, hold := .shadow }]
                          ctxs := (Vector.replicate 8 {}).set 2 { running := some 1 } }

/-- The sender of multicast group 1, of one member, has its one block to fetch. -/
def mcJob : Job := { job1 with groups := [(1, { kind := 1, first := 0, count := 1, stride := 1 })] }
def mcTask : Task :=
  { withTd task1 i8s with fq := [{ held 0x01 (word (ops [0, 1])) with
      started := true, mcast := some { group := 1, nth := 0, sender := true, blocks := 1 } }] }

theorem wit_streams :
    getTask (run shadowTask) 0 false = some shadowTask ∧ mayStart (run shadowTask) 0 false = true ∧
    (shadowTask.ctxs[2]).running = some 1 ∧ shadowTask.fq.findIdx? (fun q => q.uid = 1 && q.hold = .shadow) = some 0 ∧
    (shadowTask.fq.map fun e => match entryCtx (run shadowTask) 0 false e with
      | some x => (promote x e (run shadowTask)).toOption.isSome
      | none => false) = [true] := by decide +kernel

theorem wit_multicast :
    tget (run mcTask mcJob).jobs 1 = some mcJob ∧ (tget mcJob.groups 1).isSome = true ∧
    getTask (run mcTask mcJob) 0 mcJob.lc = some mcTask ∧
    ((tget mcJob.groups 1).map fun g => memberCore mcJob g 0) = some 0 ∧
    (mcTask.fq.map fun e => match e.mcast, tget mcJob.groups 1 with
      | some m, some g => m.got < m.blocks && e.started && e.hold = .none
          && (mcastFetch (run mcTask mcJob) 1 mcJob 1 g 0 e m).toOption.isSome
      | _, _ => false) = [true] := by decide +kernel

/-- POOL with WI = 1 in a body skipped at length zero, behind an entry that waits. -/
def identTask : Task :=
  { withTd (skipTask true) [bf 0 2 2, bf 16 2 2, win1] with eq := [held 0x20 ewuWord] }
def identBody : Body := word ((115, 1) :: (78, 2) :: ops [0, 1])

theorem wit_identity :
    issueCtx (run identTask) 0 = some (ctxOf identTask) ∧ getTask (run identTask) 0 false = some identTask ∧
    engineOf 0x31 = some true ∧ (effectOf 0x31).isSome = true ∧ (liveSkips identTask).isEmpty = false ∧
    (liveSkips identTask).all (·.zero) = true ∧ wiBit identBody = true ∧ mayWi 0x31 identBody = true ∧
    field identBody 112 3 = 0 ∧ (identWord 0x31 identBody (ctxOf identTask)).toOption.isSome = true ∧
    (queueOf identTask true).length < queueCap identTask.lc true ∧ ixStalls identTask 0x31 identBody = false ∧
    (queueOf identTask true).any (fun q => !q.started) = true ∧
    (issueLook poolEffect (ctxOf identTask) { uid := (run identTask).seq, pc := 2, op := 0x31, body := identBody
                                              ix := task1.ix, ident := true } (run identTask)).toOption.isSome = true :=
  ⟨issue_run _ _ (by decide +kernel) rfl rfl, by decide +kernel⟩

theorem wit_scrub : up.scratchUE.contains ((scratchBase 0 + 8 * 0) / 8) = false := by decide +kernel
/-! ### Jobs, preemption, clusters -/

def cmdOf (op : Nat) (fs : List (Nat × Nat)) : Cmd := { ring := 1, tag := 1, irq := false, op := op, entry := entry fs }
def withCmd (s : State) (op : Nat) (fs : List (Nat × Nat)) : State := { s with cmds := [(1, cmdOf op fs)] }

/-- A job that waits: mapped whole, or asking for no core. -/
def waitJob (n : Nat) : Job :=
  { job1 with state := .waiting, cores := [], ncores := n, progBase := 0x10000, seqImage := 0x10400 }
def waitState (n : Nat) : State := { run task1 with jobs := [(1, waitJob n)], cores := [] }

def placed : Job := { waitJob 1 with state := .placed, cores := [0] }
def freshTask : Task := { job := 1, lc := false, rank := 0 }
def endedTask : Task := { task1 with ended := true }

theorem wit_job :
    cmdReady (withCmd up 1 [(479, 1)]) 1 1 = some (cmdOf 1 [(479, 1)]) ∧ (cmdOf 1 [(479, 1)]).started = false ∧
    (withCmd up 1 [(479, 1)]).pins.quench = false ∧ (jobOf 1 (cmdOf 1 [(479, 1)])).lc = true := by decide +kernel

theorem wit_dispatch :
    (∀ n ∈ [0, 1], tget (waitState n).jobs 1 = some (waitJob n) ∧ (waitState n).hub.pause = false ∧
      ringHeld (waitState n) 1 = false ∧ isAside (waitState n) (waitJob n) = false ∧ isTurn (waitState n) 1 (waitJob n) = true) ∧
    (dispatchCheck (waitState 0) (waitJob 0)).isSome = true ∧ dispatchCheck (waitState 1) (waitJob 1) = none ∧
    recordsClosed (waitState 1) (waitJob 1) = true ∧ imagoHolds (waitState 1) (waitJob 1) = false ∧
    (placeJob (waitState 1) (waitJob 1)).isSome = true := by decide +kernel

theorem wit_jobStart :
    tget (run freshTask placed).jobs 1 = some placed ∧ placed.cores.find? (coreReady (run freshTask placed) 1 placed) = some 0 ∧
    (match loadImage (run freshTask placed) 0 placed with
     | .ok img => (match startCheck (run freshTask placed) placed img with
       | .ok (g, cst) => (startCores (updJob (run freshTask placed) 1 fun j =>
           { j with groups := g, cst := cst, state := .running }) 1 placed).toOption.isSome
       | .error _ => false)
     | .error _ => false) = true ∧
    tget (run endedTask).jobs 1 = some job1 ∧ job1.interrupted = none ∧ allEnded (run endedTask) 1 job1 = true := by
  decide +kernel

/-- Core 0 with both tasks, and with a spill. -/
def both (l : Task) (taken : Bool) (sp : Option Spilled := none) (foot : Nat := 8) : State :=
  { up with jobs := [(1, job1), (2, { jobLc with footKib := foot })]
            cores := [(0, { be := some task1, lc := some { l with job := 2, lc := true }, lcHas := taken, spill := sp })]
            aspaces := spaceOf [(1, { tier := 2, frame := 5 })] }
def spill1 (need : List Nat) (done : Bool) : Spilled := { ranges := [], vpn := 4, asid := 1, need := need, done := done }

theorem wit_preempt :
    ((getCore (both freshTask false) 0).lc.map fun l => (l.started, l.waiting)) = some (false, false) ∧
    (getCore (both freshTask false) 0).be = some task1 ∧ (getCore (both freshTask false) 0).lcHas = false ∧
    (getCore (both freshTask false) 0).ramp = false ∧
    (getCore (both endedTask true) 0).lcHas = true ∧ (getCore (both endedTask true) 0).be.isSome = true ∧
    (getCore (both endedTask true) 0).spill = none ∧ lcGone (getCore (both endedTask true) 0) = true ∧
    (getCore { up with cores := [(0, { ramp := true })] } 0).ramp = true := by decide +kernel

/-- An MMA at its issue, on a core whose ramp was cut short. -/
def cutTask : Task := withTd task1 [bf 0 8 16, bf 256 8 16, f32 512 8 8]
def cutState : State := { run cutTask with cores := [(0, { be := some cutTask, rampDue := true })] }
def mmaWord : Body := word (ops [0, 1, 0, 2])

theorem mma_form : ∃ f, engineForms (.mma 0 mmaWord none) = some (0, mmaWord, f) ∧ f.exe = true ∧ f.op = 0x10
    ∧ f.good = true ∧ f.effect = matEffect mmaIns ∧ f.fault = none ∧ f.order = [] ∧ f.look (ctxOf cutTask) = .ok () :=
  ⟨_, rfl, rfl, rfl, by decide +kernel, rfl, rfl, rfl, rfl⟩

theorem wit_cutRamp : ∃ f e x1, engineForms (.mma 0 mmaWord none) = some (0, mmaWord, f) ∧
    IssueReady cutState 0 (ctxOf cutTask) mmaWord f ∧ f.exe = true ∧ onQuad f.op = true ∧
    (queueOf cutTask true).all (·.started) = true ∧
    issueLook f.effect (ctxOf cutTask) (issuedEntry cutState (ctxOf cutTask) mmaWord f) cutState = .ok e ∧
    entryCtx (queuedState cutState (ctxOf cutTask) true e) 0 false e = some x1 ∧
    (∀ q ∈ queueOf cutTask true, ∀ n ∈ q.slots, n ∉ slotsTouched x1 (opTouches x1 e.op e.body).1) ∧
    (getCore (queuedState cutState (ctxOf cutTask) true e) 0).rampDue = true := by
  obtain ⟨e, he⟩ := ok_of (r := issueLook (matEffect mmaIns) (ctxOf cutTask)
    { uid := cutState.seq, pc := 2, op := 0x10, body := mmaWord, ix := task1.ix } cutState) (by decide +kernel)
  obtain ⟨f, hf, h1, h2, h3, h4, h5, h6, h7⟩ := mma_form
  refine ⟨f, e, _, hf, ⟨?_, ?_, by decide +kernel, by rw [h1]; decide +kernel, by rw [h2]; decide +kernel, by decide +kernel,
    fun h => absurd h (by decide +kernel), h3, h7⟩, h1, by rw [h2]; decide +kernel, by decide +kernel, ?_, rfl, ?_, rfl⟩
  · have : taskIssues cutTask = true := by decide +kernel
    have g : cutTask.job = 1 := rfl
    simp [issueCtx, cutState, run, getCore, tgetD, tget, coreOpen, issuingLc, this, g, job1, ctxOf]
  · rfl
  · rw [h4]; simp only [issuedEntry, h2, h5, h6]; exact he
  · intro q hq; exact absurd (show q ∈ cutTask.eq from hq) (by rw [show cutTask.eq = [] from by decide +kernel]; exact List.not_mem_nil)

/-- A footprint of 13 KiB a bank does not fit a reserve of 24 KiB. -/
theorem wit_spill :
    ((getCore (both freshTask true (some (spill1 [4] false)) 13) 0).lc.map fun l => (l.started, fits { jobLc with footKib := 13 } l))
      = some (false, false) ∧
    atBoundary task1 = true ∧ task1.states.all (fun sl => sl.state = .swapped) = true ∧
    (getCore (both freshTask true (some (spill1 [4] false)) 13) 0).spill = some (spill1 [4] false) ∧
    placeFor (both freshTask true (some (spill1 [4] false)) 13) (coreDie 0) 3 2 false = some (2, 0) ∧
    frameFits (both freshTask true (some (spill1 [4] false)) 13) 2 0 6 = true ∧
    (getCore (both freshTask true (some (spill1 [] false)) 13) 0).spill = some (spill1 [] false) ∧
    lcGone (getCore (both endedTask true (some (spill1 [] true)) 13) 0) = true ∧
    (match spillBack (both endedTask true (some (spill1 [] true)) 13) 0 (spill1 [] true) with
     | .ok s => (catchUpAll (resumeBe (dropSpill (chargeBack s 0 (spill1 [] true)) 0) 0) 1).toOption.isSome
     | .error _ => false) = true := by decide +kernel

def clu (k : Nat) (p : ClusterPower) (since : Nat) : State := { up with clusters := [(k, { power := p, since := since })] }

/-- Warm clusters of die 0 up to the reserve and one, the first idle since 0. -/
def warmState : State := { up with clusters := (List.range 16).map fun k => (k, { power := .warm }) }

theorem wit_clusters :
    dieUp (run task1) 0 = true ∧ clusterAlive (run task1) 0 = true ∧ clusterHolds (run task1) 0 = true ∧
    (getCluster (clu 0 .waking 0) 0).power = .waking ∧
    (getCluster warmState 15).power = .warm ∧ clusterHolds warmState 15 = false ∧
    setting warmState 0x3011 1 * 1000 ≤ warmState.nowNs - (getCluster warmState 15).since ∧
    setting warmState 0x3010 1 < countPower warmState 0 [.warm] ∧ (getCluster warmState 15).swap = none ∧
    (clusterCores 15).all (fun c => (tget warmState.cores c).isNone) = true ∧
    (getCluster (clu 0 .drying 0) 0).power = .drying ∧ (getCluster (clu 0 .drying 0) 0).pendingWake = false := by
  decide +kernel

/-- LC jobs whose deadline is 5,000,000 µs after the doorbell: now, and one microsecond ahead. -/
def deadJob (us : Nat) : Job := { job1 with lc := true, footKib := 8, fbEntry := 1, deadlineUs := us, armed := true, switchDue := true }

theorem wit_deadline :
    (∀ us ∈ [5000000, 5000001], tget (run task1 (deadJob us)).jobs 1 = some (deadJob us) ∧
      deadlineNs (deadJob us) < up.nowNs + setting (run task1 (deadJob us)) 0x3020 1 * 1000) ∧
    deadlineNs (deadJob 5000000) ≤ up.nowNs ∧ up.nowNs < deadlineNs (deadJob 5000001) ∧ (deadJob 5000000).switched = false := by
  decide +kernel
/-! ### The page service and rollout groups -/

/-- A running part with one address space, and group 0 with one future of one layer. -/
def kvBase : State := { run task1 with cores := [], jobs := [] }
def kvLayout : Layout := { fmt := 6, stageFmt := 1, stageBase := 0x10000, stageStride := 0x2000 }
def fut (n : Nat) (codes : Tab Nat) : Future := { state := .inBatch, lens := [n], dirs := [[(0, 0)]], codes := codes }
def grp (f : Future) : Group := { home := 0, lc := false, maxF := 4, asid := 1, gcb := 0x18000, layout := kvLayout, futures := [(0, f)], batch := [0] }

/-- The group's future has one page, page 0 of die 0, holding `n` tokens. -/
def kv (n : Nat) (codes : Tab Nat) (q : List CommitReq) : State :=
  { kvBase with groups := [(0, grp (fut n codes))], commits := q, chunks := [(0, { pages := [(0, 0)] })]
                kvPages := [(0, { layer := 0, block := 0, ntok := n, fmt := 6, slotBytes := 4096, place := 0 })] }
def req1 (applied waiting : Bool) : CommitReq := { group := 0, idx := 0, layer := 0, n := 1, applied := applied, waiting := waiting }

theorem wit_commit :
    groupUp (kv 3 [] [req1 false false]) 0 = true ∧
    ((kv 3 [] [req1 false false]).commits.find? fun c => c.group = 0 && c.idx = 0 && c.layer = 0) = some (req1 false false) ∧
    toSigned 32 (req1 false false).n = 1 ∧ tget (kv 3 [] [req1 false false]).groups 0 = some (grp (fut 3 [])) ∧
    (fut 3 []).state ≠ .free ∧
    (match ([0].mapM fun t => readStaged (kv 3 [] [req1 false false]) (grp (fut 3 [])) 0 0 t : Res (List (List Machine.Num))) with
     | .ok rows => (appendTokens (serving (kv 3 [] [req1 false false])) (kv 3 [] [req1 false false]) 0 0 0 3 rows).isSome
     | .error _ => false) = true ∧
    ([0].mapM fun t => jobNat (kv 3 [] [req1 false false]) 1 (stageBlock kvLayout 0 + 4 * t) 4 : Res (List Nat)).toOption = some [0] := by
  decide +kernel

theorem wit_appendDone :
    (req1 true false).applied = true ∧
    (add32 (updFuture { kv 3 [] [req1 true false] with commits := [] } 0 0 fun f => { f with lens := f.lens.modify 0 (· + 1) })
      1 (stageBlock kvLayout 0 + 0x440) 1).toOption.isSome = true ∧
    nextWaiting (kv 3 [] [req1 false true]) 0 = some (req1 false true) ∧
    commitTurn (kv 3 [] [req1 false true]) (req1 false true) = true := by decide +kernel

/-- A commit behind an earlier one of its future on another layer. -/
def second : CommitReq := { req1 false false with layer := 1, seq := 1 }
theorem wit_commitTurn :
    commitTurn (kv 3 [] [req1 false false]) (req1 false false) = true ∧
    ((kv 3 [] [req1 false false, second]).commits.find? fun c => c.group = 0 && c.idx = 0 && c.layer = 1) = some second ∧
    commitTurn (kv 3 [] [req1 false false, second]) second = false := by decide +kernel

/-- A full block of 16 tokens with their codes, in a group with a prefix domain. -/
def full : Future := fut 16 ((List.range 16).map fun i => (i, 0))
def offer : State := { kv 16 full.codes [] with groups := [(0, { grp full with layout := { kvLayout with domain := 1 } })] }

theorem wit_offer :
    groupUp offer 0 = true ∧ ([0].mapM fun l => pageOf offer full l 0) = some [0] ∧
    (chainTo full (hashSeed { kvLayout with domain := 1 }) 0).isSome = true ∧ (blockCodes full 0).isSome = true ∧
    fLive full = true ∧ ([0].all fun k => ((getPage offer k).map (·.ntok)) = some 16) = true ∧ treeOf offer 0 = [] ∧ full.offered.contains 0 = false := by
  decide +kernel

def mirrorKv : State := { kv 16 [] [] with groups := [(0, grp { fut 16 [] with mirror := true })] }

theorem wit_mirror :
    serviceUp mirrorKv 0 = true ∧ (getPage mirrorKv (kvKey 0 0)).isSome = true ∧
    (mirrorDie (serving mirrorKv) 0).isSome = true ∧
    ((getPage mirrorKv (kvKey 0 0)).map fun p => (p.mirror, p.mirrorOf)) = some (none, none) ∧
    (mirrorKv.groups.flatMap fun e => (e.2.futures.filter fun f =>
      f.2.mirror && fLive f.2 && (futurePages mirrorKv f.2).contains (kvKey 0 0)).map fun f => (e.1, f.1)) = [(0, 0)] := by
  decide +kernel

/-- A state with a GROUP_CREATE whose records stand at 0x10000 and 0x10040. -/
def createRec : List Byte :=
  leBytes 64 (2 ^ 480 + 2 ^ 467 + 0x12000 * 2 ^ 400 + 0x10040 * 2 ^ 352)
    ++ leBytes 64 (6 * 2 ^ 504 + 2 ^ 496 + 2 ^ 488 + 2 ^ 480 + 2 ^ 476 + 0x1C000 * 2 ^ 400 + 0x4000 * 2 ^ 368)
def createState : State := jobWritesD (withCmd kvBase 0x10 [(470, 1), (428, 0x10000 / 64)]) 1 0x10000 createRec

theorem wit_groupCreate :
    cmdReady createState 1 0x10 = some (cmdOf 0x10 [(470, 1), (428, 0x10000 / 64)]) ∧
    (groupCheck createState 1 0x10000).toOption.isSome = true ∧ tget createState.groups 0 = none := by decide +kernel

def groupCmd (op : Nat) (fs : List (Nat × Nat)) : State := withCmd (kv 3 [] []) op fs

theorem wit_groups :
    (cmdReady (groupCmd 0x11 []) 1 0x11).isSome = true ∧ groupUp (groupCmd 0x11 []) 0 = true ∧
    (∀ op ∈ [0x12, 0x13], (cmdReady (groupCmd op [(421, if op = 0x12 then 1048576 else 0)]) 1 op)
      = some (cmdOf op [(421, if op = 0x12 then 1048576 else 0)])) ∧
    field (cmdOf 0x12 [(421, 1048576)]).entry 421 21 ≤ 1048576 ∧
    (tget (groupCmd 0x12 []).groups 0).isSome = true ∧ field (cmdOf 0x13 []).entry 448 32 < 2 ^ 31 := by decide +kernel

/-- A boundary asked for, with and without an earlier commit of the batch; and one that waits for an eviction. -/
def stepKv (q : List CommitReq) : State :=
  { kv 3 [] q with groups := [(0, { grp (fut 3 []) with steps := [5] })] }
def evictKv : State :=
  { kv 0 [] [] with groups := [(0, { grp { fut 0 [] with dirs := [[]] } with boundary := true, evicting := [(0, 0)] })] }

theorem wit_boundary :
    groupUp (stepKv []) 0 = true ∧ (∀ gr ∈ tget (stepKv []).groups 0, gr.steps = [5] ∧ gr.boundary = false
      ∧ batchCommits (stepKv []) 0 gr 5 = false ∧ batchCommits (stepKv [req1 true false]) 0 gr 5 = true) ∧
    (∀ gr ∈ tget evictKv.groups 0, gr.boundary = true ∧ gr.evicting ≠ [] ∧
      (gr.evicting.foldlM (fun s v => evictFuture s v.1 v.2) evictKv).isSome = true) := by decide +kernel
/-! ### DRAM, channels, control periods -/

def rd (errs : List Nat) (src : DramSource) (len : Nat := 128) : DramReq := { dpa := 0, len := len, errs := errs, src := src }
def wr (src : DramSource) (node : Die := 0) : DramReq :=
  { dpa := 0, len := 256, write := some (List.replicate 256 0), src := src, reader := node }
def dieWith (x : DieHw) : State := { up with dies := tset up.dies 0 x }
def hw : DieHw := getDie up 0
def job3 : State := { up with jobs := [(1, { job1 with part := 3 })] }
/-- Partition 3 of die 0 under a regulator of mode 1, with 63 bytes of tokens. -/
def regulated : State :=
  { job3 with dict := [(objKey (dramIx 0 + 0x40 + 3) 1, 1)]
              dies := tset up.dies 0 { hw with parts := tset hw.parts 3 (1, 0, 0), buckets := [(3, { tokens := 63 })] } }
/-- Die 0 is lost. -/
def lostZero : State := { job3 with accord := { job3.accord with roles := job3.accord.roles.set 0 4 } }
def migNow (phase : Nat) : Migration := { source := 0, target := 15, phase := phase }

/-- The state in which a request is served, once its links are crossed and its bytes admitted. -/
def served (s : State) (r : DramReq) : State :=
  let sx := crossing s (reqNode r) 0 r
  admitReq sx 0 (reqPart sx 0 r.src) (reqLc sx r.src) r.len

theorem wit_dram :
    (∀ r ∈ [wr (.job 1) 1, wr .host, rd [8, 8] .tier 256, rd [9] (.job 1)], r.dpa + r.len ≤ diePages * 65536 ∧
      reaches job3 (reqNode r) 0 (r.dpa / 65536) = true ∧
      partMode (crossing job3 (reqNode r) 0 r) 0 (reqPart (crossing job3 (reqNode r) 0 r) 0 r.src) = 0 ∧
      swapTouches (served job3 r) 0 r.dpa r.len = false) ∧
    reaches lostZero (reqNode (wr (.job 1) 1)) 0 0 = false ∧ (wr (.job 1)).write.isSome = true ∧ (wr .host).len = 128 * 2 ∧
    (∀ i < cwCount 0 256, ([8, 8] : List Nat).getD i 0 < 9 ∧
      (served job3 (rd [8, 8] .tier 256)).dramUE.contains (pkgDpa 0 (cwDpa 0 i) / 128) = false) ∧
    cwCount 0 128 = 1 ∧ (noteUe (served job3 (rd [9] (.job 1))) 0 (cwDpa 0 0)).2 = false := by decide +kernel

theorem wit_dramHeld :
    (∀ r ∈ [rd [] (.job 1)], reaches regulated (reqNode r) 0 0 = true ∧
      partMode (crossing regulated (reqNode r) 0 r) 0 (reqPart (crossing regulated (reqNode r) 0 r) 0 r.src) ≠ 0 ∧
      reqLc (crossing regulated (reqNode r) 0 r) r.src = false ∧
      tokensOf (crossing regulated (reqNode r) 0 r) 0 (reqPart (crossing regulated (reqNode r) 0 r) 0 r.src) < 64) ∧
    swapTouches (served (dieWith { hw with mig := some (migNow 2) }) (rd [] .tier)) 0 0 128 = true := by decide +kernel

theorem wit_idleLinks : up.pending = [] ∧ linksIdle up = true ∧ up.hub.tx.io = 0 ∧ up.hub.tx.rest = 0 ∧
    (∀ d ∈ [0, 1, 2, 3], (getDie up d).mig = none) := by decide +kernel

def addQ (op : AdderKind) (src : DramSource) (dpa : Nat := 0) : AddReq := { dpa := dpa, fmt := 0xB, op := op, v := 1, src := src }
theorem wit_patrol :
    logicalOf (getDie up 0) 0 = some 0 ∧ dieUp up 0 = true ∧ scrubDue up 0 0 = true ∧ up.dramUE = [] ∧ (getDie up 0).held = [] ∧
    (addQ .add (.job 1) 2).dpa % adderBytes 0xB .add ≠ 0 ∧
    (∀ op ∈ [AdderKind.add, .fetchAdd, .cswap], 0 % adderBytes 0xB op = 0 ∧ 0 + adderBytes 0xB op ≤ diePages * 65536 ∧
      swapTouches up 0 0 (adderBytes 0xB op) = false) ∧ dieAnswers up 0 = true := by
  decide +kernel

def migQ : MigReq := { channel := 0, prio := 1, seq := 0 }
def queued : State := dieWith { hw with queue := [migQ] }
/-- No channel is a spare. -/
def spareless (prio : Nat) : State :=
  dieWith { hw with queue := [{ migQ with prio := prio }]
                    chans := (List.range 128).map fun n => (n, .active) }
def recalAt (add : Nat) : State := { up with nowNs := setting up (dramIx 0 + 0x21) 2 * (3600 * 10 ^ 9) + add - 1 }

theorem wit_recal :
    setting up (dramIx 0 + 0x21) 2 ≠ 0 ∧
    (recalAt 0).nowNs < tgetD hw.trained 0 hw.trainNs + setting up (dramIx 0 + 0x21) 2 * (3600 * 10 ^ 9) ∧
    tgetD hw.trained 0 hw.trainNs + setting (recalAt 1) (dramIx 0 + 0x21) 2 * (3600 * 10 ^ 9) ≤ (recalAt 1).nowNs ∧
    hw.queue = [] ∧ hw.mig = none ∧ chanState hw 0 = .active ∧ sparesLeft (recalAt 1) 0 ≠ 0 := by decide +kernel

theorem wit_migration :
    dieUp queued 0 = true ∧ (getDie queued 0).mig = none ∧ nextMig (getDie queued 0) = some migQ ∧
    chanState (getDie queued 0) 0 = .active ∧
    ((List.range 128).find? fun n => chanState (getDie queued 0) n = .spare) = some 15 ∧
    (∀ p ∈ [1, 2], nextMig (getDie (spareless p) 0) = some { migQ with prio := p } ∧
      chanState (getDie (spareless p) 0) 0 = .active ∧ dieUp (spareless p) 0 = true ∧
      ((List.range 128).find? fun n => chanState (getDie (spareless p) 0) n = .spare) = none) ∧
    (∀ p ∈ [1, 2], (getDie (dieWith { hw with mig := some (migNow p) }) 0).mig = some (migNow p) ∧
      dieUp (dieWith { hw with mig := some (migNow p) }) 0 = true) ∧
    logicalOf (getDie (copyTo (dieWith { hw with mig := some (migNow 1) }) 0 (migNow 1) (2 ^ 30)) 0) 0 = some 0 ∧
    logicalOf (getDie (dieWith { hw with mig := some (migNow 2) }) 0) 0 = some 0 ∧
    (getDie (dieWith { hw with mig := some (migNow 3) }) 0).mig = some (migNow 3) ∧
    dieUp (dieWith { hw with mig := some (migNow 3) }) 0 = true := by decide +kernel

def hotCluster : State := { up with clusters := [(0, { hotD := 10, dram9 := 0, coolJ := 10 })] }
def coolCluster (n : Nat) : State := { up with clusters := [(0, { coolD := 10, dram9 := n, target := some 7 })] }
def cooled : State := dieWith { hw with refresh := hw.refresh.set 0 true, cool := hw.cool.set 0 100 }
def calm : State := { up with pow := { up.pow with coolP := 10, coolC := Vector.replicate 5 10 } }

theorem wit_control :
    10 ≤ (getCluster hotCluster 0).hotD ∧ (getCluster hotCluster 0).dram9 = 0 ∧
    ((neighbours 0).any fun q => 0 < (getCluster (setCluster hotCluster 0 { getCluster hotCluster 0 with hotD := 9 }) q).dram9) = true ∧
    10 ≤ (getCluster hotCluster 0).coolJ ∧
    (∀ n ∈ [7, 8], 10 ≤ (getCluster (coolCluster n) 0).coolD ∧ (getCluster (coolCluster n) 0).dram9 = n) ∧
    (getCluster (coolCluster 7) 0).target = some 7 ∧
    (getDie cooled 0).refresh.getD 0 false = true ∧ 100 ≤ (getDie cooled 0).cool.getD 0 0 ∧
    10 ≤ calm.pow.coolP ∧ ((List.range 4).filter fun d => 10 ≤ calm.pow.coolC.getD d 0) ≠ [] ∧ 10 ≤ calm.pow.coolC.getD 4 0 ∧
    dieAmpLimit up 0 < dieAmpLimit up 0 + 1 := by decide +kernel

/-! ### Address spaces, pages, imagos, flash -/

def spaceCmd (op : Nat) (fs : List (Nat × Nat)) : State := withCmd kvBase op fs

/-- MAP of page 7 of space 1 into tier 2, started. -/
def mapCmd : Cmd := { cmdOf 0x22 [(470, 1), (465, 5), (416, 7), (384, 1)] with started := true, need := [7] }
def mapState : State := { kvBase with cmds := [(1, mapCmd)] }

theorem wit_spaces :
    cmdReady (spaceCmd 0 []) 1 0 ≠ none ∧
    cmdReady (spaceCmd 0x20 []) 1 0x20 = some (cmdOf 0x20 []) ∧ inAccord kvBase 0 = true ∧ kvBase.aspaces.length < 1024 ∧
    tget kvBase.aspaces 0 = none ∧
    cmdReady (spaceCmd 0x21 [(470, 1)]) 1 0x21 = some (cmdOf 0x21 [(470, 1)]) ∧ spaceRuns kvBase 1 = false ∧
    (∀ a ∈ tget kvBase.aspaces 1, a.pages.any (fun p => p.2.moving) = false) ∧ (tget kvBase.aspaces 1).isSome = true ∧
    cmdReady mapState 1 0x22 = some mapCmd ∧ field mapCmd.entry 468 2 ≠ 1 ∧ bit mapCmd.entry 462 = false ∧
    placeFor mapState (field mapCmd.entry 460 2) (field mapCmd.entry 465 3) 2 (bit mapCmd.entry 463) = some (2, 0) ∧
    frameFits mapState 2 0 6 = true ∧
    cmdReady (spaceCmd 0x23 [(470, 1), (416, 2 ^ 32 - 1), (384, 1)]) 1 0x23
      = some (cmdOf 0x23 [(470, 1), (416, 2 ^ 32 - 1), (384, 1)]) ∧
    cmdVpn (cmdOf 0x23 [(470, 1), (416, 2 ^ 32 - 1), (384, 1)]) + cmdPages (cmdOf 0x23 [(470, 1), (416, 2 ^ 32 - 1), (384, 1)]) ≤ 2 ^ 32 ∧
    cmdReady (spaceCmd 0x25 [(459, 2 ^ 21 - 1), (438, 1)]) 1 0x25 = some (cmdOf 0x25 [(459, 2 ^ 21 - 1), (438, 1)]) ∧
    field (cmdOf 0x25 [(459, 2 ^ 21 - 1), (438, 1)]).entry 459 21 + field (cmdOf 0x25 [(459, 2 ^ 21 - 1), (438, 1)]).entry 438 21 ≤ 2 ^ 21 := by
  decide +kernel

/-- An entry with every number at its highest. -/
theorem wit_pte : (7 < 8) ∧ (3 < 4) ∧ 2 ^ 48 - 1 < 2 ^ 48 ∧
    (pteWord { tier := 7, die := 3, kind := 3, floor := 7, frame := 2 ^ 48 - 1 }).toNat / 2 ^ 48 = 0xFE7C := by decide +kernel

/-- Space 1 with one page; a PLACE of it into tier 5, started. -/
def pageState (p : Pte) : State := { kvBase with aspaces := spaceOf [(1, p)] }
def placeCmd : Cmd := { cmdOf 0x24 [(470, 1), (467, 5), (416, 1), (384, 1)] with started := true, need := [1] }
def placeState : State := { pageState { tier := 2, frame := 5 } with cmds := [(1, placeCmd)] }
/-- Die 0 has less free memory than its low water. -/
def tight : State := { pageState { tier := 2, frame := 5 } with dict := [(objKey 0x5800 1, 1024)] }

theorem wit_pages :
    cmdReady placeState 1 0x24 = some placeCmd ∧ cmdVpn placeCmd + cmdPages placeCmd ≤ 2 ^ 32 ∧
    (∀ p ∈ getPte placeState 1 1, p.moving = false ∧ p.lost = false ∧ placeIn placeState p (field placeCmd.entry 467 3) = some (5, 0)) ∧
    frameFits placeState 5 0 9 = true ∧
    tierUp tight 0 = true ∧ freePages tight 0 < setting tight 0x5800 1 * gibPages ∧
    ((demotable (updDie tight 0 fun x => { x with demoting := true }) 0).map fun q => (q.1, q.2.1)) = [(1, 1)] ∧
    getPte (pageState { tier := 4, frame := 0 }) 1 1 = some { tier := 4, frame := 0 } ∧
    newest (pageState { tier := 4, frame := 0 }) 1 1 { tier := 4, frame := 0 } = true ∧
    tierUp (pageState { tier := 4, frame := 0 }) 0 = true ∧
    setting up 0x5801 1 * gibPages < freePages (pageState { tier := 4, frame := 0 }) 0 ∧
    frameFits (pageState { tier := 4, frame := 0 }) 2 0 6 = true ∧
    pageUe (pageState { tier := 2, frame := 5, moving := true, dest := some (5, 0, 9) }) (pteAddr { tier := 2, frame := 5 } 0) = false := by
  decide +kernel

/-- A page of the NAND tier that a segment of core 0 waits for, and a key-value page that one waits for. -/
def nandWait (g : Seg) (s : State) : State :=
  { s with cores := [(0, { be := some { task1 with fq := [{ held 0x01 0 with started := true, segs := [g] }] } })] }
def nandPage : State := nandWait { asid := 1, vpn := some 1, waiting := true, left := 1 } (pageState { tier := 5, frame := 9 })
def kv5 : KvPage := { layer := 0, block := 0, ntok := 3, fmt := 6, slotBytes := 4096, place := 0, tier := 5, frame := 9 }
def nandKv : State :=
  nandWait { kv := some (kvKey 0 0), waiting := true, left := 1 } { kv 3 [] [] with kvPages := [(kvKey 0 0, kv5)] }

theorem wit_nand :
    segWaits nandPage 1 1 = true ∧ nandPage.flash.spillBad.contains 9 = false ∧
    placeFor nandPage 0 (min 4 5) 2 false = some (2, 0) ∧ frameFits nandPage 2 0 6 = true ∧
    getPage nandKv (kvKey 0 0) = some kv5 ∧ kvHome nandKv (kvKey 0 0) = some 0 ∧ segWaitsKv nandKv (kvKey 0 0) = true ∧
    tierUp nandKv 0 = true ∧ placeFor nandKv 0 4 2 false = some (2, 0) ∧ (packSlot nandKv 2 0 4096).isSome = true := by
  decide +kernel

/-- Two dies serve, so one lends. -/
def tightTwo : State := { tight with accord := { tight.accord with roles := (tight.accord.roles.set 2 5).set 3 5 } }

theorem wit_demotion :
    tierUp tightTwo 0 = true ∧ freePages tightTwo 0 < setting tightTwo 0x5800 1 * gibPages ∧
    ((demotable (updDie tightTwo 0 fun x => { x with demoting := true }) 0).map fun q => (q.1, q.2.1, q.2.2.floor)) = [(1, 1, 5)] ∧
    placeFor (updDie tightTwo 0 fun x => { x with demoting := true }) 0 5 3 false = some (3, 1) ∧
    frameFits (updDie tightTwo 0 fun x => { x with demoting := true }) 3 1 9 = true := by decide +kernel

/-- The bytes of an image of one empty segment. -/
def imgBytes : List Byte :=
  [0x4A, 0x59, 0x49, 0x4D] ++ leBytes 2 1 ++ leBytes 2 1 ++ leBytes 8 160 ++ List.replicate 144 0

theorem wit_store :
    cmdReady (withCmd kvBase 0x32 [(470, 1), (438, 1)]) 1 0x32 = some (cmdOf 0x32 [(470, 1), (438, 1)]) ∧
    kvBase.flash.up = true ∧ kvBase.hub.pause = false ∧
    (∀ m ∈ (storeImage (jobWritesD kvBase 1 0x10000 imgBytes) 1 0x10000).toOption,
      libraryUsed kvBase m.digest + m.total ≤ kvBase.flash.area) ∧
    (storeImage (jobWritesD kvBase 1 0x10000 imgBytes) 1 0x10000).toOption.isSome = true := by decide +kernel

def img0 : Image := { digest := zeroDigest, fallback := zeroDigest, parity := false, total := 0, segs := [], data := [], dataB := [] }
def lib (st : ImagoState) : State :=
  { withCmd up 0x30 [] with
    flash := { up.flash with library := [img0] }
    imagos := if st = .empty then [] else [(0, { state := st, image := some img0 })] }

theorem wit_imago :
    cmdReady (lib .resident) 1 0x30 = some (cmdOf 0x30 []) ∧
    findImago (lib .resident) (leBytes 32 (field (cmdOf 0x30 []).entry 224 256)) (fun st => st = .resident) = some 0 ∧
    findImago (lib .empty) (leBytes 32 0) (fun st => st = .resident) = none ∧
    findImago (lib .empty) (leBytes 32 0) (fun st => st = .loading) = none ∧
    findImage (lib .empty) (leBytes 32 0) = some img0 ∧ firstToLoad (lib .empty) 1 img0 = some img0 ∧
    segsServe (lib .empty) img0 = true ∧ (getImago (lib .resident) 0).state = .resident ∧
    cmdReady (withCmd (lib .resident) 0x31 []) 1 0x31 = some (cmdOf 0x31 []) ∧
    (getImago (lib .loading) 0).image = some img0 ∧ (getImago (lib .loading) 0).state = .loading ∧
    (getImago (lib .loading) 0).bad = none := by decide +kernel

/-- The digest that ends a load: an image of no bytes whose digest is that of no bytes. -/
def imgD (d : List Byte) : Image := { img0 with digest := d }
theorem wit_imagoDigest (d : List Byte) (h : imageDigest [] = d) :
    imageDigest ((List.range (ceilDiv (imgD d).total 65536)).flatMap fun i => imageRead (imgD d) (65536 * i) 65536)
      = (imgD d).digest := by
  rw [show ((List.range (ceilDiv (imgD d).total 65536)).flatMap fun i => imageRead (imgD d) (65536 * i) 65536) = []
    from by simp [imgD, img0, ceilDiv]]
  exact h

def blocks : State :=
  { up with flash := { up.flash with blocks := [(nandKey 0 1, { erases := 1000000, reads := 1000000 })] } }

theorem wit_flash :
    (lib .loading).flash.up = true ∧ (getImago (lib .loading) (0 / 2 ^ 20)).state = .loading ∧
    (getBlock up (nandKey 7 (2 ^ 24 - 1))).bad = false ∧ freshOk blocks 0 2 3 = true ∧ freshOk blocks 0 1 3 = true ∧
    (getBlock blocks (nandKey 0 2)).erases + setting blocks 0x5840 2 < mostErased blocks ∧
    setting blocks 0x5840 1 ≤ (getBlock blocks (nandKey 0 1)).reads := by decide +kernel
/-! ### The host link, rings, completions, quenches -/

def withRing (x : Ring) : State := { up with rings := [(1, x)] }
def ringOn : Ring := { state := .enabled }
def post1 : Post := { ring := 1, tag := 1, status := 0 }

theorem wit_link : up.por = false ∧ up.pins.perst = false ∧ up.hub.inReset = false ∧ 2 ≤ up.hub.instar ∧ up.coc.trip = false ∧
    barUp up = true ∧ (getRing up 1).state = .disabled ∧ up.hub.cxlMode = true ∧ up.hub.recovery = false ∧
    barUp { up with hub := { up.hub with cxlMode := false } } = true ∧
    (getRing (withRing { state := .drydown }) 1).state = .drydown ∧ (getRing (withRing ringOn) 1).state = .enabled ∧
    bit (entry []) 398 = false ∧ bit (entry [(398, 1)]) 398 = true := by decide +kernel

/-- Queues of 16: tails and heads at 15 and 16; a full submission queue. -/
theorem wit_doorbells :
    (15#16).toNat < sqSize ringOn ∧ sqSize ringOn ≤ (16#16).toNat ∧ (3#16).toNat < cqSize ringOn ∧ cqSize ringOn ≤ (16#16).toNat ∧
    (3 + cqSize ringOn - ({ ringOn with cqTail := 3 } : Ring).cqHead) % cqSize ringOn
      ≤ (({ ringOn with cqTail := 3 } : Ring).cqTail + cqSize ringOn - 0) % cqSize ringOn ∧
    (ringOn.tail + sqSize ringOn - ringOn.sqHead) % sqSize ringOn ≠ sqSize ringOn - 1 ∧
    (15 + sqSize ringOn - ({ ringOn with tail := 15 } : Ring).sqHead) % sqSize ringOn = sqSize ringOn - 1 := by decide +kernel

theorem wit_fetchAndPost :
    ringsUp (withRing { ringOn with tail := 1 }) = true ∧ ringHeld (withRing { ringOn with tail := 1 }) 1 = false ∧
    (getRing (withRing { ringOn with tail := 1 }) 1).sqHead ≠ (getRing (withRing { ringOn with tail := 1 }) 1).tail ∧
    tget (getRing (withRing { ringOn with tail := 1, pushed := [(0, entry [])] }) 1).pushed 0 = some (entry []) ∧
    adminWaits (withRing { ringOn with tail := 1 }) = false ∧
    adminWaits { up with rings := [(0, { ringOn with tail := 1 }), (1, { ringOn with tail := 1 })] } = true ∧
    firstPost { withRing ringOn with posts := [post1] } 1 = some post1 ∧ cqRoom ringOn = true ∧
    cqRoom { ringOn with cqTail := 15 } = false ∧
    (getRing (withRing { ringOn with irqDue := true, lastIrq := some 0, holdoff := 1000 }) 1).holdoff * 1000 ≤ up.nowNs - 0 ∧
    (getRing { up with rings := [(0, ringOn)], hub := { up.hub with events := [(1, 0)] } } 0).state = .enabled ∧
    up.hub.lost = 0 := by decide +kernel

/-- A quench of every job: with none running it completes; with one it waits. -/
def quenchState (busy : Bool) : State := withCmd (if busy then run task1 else kvBase) 0x40 [(478, 2)]
def quenched (busy : Bool) : State :=
  let r := quench (updCmd (quenchState busy) 1 fun c => { c with started := true }) 0 2 0 0 false
  updCmd r.1 1 fun c => { c with need := r.2.1, held := r.2.2 }

theorem wit_quench :
    (∀ b ∈ [false, true], cmdReady (quenchState b) 1 0x40 = some (cmdOf 0x40 [(478, 2)]) ∧
      (tget (quenched b).cmds 1).map (quenchPosted (quenched b)) = some !b) ∧
    (∀ b ∈ [false, true], ∀ c ∈ tget (quenched b).cmds 1, cmdReady (quenched b) 1 0x40 = some c ∧ c.started = true) ∧
    up.pins.quench = false ∧ field (0xA4A4C00000000000 : Word64) 45 2 = 2 ∧ field (0xA4A4C00000000000 : Word64) 48 16 = 0xA4A4 ∧
    field (0xA4A5400000000000 : Word64) 48 16 ≠ 0xA4A4 ∧ field (0xA4A4600000000000 : Word64) 45 2 = 3 ∧
    bit (0xA4A4800000000000 : Word64) 47 = true ∧ field (0xA4A4800000000000 : Word64) 45 2 = 0 := by decide +kernel

/-- QUENCH_N is held low, and a JOB has not started. -/
def pinLow : State := { withCmd up 1 [(479, 1)] with pins := { up.pins with quench := true } }
theorem wit_quenchPin : pinLow.por = false ∧ pinLow.pins.quench = true ∧
    cmdReady pinLow 1 1 = some (cmdOf 1 [(479, 1)]) ∧ (cmdOf 1 [(479, 1)]).started = false := by decide +kernel

/-- Decoder 0 committed over the first 256 MiB. -/
def decoded (base : Nat) : State :=
  { up with hub := { up.hub with hdm := [(0, { base := base, size := mib256, committed := true })] } }

theorem wit_memory :
    up.hub.pause = false ∧ up.hub.mb.busy = false ∧ (tgetD up.hub.hdm 0 {}).committed = false ∧
    mib256 % mib256 = 0 ∧ 0 + mib256 ≤ 4 * dieSpan ∧ 1 % mib256 ≠ 0 ∧
    hostOk (decoded 0) 0 = true ∧ hostBacked (decoded 0) 0 = true ∧ (decoded 0).dramUE.contains (0 / 128) = false ∧
    hostOk { decoded 0 with accord := { up.accord with roles := up.accord.roles.set 0 5 } } 0 = true ∧
    hostBacked { decoded 0 with accord := { up.accord with roles := up.accord.roles.set 0 5 } } 0 = false ∧
    (∀ ue ∈ [[], [0]], ∀ w ∈ [none, some (List.replicate 64 0)],
      let s : State := { decoded 0 with dramUE := ue }
      let sx := crossing s 4 0 (hostReq 0 w)
      let part := setting sx (dramIx 0 + 0x30) 1
      partMode sx 0 part = 0 ∧ swapTouches (admitReq sx 0 part false 64) 0 0 64 = false ∧
      (admitReq sx 0 part false 64).dramUE.contains (0 / 128) = decide (ue = [0]) ∧
      repairable (admitReq sx 0 part false 64) 0 = false) := by decide +kernel

theorem wit_window : (sillage up 1 2 3 4).sill = [sillRecord (uptimeUs up % 2 ^ 64) 1 2 3 4] ∧ (sillage up 1 2 3 4).sillWritten ≠ 0 ∧
    ((3 ≠ 4 ∧ 3 ≠ 8) ∨ 0 % 3 ≠ 0) := by decide +kernel

/-! ### The dictionary -/

theorem wit_served : DictServed up ∧ (beginStore up).isSome = true ∧
    beginStore { up with svc := { up.svc with storing := some {} } } = none ∧
    ({ up with svc := { up.svc with storing := some {}, copyA := { ok := true } } } : State).svc.copyA.ok = true ∧
    up.svc.copyA.ok = false ∧ up.pmb.state ≠ 3 ∧ ({ up with pmb := { up.pmb with state := 3 } } : State).pmb.state = 3 ∧
    fnQuenchOk 0 = true ∧ fnQuenchOk (3 * 2 ^ 45) = false := by unfold DictServed; decide +kernel

/-- Fields that are locked, absent, read-only, ill-typed, taken, and of an owner that runs or is stopped. -/
def fw (i j ty : Nat) (v : List Byte) : FieldWrite := ⟨BitVec.ofNat 16 i, BitVec.ofNat 8 j, BitVec.ofNat 8 ty, v⟩

theorem wit_fields :
    svcUp up = true ∧ locked up 0xF000 = true ∧ locked up 0x3020 = false ∧ objAt up 0x3020 0xFF = none ∧
    ((objAt up 0x3020 1).map fun r => (r.acc, typeOk r 0x3020 1 12 (leBytes 8 100), typeOk r 0x3020 1 1 [0])) = some (1, true, false) ∧
    ((objAt up 0x3020 0).map (·.acc)) = some 0 ∧
    (∀ on ∈ [false, true], ((objAt up 0x1102 1).map fun r => (r.acc, typeOk r 0x1102 1 3 (leBytes 2 0x88B5),
      ownerStopped { up with fnet := { up.fnet with on := on } } r 0x1102)) = some (3, true, !on)) ∧ setting up 0x6040 3 ≠ 0 ∧ up.pmb.state = 0 := by decide +kernel
/-! ### Service writes, requests, the Cocoon -/

def roles (r0 : Nat) : State := { up with accord := { up.accord with roles := up.accord.roles.set 0 r0 } }
def staged (at0 st : Nat) : State :=
  { up with dict := [(objKey 0x9100 2, at0)], coc := { up.coc with stageState := st } }

theorem wit_service :
    ([0, 1, 2, 3].all (serving up)) = true ∧ updating up = false ∧ role up 0 = 0 ∧
    (∀ n ∈ [1, 4], role (roles n) 0 = n ∧ ([0, 1, 2, 3].all (serving (roles n))) = false ∧ svcUp (roles n) = true) ∧
    (getDie (roles 1) 0).upd = false ∧ (getDie (roles 4) 0).rejoin = false ∧
    (0x0F1F#16).toNat / 2 ^ 12 = 0 ∧ (0x0F1F#16).toNat / 2 ^ 5 % 8 = 0 ∧ inService up 511 = true ∧
    (getDie up 0).retire.contains 511 = false ∧
    inService { up with cores := [(511, { retired := true })] } 511 = false ∧
    migrateOk up 0 127 = false ∧ migrateOk up 0 126 = true ∧
    setting (staged (2 ^ 26 - 3072) 0) 0x9100 2 + 3072 ≤ 2 ^ 26 ∧ 2 ^ 26 < setting (staged (2 ^ 26 - 1023) 0) 0x9100 2 + 1024 ∧
    (staged 0 3).coc.stageState = 3 ∧ setting (staged 0 3) 0x9100 1 = 0 ∧ (staged 0 3).coc.restart = false ∧
    (staged 0 3).coc.up = true := by decide +kernel

def asks (op : Nat) (data : List Byte) : State :=
  { up with svc := { up.svc with reqs := [{ src := .mailbox, op := op, data := data }] } }
/-- A write of UDINT 100 to the object 0x3020:1. -/
def writeReq : List Byte := leBytes 8 1 ++ [0x20, 0x30, 1, 12, 8, 0, 0, 0] ++ leBytes 8 100

theorem wit_requests :
    (∀ op ∈ [1, 2, 3, 4], ((if op ≤ 2 then (asks op []).svc.reqs.find? (fun q => decide (q.op ≤ 2))
      else (asks op []).svc.reqs.find? (fun q => decide (3 ≤ q.op))).map (·.op)) = some op) ∧
    ((readEntries [0, 0x10, 1, 0]).map (·.length)) = some 1 ∧ readEntries [0, 0x10, 1, 1] = none ∧ readEntries [] = some [] ∧
    ((parseWrite writeReq).map (·.length)) = some 1 ∧ parseWrite [] = none ∧
    isClaim { src := .mailbox, op := 3, data := [] } = false ∧
    isClaim { src := .mailbox, op := 3, data := [0, 0, 0, 0, 0, 0xFF] } = true ∧
    (∀ mb ∈ [false, true], checkOrder (asks 3 []) mb [] = (1, none)
      ∧ checkOrder (asks 3 []) mb [0, 0, 0, 0, 0, 0xFF] = (1, none)) ∧
    asksCertificate { src := .mailbox, op := 4, data := List.replicate 40 0 } = false ∧
    asksCertificate { src := .mailbox, op := 4, data := 1 :: List.replicate 39 0 } = true ∧
    attestStatus (asks 4 []) (List.replicate 40 0) = 1 ∧ attestStatus (asks 4 []) (1 :: List.replicate 39 0) = 1 ∧
    (∀ n ∈ [0, 65535], attestStatus { up with coc := { up.coc with aliasOk := true, aliasLeaf := n } } (List.replicate 40 0) = 0
      ∧ attestStatus { up with coc := { up.coc with aliasOk := true, aliasLeaf := n } } (1 :: List.replicate 39 0) = 0) := by
  decide +kernel

/-- An order whose signature is right passes the checks. What a signature or the part's tag is no state can show: they are
free values of the configuration. -/
theorem wit_order (s : State) (bs : List Byte) (o : Order) (k : List Byte) (hu : s.coc.up = true) (ho : s.coc.owned = true)
    (hp : parseOrder bs = some o) (ht : o.tag = identityTag) (hb : o.bind = 0) (hs : s.coc.orderSeq < o.seq)
    (hc : o.slot ≠ 0xFF) (hk : tget s.coc.keys o.slot = some k) (hv : Config.xmssVerify k o.signed o.sig = true) :
    checkOrder s true bs = (0, some o) := by
  simp [checkOrder, hu, ho, hp, ht, hb, hc, hk, hv, Nat.not_le.mpr hs]

theorem wit_claim (s : State) (bs : List Byte) (o : Order) (hu : s.coc.up = true) (ho : s.coc.owned = false)
    (hp : parseOrder bs = some o) (ht : o.tag = identityTag) (hb : o.bind = 0) (hs : s.coc.orderSeq < o.seq)
    (hc : o.slot = 0xFF) : checkOrder s true bs = (0, some o) := by
  simp [checkOrder, hu, ho, hp, ht, hb, hc, Nat.not_le.mpr hs]

/-- The bytes of a claim with the given tag and a key of 68 bytes. -/
def claimBytes (tag : Nat) : List Byte :=
  ascii "JYCO" ++ [1, 0xFF, 1, 0] ++ leBytes 8 tag ++ leBytes 8 1 ++ leBytes 8 0 ++ [0x01, 0x70, 1, 14, 68, 0, 0, 0]
    ++ [0, 0, 0, 0x10] ++ List.replicate 68 0

theorem wit_claimBytes : ((parseOrder (claimBytes 0x0102030405060708)).map fun o => (o.slot, o.tag, o.bind, o.seq))
    = some (0xFF, 0x0102030405060708, 0, 1) := by decide +kernel

def cocWith (c : Cocoon) : State := { up with coc := c }
/-- A bank whose image does not pass. -/
def badBank (kind bank : Nat) : State :=
  { up with coc := { up.coc with banks := [(2 * kind + bank, { ok := false })], restart := true } }

theorem wit_pair :
    (∀ n ∈ [0, 1], (cocWith { up.coc with aliasGen := true, leaves := n }).coc.aliasGen = true ∧ up.coc.up = true
      ∧ up.coc.restart = false) ∧
    up.por = false ∧ up.coc.mismatch = none ∧ 3999999999 + 1000000000 < up.nowNs ∧ up.nowNs ≤ 4000000000 + 1000000000 ∧
    (badBank 0 0).coc.restart = true ∧ (bankImage (badBank 0 0) 0 ((badBank 0 0).coc.prefer[0])).ok = false ∧
    (bankImage (badBank 0 0) 0 (1 - (badBank 0 0).coc.prefer[0])).ok = true ∧
    (bankImage (badBank 0 1) 0 ((badBank 0 1).coc.prefer[0])).ok = true := by decide +kernel

def hot : State := { up with pow := { up.pow with hotJ := [(3, 2)] } }
def tripped (since : Nat) (latched : Bool) : State :=
  { up with coc := { up.coc with trip := true, latched := latched, tripUs := since } }

theorem wit_trip :
    tripDue hot 1 4 0 = true ∧ hot.coc.trip = false ∧ tripDue up 7 0 199 = false ∧ tripDue up 7 0 200 = true ∧ tripDue up 0 0 0 = false ∧
    (tripped 4000000 false).coc.trip = true ∧ (tripped 4000000 false).coc.tripUs * 1000 + 1000000000 ≤ up.nowNs ∧
    (tripped 0 true).coc.latched = true ∧ State.reset.por = true ∧ up.coc.trip = false := by decide +kernel

def held0 (x : DieHw) : State := { up with dies := [(0, x)] }
def relDie : DieHw := { dieRst := false, phase := .running, instar := 0xFF }

/-- Die 0 is lost and its always-on link beats, or not. -/
def beats4 (now : Bool) : State :=
  { roles 4 with accord := { (roles 4).accord with hb := [(5, if now then up.nowNs else 0)] } }

theorem wit_resets :
    up.por = false ∧ up.pins.perst = false ∧ up.hub.linkUp = true ∧ State.reset.pins.perst = true ∧
    bootBank (cocWith { up.coc with up := false }) 0 0 true = some 0 ∧ bootBank (badBank 0 0) 0 0 false = some 1 ∧
    bootBank { badBank 0 0 with coc := { up.coc with banks := [(0, { ok := false }), (1, { ok := false })] } } 0 0 true = none ∧
    (cocWith { up.coc with up := false }).hub.recovery = false ∧
    ({ up with hub := { up.hub with instar := 1, bootSel := 2 } } : State).hub.instar < 2 ∧
    bootBank { up with hub := { up.hub with instar := 1 } } 1 1 true = some 0 ∧
    (getDie (held0 relDie) 0).phase = .running ∧ (getDie (held0 relDie) 0).instar = 0xFF ∧
    bootBank (held0 relDie) 2 2 true = some 0 ∧
    role (roles 4) 0 = 4 ∧ (getDie (roles 4) 0).dieRst = false ∧ answersAlwaysOn (beats4 true) 0 = true ∧
    role (beats4 true) 0 = 4 ∧ answersAlwaysOn (beats4 false) 0 = false ∧
    (getDie (held0 { hw with rstAsk := some 0 }) 0).rstAsk = some 0 ∧ role (held0 { hw with rstAsk := some 0 }) 0 = 0 ∧
    3 < role (roles 4) 0 ∧
    (getDie (roles 1) 0).rstAsk = none ∧ (getDie (roles 1) 0).phase = .done ∧
    (getDie (held0 {}) 0).dieRst = true ∧ 2 ≤ up.hub.instar ∧ up.pow.vinUp = true ∧ role up 0 ≤ 3 ∧
    (getDie (held0 { relDie with instar := 2 }) 0).instar = 2 := by decide +kernel

/-- Cluster 0 asked to go idle at 0; with an instruction running on core 0, or none. -/
def asked (busy : Bool) (t : Nat) : State :=
  { (if busy then run segTask else up) with clusters := [(0, { power := .warm, rstAsk := some t })] }

theorem wit_idle_blocks :
    dieUp (clu 0 .warm 0) 0 = true ∧ (getCluster (clu 0 .warm 0) 0).power = .warm ∧ (getCluster (clu 0 .warm 0) 0).rstAsk = none ∧
    (getCore (clu 0 .warm 0) 0).retired = false ∧ (getCore (clu 0 .warm 0) 0).idleReq = false ∧
    askedAt (asked false 0) (.cluster 0) = some 0 ∧ (asked false 0).cores = [] ∧
    (asked true 0).cores.any (fun e => blockCores (.cluster 0) e.1 && coreActive e.2) = true ∧
    0 + setting (asked false 0) 0x2300 1 * 1000 ≤ (asked false 0).nowNs ∧
    up.nowNs < up.nowNs - setting (asked false 0) 0x2300 1 * 1000 + 1 + setting (asked false 0) 0x2300 1 * 1000 := by decide +kernel
/-! ### Die loss and online service -/

/-- Die 0 with heartbeats at given times on its five paths. -/
def beats (hub : Nat) (bridges : Nat) : State :=
  { up with accord := { up.accord with hb := [(1, bridges), (2, bridges), (3, bridges), (4, hub), (5, hub)] } }
def wd (t : Nat) : State := dieWith { hw with wdAt := some t }
def releasing (rejoin : Bool) (at0 : Nat) : State :=
  { up with dies := [(0, { relDie with rejoin := rejoin, releaseNs := at0 })] }

theorem wit_losses :
    up.por = false ∧ up.coc.restart = false ∧ role up 0 ≤ 3 ∧ tget up.accord.declared 0 = none ∧ stale (beats 0 0) 0 5 = true ∧
    stale (beats up.nowNs 0) 0 5 = false ∧ watched up 0 = true ∧
    ([1, 2, 3].all fun q => stale { beats up.nowNs 0 with accord := { up.accord with hb := [(5, up.nowNs)] } } 0 q) = true ∧
    stale { beats up.nowNs 0 with accord := { up.accord with hb := [(5, up.nowNs)] } } 0 4 = true ∧
    stale { beats up.nowNs 0 with accord := { up.accord with hb := [(5, up.nowNs)] } } 0 5 = false ∧
    stale (beats up.nowNs 0) 0 4 = false ∧
    (getDie (wd 4980000001) 0).wdAt = some 4980000001 ∧ up.nowNs < 4980000001 + 20000000 ∧ 4980000000 + 20000000 ≤ up.nowNs ∧
    watched (wd 4980000001) 0 = true ∧
    (∀ b ∈ [false, true], (getDie (releasing b 0) 0).phase = .running ∧ (getDie (releasing b 0) 0).rejoin = b ∧
      (getDie (releasing b 0) 0).releaseNs + releaseBound (getDie (releasing b 0) 0) + 20000000 < up.nowNs ∧
      up.nowNs ≤ (getDie (releasing b up.nowNs) 0).releaseNs + releaseBound (getDie (releasing b up.nowNs) 0) + 20000000) ∧
    tget { up.accord with declared := [(0, 2)] }.declared 0 = some 2 := by decide +kernel

/-- Ring 5 of die 0, whose die is lost, and ring 5 re-homed to die 1. -/
def rehomed (busy : Bool) : State :=
  { up with rings := [(5, { home := some 1 })], jobs := if busy then [(1, { job1 with ring := 5 })] else [] }

theorem wit_rings :
    up.hub.pause = false ∧ serving (roles 4) (ringHome (roles 4) 1) = false ∧ lowestRing (roles 4) 0 = some 1 ∧
    [0, 1, 2, 3].filter (serving (roles 4)) ≠ [] ∧ serving up (ringHome up 1) = true ∧
    serving (rehomed false) (5 / 2048) = true ∧ (getDie (rehomed false) (5 / 2048)).upd = false ∧
    ringHome (rehomed false) 5 ≠ 5 / 2048 ∧ ringBusy (rehomed false) 5 = false ∧ ringBusy (rehomed true) 5 = true := by
  decide +kernel

def orphan : Group := { grp (fut 0 []) with second := some 1, stopped := true }
def orphanState : State := { roles 4 with groups := [(0, orphan)] }
def cut (j : Job) (a : Bool) : State :=
  { up with jobs := [(1, j)], dict := [(objKey 0x2203 3, 1)], aspaces := if a then [(1, { tableDie := 0 })] else [] }
def cutJob : Job := { job1 with interrupted := some 2 }

theorem wit_moves :
    tget orphanState.groups 0 = some orphan ∧ inAccord orphanState orphan.home = false ∧ serviceUp orphanState 1 = true ∧
    orphan.lc = false ∧ orphanState.groups.all (fun o => !(o.2.stopped && o.2.lc && o.2.second = some 1)) = true ∧
    tget (cut { cutJob with failed := some (1, 1) } true).jobs 1 = some { cutJob with failed := some (1, 1) } ∧
    tget (cut cutJob true).jobs 1 = some cutJob ∧ cutJob.failed = none ∧ tget (cut cutJob false).aspaces 1 = none ∧
    mayRequeue (cut cutJob true) cutJob = true ∧ mayRequeue (cut cutJob true) { cutJob with requeued := true } = false ∧
    tget (cut cutJob true).aspaces 1 ≠ none ∧ requeueReady (cut cutJob true) cutJob = true ∧
    requeueReady { cut cutJob true with accord := (roles 4).accord } cutJob = false ∧
    tget (cut cutJob true).aspaces 1 = some { tableDie := 0 } ∧ successor up 0 = some 1 ∧
    ({ tableDie := 0, copyDie := some 1 } : ASpace).copyDie ≠ none ∧
    (grp (fut 0 [])).stopped = false ∧ (grp (fut 0 [])).second = none ∧ { grp (fut 0 []) with second := some 1 }.second ≠ none := by
  decide +kernel

/-- An imago left DEGRADED by the retirement of die 0; with no room (`tight`) for its repack, and with one under way. -/
def deg (mode : Nat) : Imago := { state := .resident, image := some img0, mode := 2, newMode := mode }
def degState (mode : Nat) : State := { roles 5 with imagos := [(0, deg mode)] }

theorem wit_repack :
    repacking (degState 0) = none ∧ largest (repackable (degState 0)) = some (0, deg 0) ∧
    layoutFits (degState 0) (addedPages (deg 0) (survivors (degState 0) (deg 0)) true) = true ∧
    repacking (degState 3) = some (0, deg 3) ∧
    (takeFrames (degState 3) 0 (addedPages (deg 3) (survivors (degState 3) (deg 3)) true) []).isSome = true := by decide +kernel

/-- An imago with one page on the lost die, its 80 GiB of free memory all below the low water on one die: on die 2 the
parity page does not fit, on die 1 nothing does. -/
def degP : Imago := { deg 0 with pages := [{ va := 0, die := 0, frame := 0 }] }
def noRoom (d : Nat) : State := { roles 5 with imagos := [(0, degP)], dict := [(objKey 0x5800 (d + 1), 80)] }

theorem wit_noRoom : ∀ d ∈ [1, 2], repacking (noRoom d) = none ∧ largest (repackable (noRoom d)) = some (0, degP) ∧
    layoutFits (noRoom d) (addedPages degP (survivors (noRoom d) degP) true) = false ∧
    layoutFits (noRoom d) (addedPages degP (survivors (noRoom d) degP) false) = decide (d = 2) := by decide +kernel

def lostDie (tried : Bool) (t : Nat) : State :=
  { roles 4 with accord := { (roles 4).accord with causes := (roles 4).accord.causes.set 0 4 }
                 dies := tset up.dies 0 { hw with autoTried := tried, lossNs := t } }

theorem wit_rejoin :
    role (lostDie false 4000000000) 0 = 4 ∧ setting (lostDie false 4000000000) 0x2203 2 ≠ 0 ∧
    (getDie (lostDie false 4000000000) 0).rejoin = false ∧ 1 ≤ (lostDie false 4000000000).accord.causes[0] ∧
    (lostDie false 4000000000).accord.causes[0] ≤ 4 ∧
    (getDie (lostDie false 4000000000) 0).lossNs + 1000000000 ≤ up.nowNs ∧
    up.nowNs < (getDie (lostDie false 4000000001) 0).lossNs + 1000000000 ∧ (getDie (lostDie true 0) 0).autoTried = true ∧
    role (roles 3) 0 = 3 ∧ (roles 3).coc.restart = false ∧ (roles 3).imagos = [] := by decide +kernel

def retiring (x : Cluster) : State :=
  { up with dies := tset up.dies 0 { hw with retire := [0] }, clusters := [(0, x)] }
def updDieS (r : Nat) (busy : Bool) : State :=
  { roles r with dies := tset up.dies 0 { hw with upd := true }, cores := if busy then [(0, { be := some task1 })] else [] }

theorem wit_spares :
    0 ∈ (getDie (retiring {}) 0).retire ∧ (getCore (retiring {}) 0).be = none ∧ (getCore (retiring {}) 0).lc = none ∧
    (getCore (retiring {}) 0).spill = none ∧ (getCluster (retiring { spare := 1 }) 0).spare ≠ 0 ∧
    (getCluster (retiring {}) 0).spare = 0 ∧ (getCluster (retiring {}) 0).power ≠ .warm ∧
    (getCluster (retiring { power := .warm }) 0).power = .warm ∧ (getCore up 0).retired = false ∧ 0 ∉ (getDie up 0).retire ∧
    (∀ r ∈ [1, 2], (getDie (updDieS r false) 0).upd = true ∧ role (updDieS r false) 0 = r) ∧
    dieBusy (updDieS 1 true) 0 = true ∧ dieBusy (updDieS 1 false) 0 = false ∧
    (bankImage up 2 (1 - up.coc.prefer.getD 2 0)).ok = true ∧ (bankImage (badBank 2 1) 2 1).ok = false ∧
    (bankImage up 1 (1 - up.coc.prefer.getD 1 0)).ok = true ∧ (bankImage (badBank 1 1) 1 1).ok = false := by decide +kernel

/-! ### The field network, links -/

/-- A frame of 60 bytes to the port from address 2, of the given operation, FRAG and SESSION. -/
def frame (op frag ver session : Nat) : List Byte :=
  (leBytes 6 1).reverse ++ (leBytes 6 2).reverse ++ [0x88, 0xB5] ++ leBytes 1 ver ++ leBytes 1 op ++ leBytes 2 session
    ++ leBytes 4 1 ++ leBytes 2 frag ++ List.replicate 36 0
def netUp : State := { up with fnet := { up.fnet with on := true, mac := 1, ethertype := 0x88B5 } }

theorem wit_frames :
    svcUp netUp = true ∧ up.fnet.on = false ∧ 14 ≤ (frame 1 0 1 0).length ∧ (frame 1 0 1 0).length ≤ 1514 ∧
    netNat (((frame 1 0 1 0).drop 12).take 2) = netUp.fnet.ethertype ∧ (parseFrame (frame 1 0 1 0)).dst = netUp.fnet.mac ∧
    (parseFrame (frame 1 0 1 0)).ok = true ∧ (parseFrame (frame 1 0 0 0)).ok = false ∧
    (parseFrame (frame 0 0 1 0)).op = 0 ∧ (parseFrame (frame 5 0 1 0)).op = 5 ∧
    sessionCheck netUp (parseFrame (frame 1 0 1 9)) = some 3 ∧ sessionCheck netUp (parseFrame (frame 1 0 1 0)) = none ∧
    (parseFrame (frame 1 0 1 0)).off = 0 ∧ (parseFrame (frame 1 0 1 0)).more = false ∧
    (parseFrame (frame 1 0x8000 1 0)).more = true := by decide +kernel

def sess (exp : Nat) : Session := { peer := 2, rights := 7, expiry := exp, key := [] }
def sessions (exp : Nat) : State :=
  { netUp with fnet := { netUp.fnet with sessions := [(1, sess exp)], closes := [1], grants := [(2, 1, [])]
                                         buffers := [(0, { mac := 2, session := 0, seq := 1, op := 2, first := exp })] } }

theorem wit_sessions :
    (sessions 0).fnet.grants = [(2, 1, [])] ∧ grantOk (sessions 0) [] = false ∧ (sessions 0).coc.restart = false ∧
    (sessions 0).fnet.closes = [1] ∧ tget (sessions 0).fnet.sessions 1 = some (sess 0) ∧
    (sess 5000000).expiry ≤ uptimeUs up ∧ uptimeUs up < (sess 5000001).expiry ∧
    ((tget (sessions 4900000000).fnet.buffers 0).map (·.first)) = some 4900000000 ∧
    4900000000 + 100000000 ≤ up.nowNs ∧ up.nowNs < 4900000001 + 100000000 := by decide +kernel

def linkState (l : Nat) (x : Link) : State := { up with links := tset up.links l x }
/-- Every die beats on its always-on link. -/
def alive (s : State) : State := { s with accord := { s.accord with hb := (List.range 4).map fun d => (8 * d + 5, up.nowNs) } }

theorem wit_links :
    (∀ l ∈ [5, 6], (getLink (linkState l {}) l).up = false ∧ (getLink (linkState l {}) l).state ≠ 2 ∧
      linkReady (linkState l {}) l = true) ∧
    spareLanes 5 = 16 ∧ spareLanes 6 = 8 ∧ (getLink (linkState 5 { tries := 1 }) 5).tries < 2 ∧
    2 ≤ (getLink (linkState 5 { tries := 2 }) 5).tries ∧ (getLink (linkState 5 { up := true, retrain := true }) 5).up = true ∧
    (getLink (linkState 5 { up := true, retrain := true }) 5).retrain = true ∧
    (linkEnds 5).all (answersAlwaysOn (alive up)) = true := by decide +kernel

/-- Bridge B01 is DOWN: dies 2 and 3 relay, or die 3 alone, or none. -/
theorem wit_relays :
    linkUp up (bridgeOf 0 1) = true ∧ linkUp (linkState 0 { state := 2 }) (bridgeOf 0 1) = false ∧
    relays (linkState 0 { state := 2 }) 0 1 = [2, 3] ∧
    relays { linkState 0 { state := 2 } with accord := { up.accord with roles := up.accord.roles.set 2 5 } } 0 1 = [3] ∧
    relays { linkState 0 { state := 2 } with accord := { up.accord with roles := (up.accord.roles.set 2 5).set 3 5 } } 0 1 = [] := by
  decide +kernel

/-- A waiting CTRL flit with a credit; one that has had its turn while DATA waited; REQ and DATA; the end of a window. -/
theorem wit_boundaries :
    (∀ x ∈ [({ ctrlWait := 1 } : LinkDir), { ctrlWait := 1, ctrlUsed := 15, dataWait := 1 }], 0 < x.ctrlWait ∧ x.ctrlUsed < 16 ∧
      ¬ (x.windowCtrl = true ∧ 0 < x.dataWait) ∧ x.window < 63) ∧
    (∀ x ∈ [({ ctrlWait := 1, windowCtrl := true, dataWait := 1 } : LinkDir), { ctrlWait := 1, ctrlUsed := 16, dataWait := 1 }],
      ¬ (0 < x.ctrlWait ∧ x.ctrlUsed < 16 ∧ ¬ (x.windowCtrl = true ∧ 0 < x.dataWait)) ∧ 0 < x.dataWait ∧
      ¬ 0 < x.reqWait) ∧
    0 < ({ reqWait := 1 } : LinkDir).reqWait ∧
    ({ ctrlWait := 1, window := 63 } : LinkDir).boundary.ctrlWait ≠ 1 ∧ 8 ≤ ({ io := 8 } : HostTx).io := by decide +kernel

/-- REQ and DATA have at least one credit. -/
theorem wit_credits (c : TrafficClass) : 0 < classCredits c := by cases c <;> simp [classCredits]
/-! ### Values that the manual states -/

/-- The example of R40: FP32 words nearest to 0.8125, 0.3, −0.05 and 0.0625 become codes 7, 4, 9 and 1 under scale 0x7C. -/
theorem test_mxfp4 : mxEncode .mx4 .rne (fun _ => 0)
    ([0x3F500000, 0x3E99999A, 0xBD4CCCCD, 0x3D800000].map (decodeNum .fp32)) = (0x7C, [7, 4, 9, 1], false) := by decide +kernel

/-- The example of R46: 2.9 in a fresh INT4 page gives the scale 0x36A1 and code 7, and 1.0 code 2; then 3.6 raises the scale
to 0x381E with code 7, and the old codes become 6 and 2. -/
theorem test_kvScale :
    groupScale 7 ([0x4039999A, 0x3F800000].map (decodeNum .fp32)) = (0x36A1, 0) ∧
    (quantGroup 7 none ([0x4039999A, 0x3F800000].map (decodeNum .fp32))).codes = [7, 2] ∧
    (quantGroup 7 (some 0x36A1) ([0x40666666].map (decodeNum .fp32))).codes = [7] ∧
    (quantGroup 7 (some 0x36A1) ([0x40666666].map (decodeNum .fp32))).scale = 0x381E ∧
    requant 7 0x36A1 0x381E 7 = 6 ∧ requant 7 0x36A1 0x381E 2 = 2 := by decide +kernel

/-- The example of R120: the operands of the MMAX word, which its opcode makes an MMAX. -/
theorem test_mmaxWord :
    decodeWord 0 (BitVec.ofNat 128 0x1100101400014146051C007008000000)
      = .mmax 0 (BitVec.ofNat 120 0x1100101400014146051C007008000000) none ∧
    let b : Body := BitVec.ofNat 120 0x1100101400014146051C007008000000
    let m := mmaxIns b
    (specAt b m.a, specAt b m.b, specAt b m.sb, specAt b m.c, specAt b m.d)
      = (⟨4, 0, 5⟩, ⟨5, 0, 5⟩, ⟨6, 0, 5⟩, ⟨7, 0, 0⟩, ⟨7, 0, 0⟩) ∧ m.cen = true ∧ m.split = false ∧ m.func = 0 ∧ m.rnd = 0 := by
  decide +kernel

/-- The example of R234: LSE 5.736367 is 0x40B8 in BF16. -/
theorem test_lse : (convertNum .bf16 .rne false 0 (decodeNum .fp32 0x40B79051)).code = 0x40B8 := by decide +kernel

/-- The example of R440: four fields are applied in the order of their numbers, with codes 4, 3, 0 and 0. -/
theorem test_dictWrite :
    let fields := [fw 0x4430 2 2 [8], fw 0x1000 2 13 (0x58 :: List.replicate 31 0), fw 0x4420 1 2 [30], fw 0x4430 1 2 [6]]
    let r := writeRequest up 1 fields
    r.2.map (fun c => (c.index, c.sub, c.code)) = [(0x1000, 2, 4), (0x4420, 1, 3), (0x4430, 1, 0), (0x4430, 2, 0)] ∧
    setting r.1 0x4420 1 = 28 ∧ setting r.1 0x4430 1 = 6 ∧ setting r.1 0x4430 2 = 8 := by decide +kernel
end Sys2Proof.Tests
end

section
/-! The sequencer's LOOP and JMP (R139 to R141) and the opcode map (R112). -/

namespace Sys2Proof.Machine

/-! ### Issue in the sequencer, and branches

How the sequencer issues an instruction of its own (R91): the checks that end the job, and the state that
its effect leaves; and where a branch goes (R139). -/

@[simp] theorem need_true (r : Nat) : need true r = .ok () := rfl

@[simp] theorem need_false (r : Nat) : need false r = .error (failIllegal r) := rfl

theorem wordCheck_ok {b : Body} (wiOk : Bool) (hres : field b 112 3 = 0) (hwi : wiBit b = false) :
    wordCheck b true wiOk = .ok () := by
  simp [wordCheck, hres, hwi, bind, Except.bind]

section
variable {s t : State} {c : Nat} {x : Ctx} {op : BitVec 8} {b : Body} {f : Fail} {word : Res Unit}
  {run : Ctx → State → Res State}

/-- A word that fails its own check ends the job. -/
theorem issueSeq_of_word_error (h : SeqReady s c x op b) (hw : word = .error f) :
    issueSeq op b word run s c = failHere s x f := by
  obtain ⟨hissue, -, hstall, hres, hwi⟩ := h
  simp [issueSeq, hissue, hstall, wordCheck_ok false hres hwi, hw, bind, Except.bind]

/-- An effect that fails ends the job. -/
theorem issueSeq_of_run_error (h : SeqReady s c x op b) (hw : word = .ok ()) (hr : run x s = .error f) :
    issueSeq op b word run s c = failHere s x f := by
  obtain ⟨hissue, -, hstall, hres, hwi⟩ := h
  simp [issueSeq, hissue, hstall, wordCheck_ok false hres hwi, hw, hr, bind, Except.bind]

/-- An instruction whose checks pass leaves the state of its effect. -/
theorem issueSeq_of_run_ok (h : SeqReady s c x op b) (hw : word = .ok ()) (hr : run x s = .ok t) :
    issueSeq op b word run s c = t := by
  obtain ⟨hissue, -, hstall, hres, hwi⟩ := h
  simp [issueSeq, hissue, hstall, wordCheck_ok false hres hwi, hw, hr, bind, Except.bind]

end

theorem branch_inside {s : State} {x : Ctx} {off : Nat} (h0 : 0 ≤ branchTarget x off)
    (h1 : branchTarget x off < x.job.progLen) : branch s x off = goto s x (branchTarget x off).toNat := by
  have hin : ¬(branchTarget x off < 0 ∨ (x.job.progLen : Int) ≤ branchTarget x off) := by omega
  exact if_neg hin

theorem branch_outside {s : State} {x : Ctx} {off : Nat}
    (h : branchTarget x off < 0 ∨ (x.job.progLen : Int) ≤ branchTarget x off) :
    branch s x off = failJob s x.jobn x.core x.task.pc failBounds :=
  if_pos h

/-! ### LOOP

LOOP (R140): what it writes, whether it branches, and the words that end its job. -/

/-- The IMM field of LOOP (R140). -/
def loopImm (b : Body) : Int := toSigned 32 (field b 50 32)

/-- What LOOP writes into ix[CIX], before it is cut to 32 bits: SET, COPY, and the sum of STEP and ADD (R140). -/
def loopValue (x : Ctx) (b : Body) : Int :=
  match field b 102 2 with
  | 1 => loopImm b
  | 3 => ixVal x.ix (field b 104 4) + loopImm b
  | _ => ixVal x.ix (field b 108 4) + loopImm b

/-- The state of LOOP before it goes on or branches: ix[CIX] is written and DONE_SEM is added. -/
def loopWritten (s : State) (x : Ctx) (b : Body) : State :=
  seqDone x b (setIx s x (field b 108 4) (loopValue x b))

/-- A STEP goes round again (R140): the value that it wrote has not reached the limit, which is that value itself where
LIX is CIX. -/
def LoopTaken (x : Ctx) (b : Body) : Prop :=
  let cur := toSigned 32 (ofSigned 32 (loopValue x b))
  let lim := if field b 104 4 = field b 108 4 then cur else ixVal x.ix (field b 104 4)
  field b 102 2 = 0 ∧ ((0 < loopImm b ∧ cur < lim) ∨ (loopImm b < 0 ∧ lim < cur))

/-- A set bit of LOOP's reserved field, or a STEP by zero (R140, R148). -/
def LoopReserved (b : Body) : Prop := field b 0 50 ≠ 0 ∨ (field b 102 2 = 0 ∧ loopImm b = 0)

section
variable {c : CoreNo} {b : Body} {s : State} {x : Ctx}

theorem loopWritten_set (hm : field b 102 2 = 1) :
    loopWritten s x b = seqDone x b (setIx s x (field b 108 4) (loopImm b)) := by
  simp only [loopWritten, loopValue, hm]

theorem loopWritten_copy (hm : field b 102 2 = 3) :
    loopWritten s x b = seqDone x b (setIx s x (field b 108 4) (ixVal x.ix (field b 104 4) + loopImm b)) := by
  simp only [loopWritten, loopValue, hm]

theorem loopValue_sum (hm : field b 102 2 = 0 ∨ field b 102 2 = 2) :
    loopValue x b = ixVal x.ix (field b 108 4) + loopImm b := by
  rcases hm with hm | hm <;> simp only [loopValue, hm]

theorem loopWritten_sum (hm : field b 102 2 = 0 ∨ field b 102 2 = 2) :
    loopWritten s x b = seqDone x b (setIx s x (field b 108 4) (ixVal x.ix (field b 108 4) + loopImm b)) := by
  rw [loopWritten, loopValue_sum hm]

theorem not_loopReserved (hz : field b 0 50 = 0) (hi : field b 102 2 = 0 → loopImm b ≠ 0) : ¬LoopReserved b :=
  not_or.mpr ⟨not_not.mpr hz, fun hmi => hi hmi.1 hmi.2⟩

/-- A STEP that goes round again does not add zero. -/
theorem loopImm_ne_zero_of_taken (ht : LoopTaken x b) : loopImm b ≠ 0 := by
  obtain ⟨-, hlim⟩ := ht
  omega

/-- LOOP's own check passes the words that are not reserved. -/
theorem loopGood_iff : (decide (field b 0 50 = 0) && (decide (field b 102 2 ≠ 0)
    || decide (toSigned 32 (field b 50 32) ≠ 0))) = true ↔ ¬LoopReserved b := by
  simp [LoopReserved, loopImm, imp_iff_not_or]

theorem loopWord_ok (h : ¬LoopReserved b) :
    need (field b 0 50 = 0 && (field b 102 2 ≠ 0 || toSigned 32 (field b 50 32) ≠ 0)) 0x02 = .ok () := by
  rw [loopGood_iff.mpr h, need_true]

theorem exec_loop_reserved (h : SeqReady s c x 0xB0 b) (hr : LoopReserved b) :
    exec (.loop c b) s = .next (failHere s x (failIllegal 0x02)) := by
  refine congrArg Host.Outcome.next (issueSeq_of_word_error h ?_)
  rw [Bool.eq_false_iff.mpr (mt loopGood_iff.mp (not_not.mpr hr)), need_false]

theorem exec_loop_ix0 (h : SeqReady s c x 0xB0 b) (hr : ¬LoopReserved b) (hc : field b 108 4 = 0) :
    exec (.loop c b) s = .next (failHere s x (failIllegal 0x07)) :=
  congrArg Host.Outcome.next (issueSeq_of_run_error h (loopWord_ok hr) (by simp [hc, bind, Except.bind]))

theorem exec_loop_branch (h : SeqReady s c x 0xB0 b) (hr : ¬LoopReserved b) (hc : field b 108 4 ≠ 0) (ht : LoopTaken x b) :
    exec (.loop c b) s = .next (branch (loopWritten s x b) x (field b 82 20)) := by
  refine congrArg Host.Outcome.next (issueSeq_of_run_ok h (loopWord_ok hr) ?_)
  rw [decide_eq_true hc, need_true]
  exact if_pos ht

theorem exec_loop_next (h : SeqReady s c x 0xB0 b) (hr : ¬LoopReserved b) (hc : field b 108 4 ≠ 0) (ht : ¬LoopTaken x b) :
    exec (.loop c b) s = .next (nextPc (loopWritten s x b) x) := by
  refine congrArg Host.Outcome.next (issueSeq_of_run_ok h (loopWord_ok hr) ?_)
  rw [decide_eq_true hc, need_true]
  exact if_neg ht

/-- Every MODE but STEP goes on. -/
theorem exec_loop_of_mode_ne (h : SeqReady s c x 0xB0 b) (hz : field b 0 50 = 0) (hc : field b 108 4 ≠ 0)
    (hm : field b 102 2 ≠ 0) : exec (.loop c b) s = .next (nextPc (loopWritten s x b) x) :=
  exec_loop_next h (not_loopReserved hz (absurd · hm)) hc fun ht => hm ht.1

end

/-- Settles O10: the words that end the job, then each MODE by what it writes, and STEP by its branch. -/
theorem loopUpdatesAndBranches : Obligations.LoopUpdatesAndBranches := by
  intro c b s x h cix lix mode imm write sum v lim taken tgt
  have taken_iff (hm : mode = 0) : LoopTaken x b ↔ taken := by
    rw [LoopTaken, loopValue_sum (.inl hm)]
    exact and_iff_right hm
  have step_branches (hz : field b 0 50 = 0) (hc : cix ≠ 0) (hm : mode = 0) (ht : taken) :
      exec (.loop c b) s = .next (branch (write sum) x (field b 82 20)) := by
    have ht := (taken_iff hm).mpr ht
    have := exec_loop_branch h (not_loopReserved hz fun _ => loopImm_ne_zero_of_taken ht) hc ht
    rwa [loopWritten_sum (.inl hm)] at this
  refine ⟨exec_loop_reserved h, fun hz hi => exec_loop_ix0 h (not_loopReserved hz hi),
    fun hz hc => ⟨fun hm => ?set, fun hm => ?add, fun hm => ?copy, fun hm hi ht => ?stepNext,
      fun hm ht h0 h1 => ?stepBranch, fun hm ht hout => ?stepOutside⟩⟩
  case set => rw [exec_loop_of_mode_ne h hz hc (by omega), loopWritten_set hm]; rfl
  case add => rw [exec_loop_of_mode_ne h hz hc (by omega), loopWritten_sum (.inr hm)]; rfl
  case copy => rw [exec_loop_of_mode_ne h hz hc (by omega), loopWritten_copy hm]; rfl
  case stepNext =>
    rw [exec_loop_next h (not_loopReserved hz fun _ => hi) hc (mt (taken_iff hm).mp ht), loopWritten_sum (.inl hm)]; rfl
  case stepBranch => rw [step_branches hz hc hm ht, branch_inside h0 h1]
  case stepOutside => rw [step_branches hz hc hm ht, branch_outside hout]

/-! ### JMP

JMP (R141): when it branches, where, and the words that end its job. -/

section
variable {c : CoreNo} {b : Body} {s : State} {x : Ctx}

/-- An assigned CMP compares as EQ, NE, LT and GE do (R141). -/
theorem cmpHolds_iff {cmp : Nat} (hcmp : cmp < 4) (a d : Int) : cmpHolds cmp a d = true ↔
    (cmp = 0 ∧ a = d) ∨ (cmp = 1 ∧ a ≠ d) ∨ (cmp = 2 ∧ a < d) ∨ (cmp = 3 ∧ d ≤ a) := by
  interval_cases cmp <;> simp [cmpHolds]

/-- JMP does not go on to the next instruction: it is unconditional, or its comparison holds (R141). -/
def JmpTaken (x : Ctx) (b : Body) : Prop :=
  bit b 91 = false ∨ cmpHolds (field b 88 3) (ixVal x.ix (field b 84 4)) (ixVal x.ix (field b 80 4)) = true

theorem not_jmpTaken_iff : ¬JmpTaken x b ↔
    bit b 91 = true ∧ (!cmpHolds (field b 88 3) (ixVal x.ix (field b 84 4)) (ixVal x.ix (field b 80 4))) = true := by
  simp [JmpTaken]

theorem jmpWord_ok (hz : field b 0 79 = 0) (hcmp : field b 88 3 < 4) :
    need (field b 0 79 = 0 && field b 88 3 < 4) 0x02 = .ok () := by
  rw [decide_eq_true hz, decide_eq_true hcmp, Bool.and_self, need_true]

theorem exec_jmp_reserved (h : SeqReady s c x 0xB1 b) (hr : field b 0 79 ≠ 0 ∨ 4 ≤ field b 88 3) :
    exec (.jmp c b) s = .next (failHere s x (failIllegal 0x02)) := by
  refine congrArg Host.Outcome.next (issueSeq_of_word_error h ?_)
  rcases hr with hz | hcmp
  · rw [decide_eq_false hz, Bool.false_and, need_false]
  · rw [decide_eq_false (not_lt.mpr hcmp), Bool.and_false, need_false]

theorem exec_jmp_next (h : SeqReady s c x 0xB1 b) (hz : field b 0 79 = 0) (hcmp : field b 88 3 < 4) (hn : ¬JmpTaken x b) :
    exec (.jmp c b) s = .next (nextPc (seqDone x b s) x) :=
  congrArg Host.Outcome.next (issueSeq_of_run_ok h (jmpWord_ok hz hcmp) (if_pos (not_jmpTaken_iff.mp hn)))

theorem exec_jmp_end (h : SeqReady s c x 0xB1 b) (hz : field b 0 79 = 0) (hcmp : field b 88 3 < 4) (ht : JmpTaken x b)
    (he : bit b 79 = true) : exec (.jmp c b) s = .next (updTask (seqDone x b s) x.core x.task.lc fun t =>
      { t with ended := true, endNs := some (seqDone x b s).nowNs }) :=
  congrArg Host.Outcome.next (issueSeq_of_run_ok h (jmpWord_ok hz hcmp)
    ((if_neg fun hn => not_jmpTaken_iff.mpr hn ht).trans (if_pos he)))

theorem exec_jmp_branch (h : SeqReady s c x 0xB1 b) (hz : field b 0 79 = 0) (hcmp : field b 88 3 < 4) (ht : JmpTaken x b)
    (he : bit b 79 = false) : exec (.jmp c b) s = .next (branch (seqDone x b s) x (field b 92 20)) :=
  congrArg Host.Outcome.next (issueSeq_of_run_ok h (jmpWord_ok hz hcmp)
    ((if_neg fun hn => not_jmpTaken_iff.mpr hn ht).trans (if_neg (Bool.eq_false_iff.mp he))))

end

/-- Settles O11: the words that end the job, then JMP by its condition, by END and by its target. -/
theorem jmpBranchesOrEnds : Obligations.JmpBranchesOrEnds := by
  intro c b s x h a d holds go s1 tgt
  refine ⟨exec_jmp_reserved h, fun hz hcmp => ?_⟩
  have taken_iff : JmpTaken x b ↔ go := or_congr_right (cmpHolds_iff hcmp a d)
  refine ⟨fun hn => ?next, fun hg he => ?ends, fun hg he h0 h1 => ?branch, fun hg he hout => ?outside⟩
  case next => exact exec_jmp_next h hz hcmp (mt taken_iff.mp hn)
  case ends => exact exec_jmp_end h hz hcmp (taken_iff.mpr hg) he
  case branch => rw [exec_jmp_branch h hz hcmp (taken_iff.mpr hg) he, branch_inside h0 h1]
  case outside => rw [exec_jmp_branch h hz hcmp (taken_iff.mpr hg) he, branch_outside hout]

/-! ### The opcode map

The opcode map (R112): the command that a word's opcode picks, and the opcodes outside the map. -/

/-- The opcodes that the model takes as assigned are those of R112's table. -/
theorem assigned_eq_contains : ∀ op : BitVec 8, assigned op = opcodesOfTable.contains op := by decide

theorem exec_unassignedOpcode {s : State} {c : CoreNo} {x : Ctx} (op : BitVec 8) (b : Body) (h : issueCtx s c = some x) :
    exec (.unassignedOpcode c op b) s = .next (if assigned op then s else failHere s x (failIllegal 0x01)) := by
  simp only [exec, execUnassignedOpcode, h]

/-- The word of an opcode outside the map spells UNASSIGNED_OPCODE. -/
theorem decodeWord_of_unassigned (c : CoreNo) (w : BitVec 128) (h : opcodesOfTable.contains (opcodeOf w) = false) :
    decodeWord c w = .unassignedOpcode c (opcodeOf w) (bodyOf w) := by
  have hne : ∀ op ∈ opcodesOfTable, (opcodeOf w).toNat ≠ op.toNat := fun op hop he => by
    rw [BitVec.eq_of_toNat_eq he, List.contains_iff_mem.mpr hop] at h
    cases h
  simp only [opcodesOfTable, List.mem_cons, List.not_mem_nil, or_false, forall_eq_or_imp, forall_eq, BitVec.ofNat_eq_ofNat,
    BitVec.toNat_ofNat, Nat.reducePow, Nat.reduceMod, ne_eq] at hne
  simp [decodeWord, hne]

theorem decodeWord_drop (c : CoreNo) (w : BitVec 128) (h : (opcodeOf w).toNat = 0xC1) :
    decodeWord c w = if w.getLsbD 107 then .dropTrunc c (bodyOf w) else .drop c (bodyOf w) := by
  rw [decodeWord, h]
  rfl

/-- Settles O15: the two answers of UNASSIGNED_OPCODE, the rows of the map one by one, and the opcodes outside it. -/
theorem unassignedOpcodeEndsTheJob : Obligations.UnassignedOpcodeEndsTheJob := by
  refine ⟨fun c op b s x h => ⟨fun hop => ?outside, fun hop => ?inside⟩, fun c w => ⟨?rows, decodeWord_drop c w,
    decodeWord_of_unassigned c w⟩⟩
  case outside => simp only [exec_unassignedOpcode op b h, assigned_eq_contains, hop, Bool.false_eq_true, if_false]
  case inside => simp only [exec_unassignedOpcode op b h, assigned_eq_contains, hop, if_true]
  case rows =>
    simp only [List.mem_cons, List.not_mem_nil, or_false, forall_eq_or_imp, forall_eq]
    and_intros
    all_goals
      intro h
      simp only [decodeWord, opcodeOf, h]

end Sys2Proof.Machine
end

section
/-! The sequencer's SKIPL, CNTA, WAIT, SIG and BAR (R133, R136, R137, R156). -/

namespace Sys2Proof.Machine

/-! ### SKIPL -/

section
variable {c : CoreNo} {b : Body} {s : State} {x : Ctx}

/-- The body of SKIPL is noted as being skipped (R156 step 5). -/
def skiplSkip (x : Ctx) (b : Body) (zero : Bool) (s : State) : State :=
  updTask s x.core x.task.lc fun t =>
    { t with skips := { lo := t.pc + 1, hi := t.pc + 1 + field b 68 16, zero := zero } :: t.skips }

/-- What an empty length raises (R156 step 3). -/
def skiplEmpty (x : Ctx) (s : State) : State := bump (raiseOk s x.jobn 1) 0xE045 (coreDie x.core + 1) 1

/-- SKIPL on a register whose clamped length is `len` (R156 steps 3 to 5), `u` the state that the clamp left. -/
theorem exec_skipl_of_clamped (h : SeqReady s c x 0xB2 b) (hz : field b 0 52 = 0) (hcount : field b 68 16 ≠ 0)
    (hsize : field b 52 16 ≠ 0) (hne : field b 108 4 ≠ field b 104 4) {len : Int} {u : State}
    (hlen : len = if ixVal x.ix (field b 104 4) < 0 then 0
      else if (field b 84 20 : Int) < ixVal x.ix (field b 104 4) then (field b 84 20 : Int) else ixVal x.ix (field b 104 4))
    (hu : u = if ixVal x.ix (field b 104 4) < 0 then
        skiplClamp x s (field b 104 4) (ixVal x.ix (field b 104 4)) 0 (field b 84 20)
      else if (field b 84 20 : Int) < ixVal x.ix (field b 104 4) then
        skiplClamp x s (field b 104 4) (ixVal x.ix (field b 104 4)) (field b 84 20) (field b 84 20) else s) :
    exec (.skipl c b) s = .next (nextPc (seqDone x b
      (if ixVal x.ix (field b 108 4) < 0 ∨ len ≤ ixVal x.ix (field b 108 4) * field b 52 16 then
        skiplSkip x b (decide (len = 0)) (if len = 0 then skiplEmpty x u else u)
      else if len = 0 then skiplEmpty x u else u)) x) := by
  subst hlen hu
  refine congrArg Host.Outcome.next (issueSeq_of_run_ok h ?word ?run)
  case word => simp [hz, hcount, hsize]
  case run => simp only [if_neg hne]; rfl

end

/-- Settles O12: the clamped length picks the clause. -/
theorem skiplSkipsAndClamps : Obligations.SkiplSkipsAndClamps := by
  refine ⟨fun c b s x h hz hcount hsize hne => ?inRange, fun c b s x h hz hcount hsize hne htile => ?clamped⟩
  case inRange =>
    intro len tile h1 hmax
    have key := exec_skipl_of_clamped h hz hcount hsize hne (len := len) (u := s)
      (by rw [if_neg (by omega), if_neg (by omega)]) (by rw [if_neg (by omega), if_neg (by omega)])
    rw [if_neg (by omega : len ≠ 0), decide_eq_false (by omega : len ≠ 0)] at key
    exact ⟨fun hskip => key.trans (by rw [if_pos hskip]; rfl),
      fun h0 hrun => key.trans (by rw [if_neg (show ¬(tile < 0 ∨ len ≤ tile * field b 52 16) by omega)])⟩
  case clamped =>
    intro len lix pmax skipped empty
    have key {l : Int} {u : State} := exec_skipl_of_clamped h hz hcount hsize hne (len := l) (u := u)
    have hprod : 0 ≤ ixVal x.ix (field b 108 4) * field b 52 16 := by positivity
    refine ⟨fun hlow => ?low, fun hzero => ?zero, fun hhigh hpos hskip => ?high⟩
    case low =>
      rw [key (l := 0) (by rw [if_pos hlow]) rfl, if_pos (.inr hprod), if_pos rfl, decide_eq_true rfl, if_pos hlow]
      rfl
    case zero =>
      rw [key (l := 0) (u := s) (by rw [if_neg (by omega), if_neg (by omega)]; exact hzero.symm)
        (by rw [if_neg (by omega), if_neg (by omega)]), if_pos (.inr hprod), if_pos rfl, decide_eq_true rfl]
      rfl
    case high =>
      have hn : ¬len < 0 := by omega
      rw [key (l := pmax) (by rw [if_neg hn, if_pos hhigh]) rfl, if_pos (.inr hskip), if_neg (by omega),
        decide_eq_false (by omega), if_neg hn, if_pos hhigh]
      rfl

/-! ### CNTA -/

/-- CNTA that claims: the word is added to, and the value read decides where it goes on (R133). -/
theorem exec_cnta {c : CoreNo} {b : Body} {s s1 : State} {x : Ctx} {va old : Nat} (h : SeqReady s c x 0x81 b)
    (hz : field b 0 54 = 0) (hinc : field b 74 16 ≠ 0) (hdix : field b 94 4 ≠ 0) (hne : field b 90 4 ≠ field b 94 4)
    (hva : counterVa x b 98 = .ok va) (hadd : memAdd32 s x.job.asid va (field b 74 16) = .ok (old, s1)) :
    exec (.cnta c b) s = .next (if ixVal x.ix (field b 90 4) ≤ toSigned 32 old then
        branch (seqDone x b (setIx s1 x (field b 94 4) (toSigned 32 old))) x (field b 54 20)
      else nextPc (seqDone x b (setIx s1 x (field b 94 4) (toSigned 32 old))) x) := by
  refine congrArg Host.Outcome.next (issueSeq_of_run_ok h ?word ?run)
  case word => simp [hz, hinc]
  case run =>
    simp only [hdix, hva, hadd, hne, decide_true, ne_eq, not_false_eq_true, need_true, bind, Except.bind, if_false]
    split <;> rfl

/-- Settles O13: ix0 as DIX ends the job, and else the value claimed is compared with the work count. -/
theorem cntaClaimsWork : Obligations.CntaClaimsWork := by
  intro c b s x h hz hinc
  refine ⟨fun hdix => ?ix0, fun va old s1 hdix hne hva hadd => ?claim⟩
  case ix0 =>
    refine congrArg Host.Outcome.next (issueSeq_of_run_error h ?_ ?_)
    · simp [hz, hinc]
    · simp [hdix, bind, Except.bind]
  case claim =>
    intro v s2 tgt
    refine ⟨fun hlt => ?goesOn, fun hle h0 h1 => ?exits⟩
    case goesOn => rw [exec_cnta h hz hinc hdix hne hva hadd, if_neg (not_le.mpr hlt)]
    case exits => rw [exec_cnta h hz hinc hdix hne hva hadd, if_pos hle, branch_inside h0 h1]

/-! ### WAIT, SIG and BAR -/

/-- The context in which a core issues is the core's own, and its job that of its task. -/
theorem issueCtx_eq {s : State} {c : Nat} {x : Ctx} (h : issueCtx s c = some x) :
    x.core = c ∧ x.jobn = x.task.job ∧ tget s.jobs x.task.job = some x.job ∧ x.ix = x.task.ix := by
  simp only [issueCtx] at h
  repeat' split at h
  all_goals cases h
  exact ⟨rfl, rfl, ‹_›, rfl⟩

/-- The task while it waits for `w`. -/
def waitingTask (s : State) (b : Body) (w : Blocked) (t : Task) : Task :=
  { t with blocked := some w, since := s.nowNs, waitDone := doneSem b }

section
variable {c : Nat} {op : BitVec 8} {b : Body} {s : State} {x : Ctx} {w : Blocked}

/-- A wait begins by looking at once whether it holds. -/
theorem beginWait_eq_poke : beginWait s x b w = poke (updTask s x.core x.task.lc (waitingTask s b w)) x.core x.task.lc := rfl

theorem getTask_waiting (h : SeqReady s c x op b) :
    getTask (updTask s x.core x.task.lc (waitingTask s b w)) x.core x.task.lc = some (waitingTask s b w x.task) := by
  obtain ⟨hissue, htask, -⟩ := h
  obtain ⟨rfl, -⟩ := issueCtx_eq hissue
  rw [updTask_some htask, getTask_setTask]

end

section
variable {s : State} {c n cnt va bid np : Nat} {lc : Bool} {t : Task}

theorem poke_sem_reached (h : getTask s c lc = some t) (hb : t.blocked = some (.sem n cnt))
    (hv : cnt ≤ (t.sem.getD n 0).toNat) : poke s c lc = finishWait (updTask s c lc fun u =>
      { u with sem := u.sem.setIfInBounds n (BitVec.ofNat 16 ((t.sem.getD n 0).toNat - cnt)) }) c lc true := by
  simp only [poke, h, hb, if_pos hv]

theorem poke_sem_below (h : getTask s c lc = some t) (hb : t.blocked = some (.sem n cnt))
    (hv : (t.sem.getD n 0).toNat < cnt) : poke s c lc = s := by
  simp only [poke, h, hb, if_neg (not_le.mpr hv)]

theorem poke_watch {least : Int} {held met : Bool} (h : getTask s c lc = some t)
    (hb : t.blocked = some (.watch va least held met)) : poke s c lc = s := by
  simp only [poke, h, hb]

theorem poke_sigSem (h : getTask s c lc = some t) (hb : t.blocked = some (.sigSem n cnt)) (hq : quiet t = true) :
    poke s c lc = semAdd (finishWait s c lc true) c lc t.pc n cnt := by
  simp only [poke, h, hb, if_pos hq]

theorem poke_sigMem (h : getTask s c lc = some t) (hb : t.blocked = some (.sigMem va cnt)) (hq : quiet t = true) :
    poke s c lc = finishWait (updTask s c lc fun t =>
      { t with sigAdds := t.sigAdds ++ [(va, cnt, t.waitDone, t.pc)] }) c lc false := by
  simp only [poke, h, hb, if_pos hq]

theorem poke_barPre (h : getTask s c lc = some t) (hb : t.blocked = some (.barPre bid np)) :
    poke s c lc = if quiet t then arrive s c lc t bid np else s := by
  simp only [poke, h, hb]

end

section
variable {c : CoreNo} {b : Body} {s : State} {x : Ctx}

theorem exec_wait_sem (h : SeqReady s c x 0xA0 b) (hz : field b 0 73 = 0) (hm : bit b 111 = false) (hn : field b 107 4 ≠ 0) :
    exec (.wait c b) s = .next (beginWait s x b (.sem (field b 107 4) (field b 91 16))) := by
  refine congrArg Host.Outcome.next (issueSeq_of_run_ok h ?_ ?_) <;> simp [hz, hm, hn, bind, Except.bind, pure, Except.pure]

/-- WAIT on a counter word goes on where the word has reached the value, and else begins to wait (R136). -/
theorem exec_wait_counter (h : SeqReady s c x 0xA0 b) (hz : field b 0 73 = 0) (hm : bit b 111 = true) {va : Nat} {v : Int}
    (hva : counterVa x b 77 = .ok va) (hv : counterAt s x.job.asid va = .ok v) :
    exec (.wait c b) s = .next (if ixVal x.ix (field b 73 4) ≤ v then seqDone x b (nextPc s x)
      else beginWait s x b (.watch va (ixVal x.ix (field b 73 4)) (watchFree s x.job.asid va) false)) := by
  refine congrArg Host.Outcome.next (issueSeq_of_run_ok h ?_ ?_)
  · simp [hz]
  · simp only [hm, hva, hv, bind, Except.bind, if_true]
    split <;> rfl

theorem exec_sig_sem (h : SeqReady s c x 0xA1 b) (hz : field b 0 77 = 0) (hm : bit b 111 = false) (hn : field b 107 4 ≠ 0) :
    exec (.sig c b) s = .next (beginWait s x b (.sigSem (field b 107 4) (field b 91 16))) := by
  refine congrArg Host.Outcome.next (issueSeq_of_run_ok h ?_ ?_) <;> simp [hz, hm, hn, bind, Except.bind, pure, Except.pure]

theorem exec_sig_counter (h : SeqReady s c x 0xA1 b) (hz : field b 0 77 = 0) (hm : bit b 111 = true) {va : Nat}
    (hva : counterVa x b 77 = .ok va) : exec (.sig c b) s = .next (beginWait s x b (.sigMem va (field b 91 16))) := by
  refine congrArg Host.Outcome.next (issueSeq_of_run_ok h ?_ ?_) <;> simp [hz, hm, hva, bind, Except.bind, pure, Except.pure]

theorem exec_bar (h : SeqReady s c x 0xA2 b) (hz : field b 0 92 = 0) :
    exec (.bar c b) s = .next (beginWait s x b (.barPre (field b 108 4) (field b 92 16))) :=
  congrArg Host.Outcome.next (issueSeq_of_run_ok h (by simp [hz]) rfl)

end

/-- Settles O14: each instruction begins its wait, and the wait is looked at once. -/
theorem waitSigAndBarSynchronise : Obligations.WaitSigAndBarSynchronise := by
  refine ⟨fun c b s x h hz => ?wait, fun c b s x h hz hq => ?sig, fun c b s x h hz => ?bar⟩
  case wait =>
    intro n blocked
    refine ⟨fun hm hn hv => ?reached, fun hm hn hv => ?below, fun va v hm hva hv hle => ?counter,
      fun va v hm hva hv hlt => ?watch, fun hm hn => ?sem0⟩
    case reached =>
      rw [exec_wait_sem h hz hm hn, beginWait_eq_poke, poke_sem_reached (getTask_waiting h) rfl hv]
      rfl
    case below => rw [exec_wait_sem h hz hm hn, beginWait_eq_poke, poke_sem_below (getTask_waiting h) rfl hv]; rfl
    case counter => rw [exec_wait_counter h hz hm hva hv, if_pos hle]
    case watch =>
      rw [exec_wait_counter h hz hm hva hv, if_neg (not_le.mpr hlt), beginWait_eq_poke, poke_watch (getTask_waiting h) rfl]
      rfl
    case sem0 =>
      refine congrArg Host.Outcome.next (issueSeq_of_run_error h ?_ ?_)
      · simp [hz]
      · simp [hm, show field b 107 4 = 0 from hn, bind, Except.bind]
  case sig =>
    intro blocked
    refine ⟨fun hm hn => ?sem, fun va hm hva => ?counter⟩
    case sem => rw [exec_sig_sem h hz hm hn, beginWait_eq_poke, poke_sigSem (getTask_waiting h) rfl hq]; rfl
    case counter => rw [exec_sig_counter h hz hm hva, beginWait_eq_poke, poke_sigMem (getTask_waiting h) rfl hq]; rfl
  case bar =>
    intro w t1 s1
    have hs1 : s1 = updTask s x.core x.task.lc (waitingTask s b w) := by
      obtain ⟨hissue, htask, -⟩ := h
      rw [← (issueCtx_eq hissue).1] at htask
      simp only [s1, updTask_some htask]
      rfl
    rw [exec_bar h hz, beginWait_eq_poke, poke_barPre (getTask_waiting h) rfl, ← hs1]
    have hquiet : quiet (waitingTask s b w x.task) = quiet x.task := rfl
    rw [hquiet]
    exact ⟨fun hq => by rw [if_pos hq]; rfl, fun hq => by rw [if_neg (Bool.eq_false_iff.mp hq)]⟩

end Sys2Proof.Machine
end

section
/-! The issue and the start of the instructions of the two engines (R91, R94, R165 to R167, R73). -/

namespace Sys2Proof.Machine

/-! ### A task that is there -/

section
variable {s : State} {c : Nat} {lc : Bool} {t : Task} {f g : Task → Task}

theorem getTask_updTask (h : getTask s c lc = some t) : getTask (updTask s c lc f) c lc = some (f t) := by
  rw [updTask_some h, getTask_setTask]

theorem updTask_jobs : (updTask s c lc f).jobs = s.jobs := by
  unfold updTask
  split <;> rfl

theorem getCore_updTask_rampDue : (getCore (updTask s c lc f) c).rampDue = (getCore s c).rampDue := by
  unfold updTask
  split
  · simp only [setTask, updCore, getCore_setCore, if_true]
    split <;> rfl
  · rfl

end

@[simp] theorem queueOf_setQueue (t : Task) (exe : Bool) (q : List QEntry) : queueOf (setQueue t exe q) exe = q := by
  cases exe <;> rfl

/-! ### The word of an engine instruction -/

/-- The words that pass the checks of R107 and R111. -/
theorem wordCheck_passes {b : Body} {wiOk : Bool} (hres : field b 112 3 = 0) (hwi : wiBit b = true → wiOk = true) :
    wordCheck b true wiOk = .ok () := by
  have hw : (wiOk || !wiBit b) = true := by
    cases h : wiBit b
    · exact Bool.or_true _
    · rw [hwi h, Bool.true_or]
  simp only [wordCheck, hres, hw, decide_true, Bool.and_self, need_true, bind, Except.bind]

theorem wordCheck_reserved {b : Body} (wiOk : Bool) (hres : field b 112 3 ≠ 0) :
    wordCheck b true wiOk = .error (failIllegal 0x02) := by
  simp [wordCheck, hres, bind, Except.bind]

/-- An instruction of an engine is issued, and the check of its own bits is what its form says of them. -/
theorem exec_engineForms {i : Instr} {c : CoreNo} {b : Body} {f : EngineForm} (s : State) (hf : engineForms i = some (c, b, f))
    (hgood : f.good = true) : ∃ word : Ctx → Res Unit, (∀ x, f.look x = .ok () → word x = .ok ()) ∧
      exec i s = .next (issueEngine f.exe f.op b f.fault f.order f.wiOk word f.effect false s c) := by
  cases i
  all_goals try cases hf
  case ldt => exact ⟨_, fun _ h => h, rfl⟩
  case drop | dropTrunc =>
    obtain ⟨hz, hbit⟩ := Bool.and_eq_true_iff.mp hgood
    exact ⟨fun _ => need (decide (field b 0 103 = 0)) 0x02, fun _ _ => by rw [hz, need_true], by
      simp_all [exec, execDrop, execDropTrunc]⟩
  case fork | nms =>
    simp only [Bool.and_eq_true] at hgood
    exact ⟨_, fun _ _ => by simp [hgood, bind, Except.bind], rfl⟩
  all_goals exact ⟨_, fun _ _ => congrArg (need · 0x02) hgood, rfl⟩

theorem fetchForm_engine {i : Instr} {p : CoreNo × Body × EngineForm} (h : fetchForm i = some p) : engineForms i = some p := by
  simp only [engineForms, h]

theorem computeForm_engine {i : Instr} {p : CoreNo × Body × EngineForm} (h : computeForm i = some p) : engineForms i = some p := by
  cases i <;> first | exact h | cases h

theorem sequenceForm_engine {i : Instr} {p : CoreNo × Body × EngineForm} (h : sequenceForm i = some p) : engineForms i = some p := by
  cases i <;> first | exact h | cases h

/-! ### Issue -/

section
variable {s : State} {c : Nat} {x : Ctx} {b : Body} {exe : Bool} {op : BitVec 8} {fault : Option Nat} {order : List Nat}
  {wiOk ident : Bool} {word : Ctx → Res Unit} {f : Effect} {e : QEntry}

/-- An instruction whose word and operands are right enters its queue, issue goes on behind it, and it is tried at once
(R91, R92). -/
theorem issueEngine_eq_tryStart (hissue : issueCtx s c = some x) (hskip : (liveSkips x.task).isEmpty = !ident)
    (hroom : (queueOf x.task exe).length < queueCap x.task.lc exe) (hstall : ixStalls x.task op b = false)
    (hword : wordCheck b true wiOk = .ok ()) (hown : word x = .ok ())
    (hlook : issueLook f x { uid := s.seq, pc := x.task.pc, op := op, body := b, ix := x.task.ix, ident := ident,
                             fault := fault, order := order } s = .ok e) :
    issueEngine exe op b fault order wiOk word f ident s c =
      (tryStart f (queuedState s x exe e) c x.task.lc exe (queueOf x.task exe).length).1 := by
  have hcore := (issueCtx_eq hissue).1
  simp only [issueEngine, hissue, hskip, not_le.mpr hroom, hstall, hword, hown, hlook, bind, Except.bind, queuedState, hcore]
  simp

/-- A full queue holds issue (R91). -/
theorem issueEngine_of_full (hissue : issueCtx s c = some x) (hfull : queueCap x.task.lc exe ≤ (queueOf x.task exe).length) :
    issueEngine exe op b fault order wiOk word f ident s c = s := by
  simp [issueEngine, hissue, hfull]

/-- A common reserved bit ends the job (R107). -/
theorem issueEngine_of_reserved (hissue : issueCtx s c = some x) (hskip : (liveSkips x.task).isEmpty = !ident)
    (hroom : (queueOf x.task exe).length < queueCap x.task.lc exe) (hstall : ixStalls x.task op b = false)
    (hres : field b 112 3 ≠ 0) :
    issueEngine exe op b fault order wiOk word f ident s c = failHere s x (failIllegal 0x02) := by
  simp [issueEngine, hissue, hskip, hroom, hstall, wordCheck_reserved wiOk hres, bind, Except.bind]

end

/-! ### The queue after issue -/

section
variable {s : State} {c : Nat} {x : Ctx} {exe : Bool} {e : QEntry}

/-- The task whose queue an entry has just entered. -/
theorem queuedState_task (hcore : x.core = c) (htask : getTask s c x.task.lc = some x.task) :
    ∃ t, getTask (queuedState s x exe e) c x.task.lc = some t ∧ queueOf t exe = queueOf x.task exe ++ [e] := by
  subst hcore
  have h1 : getTask { s with seq := s.seq + 1 } x.core x.task.lc = some x.task := htask
  refine ⟨_, getTask_updTask (getTask_updTask h1), ?_⟩
  cases exe <;> rfl

theorem queuedState_rampDue (hcore : x.core = c) :
    (getCore (queuedState s x exe e) c).rampDue = (getCore s c).rampDue := by
  subst hcore
  exact getCore_updTask_rampDue.trans getCore_updTask_rampDue

end

section
variable {f : Effect} {s : State} {c k : Nat} {lc exe : Bool} {t : Task} {e : QEntry} {x : Ctx} {r : Eff}

/-- Behind an entry that has not started nothing starts (R94). -/
theorem tryStart_behind (ht : getTask s c lc = some t) (he : (queueOf t exe)[k]? = some e)
    (hbehind : ((queueOf t exe).take k).any (fun q => !q.started) = true) : tryStart f s c lc exe k = (s, false) := by
  simp only [tryStart, ht, he, hbehind, Bool.or_true, if_true]

/-- On a core whose ramp was cut short a pass begins a new one (R73). -/
theorem tryStart_rampDue (ht : getTask s c lc = some t) (he : (queueOf t exe)[k]? = some e) (hnew : e.started = false)
    (hfirst : ((queueOf t exe).take k).any (fun q => !q.started) = false) (hx : entryCtx s c lc e = some x)
    (hslots : (exe && ((queueOf t exe).take k).any fun q => q.slots.any fun n =>
      (slotsTouched x (opTouches x e.op e.body).1).contains n) = false)
    (hexe : exe = true) (hquad : onQuad e.op = true) (hdue : (getCore s c).rampDue = true) :
    tryStart f s c lc exe k = (updCore s c fun k => { k with ramp := true, rampDue := false }, false) := by
  simp only [tryStart, ht, he, hnew, hfirst, hx, hslots]
  simp [hexe, hquad, hdue]

/-- An entry that nothing holds starts: its effect takes place and it holds what it touches (R94, R165, R166). -/
theorem tryStart_starts (ht : getTask s c lc = some t) (he : (queueOf t exe)[k]? = some e) (hnew : e.started = false)
    (hfirst : ((queueOf t exe).take k).any (fun q => !q.started) = false) (hx : entryCtx s c lc e = some x)
    (hslots : (exe && ((queueOf t exe).take k).any fun q => q.slots.any fun n =>
      (slotsTouched x (opTouches x e.op e.body).1).contains n) = false)
    (hramp : (exe && onQuad e.op && (getCore s c).rampDue) = false)
    (hhold : holdOf x exe ((queueOf t exe).take k) e.uid (opTouches x e.op e.body).1 (opTouches x e.op e.body).2 = .none)
    (hr : f x e s = .ok r) (hcar : r.hold ≠ .carousel) (hcom : r.hold ≠ .commits)
    (hhold' : holdOf x exe ((queueOf t exe).take k) e.uid (r.reads ++ (opTouches x e.op e.body).1)
      (r.writes ++ (opTouches x e.op e.body).2) = .none) :
    tryStart f s c lc exe k =
      (match r.drop with
        | some u => displace (setEntry (noteReads r.st c x.job.asid r.reads) c lc exe k
            (startedEntry x e r (opTouches x e.op e.body).1 (opTouches x e.op e.body).2)) x e.pc (r.sid.getD 0) u
        | none => setEntry (noteReads r.st c x.job.asid r.reads) c lc exe k
            (startedEntry x e r (opTouches x e.op e.body).1 (opTouches x e.op e.body).2), true) := by
  simp only [tryStart, ht, he, hnew, hfirst, hx, hslots, hramp, hhold, hr, hcar, hcom, hhold', Bool.or_self, ne_eq,
    not_true_eq_false, or_self, if_false, if_true, Bool.false_eq_true] <;> rfl

end

/-! ### The instructions of a table of forms -/

/-- What issue learns leaves the entry unstarted and with its uid. -/
theorem issueLook_started {f : Effect} {x : Ctx} {e e' : QEntry} {s : State} (h : issueLook f x e s = .ok e') :
    e'.started = e.started ∧ e'.op = e.op := by
  simp only [issueLook] at h
  split at h
  · split at h
    · cases h
    · cases h
      exact ⟨rfl, rfl⟩
  · cases h
    exact ⟨rfl, rfl⟩

section
variable {i : Instr} {c : CoreNo} {b : Body} {f : EngineForm} {s : State} {x x1 : Ctx} {e : QEntry} {r : Eff}

/-- An engine instruction that can be issued enters its queue and is tried there. -/
theorem exec_of_issueReady (hf : engineForms i = some (c, b, f)) (hready : IssueReady s c x b f)
    (hlook : issueLook f.effect x (issuedEntry s x b f) s = .ok e) :
    exec i s = .next (tryStart f.effect (queuedState s x f.exe e) c x.task.lc f.exe (queueOf x.task f.exe).length).1 := by
  obtain ⟨hissue, -, hskip, hroom, hstall, hres, hwi, hgood, hown⟩ := hready
  obtain ⟨word, hword, hexec⟩ := exec_engineForms s hf hgood
  rw [hexec, issueEngine_eq_tryStart hissue (by rw [hskip]; rfl) hroom hstall (wordCheck_passes hres hwi) (hword x hown) hlook]

/-- The entry that has just entered its queue: the earlier ones, and the entry itself behind them. -/
theorem queued_of_issueReady (hready : IssueReady s c x b f) : ∃ t, getTask (queuedState s x f.exe e) c x.task.lc = some t ∧
    (queueOf t f.exe)[(queueOf x.task f.exe).length]? = some e ∧
    (queueOf t f.exe).take (queueOf x.task f.exe).length = queueOf x.task f.exe := by
  obtain ⟨hissue, htask, -⟩ := hready
  obtain ⟨t, ht, hq⟩ := queuedState_task (exe := f.exe) (e := e) (issueCtx_eq hissue).1 htask
  exact ⟨t, ht, by simp [hq], by simp [hq]⟩

theorem exec_behind (hf : engineForms i = some (c, b, f)) (hready : IssueReady s c x b f)
    (hbehind : (queueOf x.task f.exe).any (fun q => !q.started) = true)
    (hlook : issueLook f.effect x (issuedEntry s x b f) s = .ok e) : exec i s = .next (queuedState s x f.exe e) := by
  obtain ⟨t, ht, he, htake⟩ := queued_of_issueReady hready (e := e)
  rw [exec_of_issueReady hf hready hlook, tryStart_behind ht he (by rw [htake, hbehind])]

/-- No earlier entry waits, as the two readings of it say. -/
theorem any_not_started {q : List QEntry} (h : q.all (·.started) = true) : q.any (fun e => !e.started) = false := by
  simpa using h

/-- No earlier entry holds one of the slots. -/
theorem any_slots_contains {q : List QEntry} {exe : Bool} {l : List Nat}
    (h : exe = true → ∀ e ∈ q, ∀ n ∈ e.slots, n ∉ l) : (exe && q.any fun e => e.slots.any fun n => l.contains n) = false := by
  cases exe
  · rfl
  · simpa using h rfl

theorem exec_rampDue (hf : engineForms i = some (c, b, f)) (hready : IssueReady s c x b f) (hexe : f.exe = true)
    (hquad : onQuad f.op = true) (hfirst : (queueOf x.task true).all (·.started) = true)
    (hlook : issueLook f.effect x (issuedEntry s x b f) s = .ok e)
    (hx : entryCtx (queuedState s x true e) c x.task.lc e = some x1)
    (hslots : ∀ q ∈ queueOf x.task true, ∀ n ∈ q.slots, n ∉ slotsTouched x1 (opTouches x1 e.op e.body).1)
    (hdue : (getCore (queuedState s x true e) c).rampDue = true) :
    exec i s = .next (updCore (queuedState s x true e) c fun k => { k with ramp := true, rampDue := false }) := by
  obtain ⟨t, ht, he, htake⟩ := queued_of_issueReady hready (e := e)
  obtain ⟨hnew, hop⟩ := issueLook_started hlook
  rw [exec_of_issueReady hf hready hlook]
  rw [hexe] at ht he htake ⊢
  rw [tryStart_rampDue ht he hnew (by rw [htake, any_not_started hfirst]) hx
    (by rw [htake, any_slots_contains fun _ => hslots]) rfl (by rw [hop]; exact hquad) hdue]

end

/-- The instructions of a table of engine forms, issued with nothing to hold them, start at once. -/
theorem startsAtOnce {form : Instr → Option (CoreNo × Body × EngineForm)}
    (hform : ∀ {i p}, form i = some p → engineForms i = some p) : StartsAtOnce form := by
  intro i c b f s x x1 e r hf hready hlook hx hholds hr hcar hcom touches hhold' t
  obtain ⟨hall, hslots, hramp, hhold⟩ := hholds
  obtain ⟨q, hq, he, htake⟩ := queued_of_issueReady hready (e := e)
  have hcore := (issueCtx_eq hready.1).1
  have hdue : (f.exe && onQuad e.op && (getCore (queuedState s x f.exe e) c).rampDue) = false := by
    rw [← hcore]
    by_cases hexe : f.exe = true
    · by_cases hquad : onQuad e.op = true
      · rw [hexe] at hramp ⊢
        rw [hramp rfl hquad, Bool.and_false]
      · simp [hquad]
    · simp [hexe]
  rw [exec_of_issueReady (hform hf) hready hlook, tryStart_starts hq he (issueLook_started hlook).1
    (by rw [htake, any_not_started hall]) hx (by rw [htake, any_slots_contains hslots]) hdue (by rw [htake, hhold]) hr hcar
    hcom (by rw [htake, hhold'])]
  rfl

/-- Settles O16: the fetch engine's forms, by the start of an entry that nothing holds. -/
theorem fetchInstructionsStart : Obligations.FetchInstructionsStart :=
  startsAtOnce fetchForm_engine

/-- Settles O17: the matrix, element-wise, window and conversion forms. -/
theorem computeInstructionsStart : Obligations.ComputeInstructionsStart :=
  startsAtOnce computeForm_engine

/-- Settles O18: the attention, recurrence, routing and detection forms. -/
theorem sequenceInstructionsStart : Obligations.SequenceInstructionsStart :=
  startsAtOnce sequenceForm_engine

/-- Settles O19: an entry behind one that has not started is only queued, and a full queue changes nothing. -/
theorem engineIssuesInOrderOrHolds : Obligations.EngineIssuesInOrderOrHolds := by
  refine ⟨fun i c b f s x e hf hready hbehind hlook => exec_behind hf hready hbehind hlook, ?_⟩
  intro i c b f s x hf hgood hissue _ hfull
  obtain ⟨word, -, hexec⟩ := exec_engineForms s hf hgood
  rw [hexec, issueEngine_of_full hissue hfull]

/-- Settles O20: passing over is the command's own meaning; the reserved bits are refused at issue. -/
theorem passedOverAndReservedWords : Obligations.PassedOverAndReservedWords := by
  constructor
  · intro c op b s x hissue hskip hop hwi
    have hwi' : (wiBit b && (liveSkips x.task).all (·.zero)) = false := by
      rcases hwi with h | h <;> rw [h]
      exacts [Bool.false_and _, Bool.and_false _]
    have hop' : (engineOf op).isNone = false := by rw [← Option.not_isSome, hop]; rfl
    simp only [exec, execPassOver, hissue, hskip, hop', hwi', Bool.or_self, Bool.false_eq_true, if_false]
  · intro i c b f s x hf hgood hissue _ hskip hroom hstall hres
    obtain ⟨word, -, hexec⟩ := exec_engineForms s hf hgood
    rw [hexec, issueEngine_of_reserved hissue (by rw [hskip]; rfl) hroom hstall hres]

end Sys2Proof.Machine
end

section
/-! Retirement, held starts, waits on counter words, carried-state slots, streams and scrubs of a core. -/

namespace Sys2Proof.Machine

/-! ### Draining a queue -/

section
variable {s s1 : State} {c k n : Nat} {lc exe : Bool} {e : QEntry} {first : Hold → Bool}

/-- A queue in which everything has started has nothing to drain. -/
theorem drain_of_nextEntry_none (h : nextEntry s c lc exe = none) : drain first n s c lc exe = s := by
  cases n with
  | zero => rfl
  | succ n => simp only [drain, h, ite_self]

/-- A queue whose one entry that has not started is admitted and starts. -/
theorem drain_of_last (hmay : mayStart s c lc = true) (hnext : nextEntry s c lc exe = some (k, e)) (hfirst : first e.hold = true)
    (hstart : startEntry s c lc exe k = (s1, true)) (hlast : nextEntry s1 c lc exe = none) :
    drain first (n + 1) s c lc exe = s1 := by
  simp only [drain, hmay, hnext, hfirst, hstart, Bool.not_true, Bool.false_eq_true, if_false, if_true]
  exact drain_of_nextEntry_none hlast

end

/-- The first position of a list at which a test holds. -/
theorem findIdx?_of_first {α : Type} {l : List α} {p : α → Bool} {k : Nat} {a : α} (hk : l[k]? = some a) (hp : p a = true)
    (hbefore : ∀ b ∈ l.take k, p b = false) : l.findIdx? p = some k := by
  obtain ⟨hlt, rfl⟩ := List.getElem?_eq_some_iff.mp hk
  refine List.findIdx?_eq_some_iff_getElem.mpr ⟨hlt, hp, fun j hj => ?_⟩
  rw [hbefore _ (List.mem_take_iff_getElem.mpr ⟨j, by omega, rfl⟩)]
  exact Bool.false_ne_true

/-- Settles O21: an entry with nothing outstanding retires, a segment that holds a slot completes, and a best-effort one
that was not in flight waits for the LC job. -/
theorem retirementAndSegmentsComplete : Obligations.RetirementAndSegmentsComplete := by
  refine ⟨?retires, ?completes, ?waits⟩
  case retires =>
    intro c lc exe k s t e j ht he hj hdone hcast hlast
    simp only [exec, execInstrRetire, ht, he, hj, hdone, hcast, Bool.not_true, Bool.or_self, Bool.false_eq_true, if_false]
    rw [drain_of_nextEntry_none hlast]
  case completes =>
    intro c lc exe k cls s t e g segs ht he hstarted hlc hslot hseg
    have hland : (!lc && (getCore s c).lcHas) = false := by
      rcases hlc with h | h <;> simp [h]
    simp [exec, execSegmentComplete, ht, he, hstarted, hland, hslot, hseg]
  case waits =>
    intro c exe k cls s t e ht he hlc hseg
    simp [exec, execSegmentComplete, ht, he, hlc, hseg]

/-- Settles O22: each command drains the queue from the entry that it names. -/
theorem heldInstructionsStart : Obligations.HeldInstructionsStart := by
  intro c lc k e s s1 hmay hnext hstart hlast
  constructor
  · intro hhold
    simp only [exec, execFetchHazardStart, hnext, hhold, and_self, if_true]
    rw [drain_of_last hmay hnext (by rw [hhold]; rfl) hstart hlast]
  · intro hhold hspill
    have hdrain := drain_of_last (n := 39) (first := fun h => h = .carousel) hmay hnext (by rw [hhold]; rfl) hstart hlast
    simp only [exec, execCarouselStart, hnext, hhold, hspill, Option.isSome_none, List.any_cons, List.any_nil, Bool.or_self]
    rw [hdrain, if_pos]
    refine ⟨trivial, trivial, ?_⟩
    rw [Bool.not_eq_true']
    split
    · split
      · split <;> rfl
      · rfl
    · rfl

section
variable {c : CoreNo} {lc : Bool} {s : State} {t : Task}

theorem exec_sigAddLands {j : Job} {va n dn pc : Nat} {rest : List (Nat × Nat × Nat × Nat)} {old : Nat} {s1 : State}
    (ht : getTask s c lc = some t) (hj : tget s.jobs t.job = some j) (hadds : t.sigAdds = (va, n, dn, pc) :: rest)
    (hadd : memAdd32 (updTask s c lc fun t => { t with sigAdds := rest }) j.asid va n = .ok (old, s1)) :
    exec (.sigAddLands c lc) s = .next (poke (semAdd s1 c lc pc dn 1) c lc) := by
  simp [exec, execSigAddLands, ht, hj, hadds, hadd]

theorem exec_watchRelease {va : Nat} {least : Int} {held met : Bool} (ht : getTask s c lc = some t)
    (hwait : t.blocked = some (.watch va least held met)) :
    exec (.watchRelease c lc) s = .next (if held && met then finishWait s c lc true else s) := by
  cases held <;> cases met <;> simp [exec, execWatchRelease, ht, hwait]

theorem exec_watchPoll_held {va : Nat} {least : Int} {met : Bool} (ht : getTask s c lc = some t)
    (hwait : t.blocked = some (.watch va least true met)) : exec (.watchPoll c lc) s = .next s := by
  simp [exec, execWatchPoll, ht, hwait]

theorem exec_watchPoll_early {va : Nat} {least : Int} {met : Bool} {j : Job}
    (ht : getTask s c lc = some t) (hj : tget s.jobs t.job = some j)
    (hwait : t.blocked = some (.watch va least false met)) (hearly : s.nowNs < max t.pollNs t.since + 2000) :
    exec (.watchPoll c lc) s = .next s := by
  simp only [exec, execWatchPoll, ht, hwait, hj, hearly, if_true]

theorem exec_watchPoll_due {va : Nat} {least v : Int} {met : Bool} {j : Job}
    (ht : getTask s c lc = some t) (hj : tget s.jobs t.job = some j)
    (hwait : t.blocked = some (.watch va least false met)) (hdue : max t.pollNs t.since + 2000 ≤ s.nowNs)
    (hv : counterAt s j.asid va = .ok v) :
    exec (.watchPoll c lc) s =
      .next (if least ≤ v then finishWait s c lc true else updTask s c lc fun t => { t with pollNs := s.nowNs }) := by
  simp only [exec, execWatchPoll, ht, hwait, hj, not_lt.mpr hdue, if_false, hv]

theorem exec_syncTimeout (ht : getTask s c lc = some t) (hwait : bounded t.blocked = true) : exec (.syncTimeout c lc) s =
    .next (if t.timeout * 1000 < s.nowNs - t.since then failJob s t.job c t.pc failTimeout else s) := by
  simp only [exec, execSyncTimeout, ht, hwait, true_and]

end

/-- Settles O23: adds that land, watches that are met, polls that are due and waits that are too long. -/
theorem counterWaitsAddsAndTimeouts : Obligations.CounterWaitsAddsAndTimeouts := by
  refine ⟨fun c lc s t j ht hj => ⟨?lands, ?watches, ?polls⟩, fun c lc s t ht hwait => ⟨fun hlate => ?_, fun hearly => ?_⟩⟩
  case lands => exact fun va n dn pc rest old s1 hadds hadd => exec_sigAddLands ht hj hadds hadd
  case watches =>
    refine fun va least held met hwait => ⟨fun hheld hmet => ?_, fun hnot => ?_, fun hnot => ?_⟩
    · rw [exec_watchRelease ht hwait, hheld, hmet]
      rfl
    · rw [exec_watchRelease ht hwait]
      rcases hnot with h | h <;> simp [h]
    · cases held
      · exact exec_watchPoll_early ht hj hwait (hnot.resolve_left Bool.false_ne_true)
      · exact exec_watchPoll_held ht hwait
  case polls =>
    refine fun va least met v hwait hdue hv => ⟨fun hv' => ?_, fun hv' => ?_⟩
    · rw [exec_watchPoll_due ht hj hwait hdue hv, if_pos hv']
    · rw [exec_watchPoll_due ht hj hwait hdue hv, if_neg (not_le.mpr hv')]
  · rw [exec_syncTimeout ht hwait, if_pos hlate]
  · rw [exec_syncTimeout ht hwait, if_neg (not_lt.mpr hearly)]

/-- Settles O24: the requests, the swap-out and the swap-in of a slot by its state. -/
theorem slotsSwapOutAndIn : Obligations.SlotsSwapOutAndIn := by
  refine ⟨fun c lc n s t j sl hslot => ?out, fun c lc n s t j sl hslot => ?inn⟩
  case out =>
    intro adds took
    have hexec : exec (.swapOutRequest c lc n) s = .next (if adds = 0 then s else match sl.state with
        | .swapped => addDone took j.asid sl.record adds
        | .out => updSlot took c lc n fun q => { q with covered := q.covered + adds }
        | .inn => s
        | .resident => askOut took c lc n adds) := by
      simp only [exec, execSwapOutRequest, hslot, addsReady] <;> rfl
    refine ⟨?_, ?_, ?_, ?_, ?_, ?_⟩
    · rintro (h | h) <;> simp [hexec, h]
    · intro h hstate
      simp [hexec, h, hstate]
    · intro h hstate
      simp [hexec, h, hstate]
    · intro t1 j1 s1 h hstate htook
      simp [hexec, h, hstate, askOut, htook]
    · intro s1 hwanted hbusy hout
      simp [exec, execSwapOut, hslot, hwanted, hbusy, hout]
    · intro hwanted hbusy
      simp [exec, execSwapOut, hslot, hwanted, hbusy]
  case inn =>
    constructor
    · intro e htrigger hstate hspill
      have h : ¬ (lc = false ∧ (getCore s c).spill.isSome = true) := by
        rcases hspill with h | h <;> simp [h]
      simp [exec, execSwapIn, hslot, htrigger, hstate, h]
    · intro s1 hstate hin
      simp [exec, execSwapInDone, hslot, hstate, hin]

/-- Settles O25. -/
theorem streamsMulticastIdentityAndScrub : Obligations.StreamsMulticastIdentityAndScrub := by
  refine ⟨⟨?promote, ?multicast⟩, ?identity, ?scrub⟩
  case promote =>
    intro c lc sid s t u k e x r ht hmay hrun hidx he hx hpromote
    have hshadow : shadowEntry t sid = some (k, e) := by
      have hget : t.ctxs.getD sid.val {} = t.ctxs[sid] := by simp [Vector.getD]
      simp only [shadowEntry, hget, hrun, hidx, he, Option.map_some]
    simp [exec, execRearmPromote, ht, hmay, hshadow, hx, hpromote]
  case multicast =>
    intro jn g s s1 j ge t k e m hj hge ht he hstarted hhold hm hgroup hsender hgot hbefore hfetch
    simp only [exec, execMcastBlockFetch, hj, hge, ht]
    rw [findIdx?_of_first he]
    · simp only [he, hm, hfetch]
    · simp [hstarted, hhold, hm, hgroup, hsender, hgot]
    · intro q hq
      simp [hbefore q hq]
  case identity =>
    intro c op b s x exe f e hissue htask hengine heffect hskip hzero hwi hmay hres hword hroom hstall hbehind hlook
    obtain ⟨t, ht, hq⟩ := queuedState_task (exe := exe) (e := e) (issueCtx_eq hissue).1 htask
    have hexec : exec (.identityWrite c op b) s =
        .next (issueEngine exe op b none [] (mayWi op b) (identWord op b) f true s c) := by
      simp only [exec, execIdentityWrite, hissue, heffect, hengine, hskip, hzero, hwi, Bool.not_true, Bool.or_self,
        Bool.false_eq_true, if_false]
    rw [hexec, issueEngine_eq_tryStart hissue (by rw [hskip]; rfl) hroom hstall (wordCheck_passes hres fun _ => hmay) hword hlook,
      tryStart_behind (e := e) ht (by simp [hq]) (by simpa [hq] using hbehind)]
  case scrub =>
    intro c word bad s w
    refine ⟨fun hbad hclean => ?_, fun hbad hclean => ?_⟩
    · simp only [exec, execScratchScrub, Nat.not_le.mpr hbad, if_false, hclean, Bool.false_eq_true, w]
    · simp only [exec, execScratchScrub, hbad, if_true, hclean, Bool.false_eq_true, if_false, w]

end Sys2Proof.Machine
end

section
/-! Jobs in their queues, preemption, spills, and the power of clusters (R72, R79, R96, R382, R398, R404 to R419). -/

namespace Sys2Proof.Machine

/-- Settles O26: each command by the one branch that its conditions leave. -/
theorem jobsAreTakenPlacedStartedEnded : Obligations.JobsAreTakenPlacedStartedEnded := by
  refine ⟨?taken, ?placed, ?started, ?ended⟩
  case taken =>
    intro id c s hready hnew hquench hlc s1
    simp [exec, execJob, hready, hnew, hquench, hlc, s1]
  case placed =>
    intro jn s j hj hwaiting hpause hring haside hturn
    refine ⟨fun f hcheck => ?_, fun cores hcheck hrecords himago hplace => ?_⟩
    · simp [exec, execJobDispatch, hj, hwaiting, hpause, hring, hcheck, hturn]
    · simp [exec, execJobDispatch, hj, hwaiting, hpause, hring, haside, hturn, hcheck, hrecords, himago, hplace]
  case started =>
    intro jn c0 s s1 j img g cst hj hplaced hfail hready himg hcheck s0 hcores
    have hany : j.cores.any (coreReady s jn j) = true :=
      List.any_eq_true.mpr ⟨c0, List.mem_of_find?_eq_some hready, List.find?_some hready⟩
    simp [exec, execJobStart, hj, hplaced, hfail, hany, hready, himg, hcheck, hcores, s0, bind, Except.bind, pure, Except.pure]
  case ended =>
    intro jn s j hj hrunning hint hend
    simp [exec, execJobComplete, hj, hrunning, hint, hend]

/-- Settles O27: preemption, resumption and the ramp's end are the commands' own branches; a ramp that was cut short is
begun anew by the pass that is tried. -/
theorem preemptionAndRamp : Obligations.PreemptionAndRamp := by
  refine ⟨?preempt, ?resume, ?ramp, ?again⟩
  case preempt =>
    intro c s l t hl ht hhas hnew hwait hramp
    simp [exec, execLcPreempt, hl, ht, hhas, hnew, hwait, hramp]
  case resume =>
    intro c s hhas hbe hspill hgone
    simp [exec, execLcResumeBe, hhas, Option.isSome_iff_ne_none.mp hbe, hspill, hgone]
  case ramp =>
    intro c s hramp
    simp [exec, execRampEnd, hramp]
  case again =>
    exact fun i c b f s x x1 e hf hready hexe hquad hfirst hlook hx hslots hdue =>
      exec_rampDue hf hready hexe hquad hfirst hlook hx hslots hdue

/-- Settles O28: a page of a spill, its end, and the restore. -/
theorem spillAndRestore : Obligations.SpillAndRestore := by
  refine ⟨?page, ?done, ?restore⟩
  case page =>
    intro c frame v tier die rest s l t lj bj p hl ht hlj hbj hhas hnew hfits hbound hswapped hspill hneed hplace hframe e s1
    have hany : t.states.any (fun sl => sl.state ≠ .swapped) = false := by
      simpa using hswapped
    simp only [exec, execSpill, hl, ht, hlj, hbj, hhas, hnew, hfits, hbound, hany, hspill, hneed, hplace, hframe, e, s1,
      Option.isSome_some, Bool.not_true, Bool.false_eq_true, or_self, if_false, if_true]
  case done =>
    intro c s p hspill hneed hdone
    simp [exec, execSpillDone, hspill, hneed, hdone]
  case restore =>
    intro c s s1 p t hspill hbe hdone hgone hback
    simp [exec, execSpillRestore, hspill, hbe, hdone, hgone, hback]

/-- Of cores that the part does not have, none is changed. -/
theorem foldl_updCore_absent {f : Core → Core} (l : List Nat) (s : State) (h : ∀ c ∈ l, tget s.cores c = none) :
    l.foldl (fun s c => if (tget s.cores c).isSome then updCore s c f else s) s = s := by
  induction l with
  | nil => rfl
  | cons c l ih =>
    rw [List.foldl_cons, h c List.mem_cons_self]
    exact ih fun q hq => h q (List.mem_cons_of_mem _ hq)

/-- Settles O29: the power of a cluster, and the fall-back and deadline of an LC job. -/
theorem clustersWakeFallbackAndDeadline : Obligations.ClustersWakeFallbackAndDeadline := by
  refine ⟨⟨?wake, ?warm, ?idle, ?cold⟩, fun jn s j hj hfail hlc hrunning => ⟨?switch, ?forced, ?deadline, ?early, ?late⟩⟩
  case wake =>
    intro k s hup halive hholds
    simp [exec, execClusterWake, hup, halive, hholds]
  case warm =>
    intro k s hwaking
    simp [exec, execWakeDone, hwaking]
  case idle =>
    intro k s hwarm hholds hlong hreserve hswap hempty
    simp only [exec, execColdAfterExpiry, hwarm, hholds, hswap, not_lt.mpr hlong, not_le.mpr hreserve, ne_eq, not_true_eq_false,
      Option.isSome_none, Bool.false_eq_true, or_self, if_false]
    exact congrArg Host.Outcome.next (foldl_updCore_absent _ _ hempty)
  case cold =>
    intro k s hdry hwake
    simp [exec, execClusterDrydownDone, hdry, hwake]
  case switch =>
    intro hdue
    simp [exec, execFallbackSwitch, hj, hrunning, hfail, hdue]
  case forced =>
    intro hentry hsw harmed hnear
    simp [exec, execForcedSwitch, hj, hrunning, hfail, hlc, hentry, hsw, harmed, hnear]
  case deadline =>
    intro hset hlate
    simp [exec, execDeadlineExpiry, hj, hlc, hset, hfail, hlate, hrunning]
  case early =>
    intro hset hearly
    simp [exec, execDeadlineExpiry, hj, hearly]
  case late =>
    intro hentry hsw why hwhy
    simp [exec, execLateRead, hj, hrunning, hfail, hwhy, hlc, hentry, hsw]

end Sys2Proof.Machine
end

section
/-! Commits, the tree of shared pages, mirrors, and the groups' commands and boundaries (R219, R235 to R243, R260 to R267). -/

namespace Sys2Proof.Machine

theorem res_ok_bind {α β : Type} (a : α) (f : α → Res β) : ((.ok a : Res α) >>= f) = f a := rfl

theorem res_pure {α : Type} (a : α) : (pure a : Res α) = .ok a := rfl

/-- The group of a page service that serves it is there. -/
theorem exists_of_groupUp {s : State} {g : Nat} (h : groupUp s g = true) : ∃ gr, tget s.groups g = some gr := by
  unfold groupUp at h
  split at h
  · exact ⟨_, ‹_›⟩
  · cases h

/-- A commit within its bounds whose staged tokens can be read and whose rows find their slots. -/
theorem runCommit_appends {ok : Nat → Bool} {s s1 : State} {q : CommitReq} {gr : Group} {f : Future}
    {rows : List (List Num)} {codes : List Nat} (hgr : tget s.groups q.group = some gr) (hf : tget gr.futures q.idx = some f)
    (hlive : f.state ≠ .free) (hlow : 1 ≤ toSigned 32 q.n) (hhigh : toSigned 32 q.n ≤ 16)
    (hlen : ((f.lens.getD q.layer 0 : Nat) : Int) + toSigned 32 q.n ≤ 1048576)
    (hrows : ((List.range (toSigned 32 q.n).toNat).mapM fun t => readStaged s gr q.idx q.layer t) = .ok rows)
    (hcodes : (if q.layer = 0 then
        (List.range (toSigned 32 q.n).toNat).mapM fun t => jobNat s gr.asid (stageBlock gr.layout q.idx + 4 * t) 4
      else .ok []) = .ok codes)
    (happend : appendTokens ok s q.group q.idx q.layer (f.lens.getD q.layer 0) rows = some s1) :
    runCommit ok s q =
      let s2 := updFuture (markBusy s1 q.group q.idx q.layer (f.lens.getD q.layer 0) (toSigned 32 q.n).toNat true)
        q.group q.idx fun p => { p with codes := codes.zipIdx.foldl (fun t p => tset t (f.lens.getD q.layer 0 + p.2) p.1) p.codes }
      setLag { s2 with commits := s2.commits.map fun c => if c.seq = q.seq then { c with applied := true, waiting := false }
        else c } q.group q.idx := by
  have hfut : tgetD gr.futures q.idx {} = f := by rw [tgetD, hf, Option.getD_some]
  by_cases hlayer : q.layer = 0
  · rw [if_pos hlayer] at hcodes
    rw [hlayer] at hlen hrows happend
    simp only [runCommit, hgr, hfut, hlive, not_lt.mpr hlow, not_lt.mpr hhigh, hlayer, not_lt.mpr hlen, or_self, if_false, if_true,
      hrows, hcodes, happend, res_ok_bind, res_pure]
  · rw [if_neg hlayer] at hcodes
    cases hcodes
    simp only [runCommit, hgr, hfut, hlive, not_lt.mpr hlow, not_lt.mpr hhigh, not_lt.mpr hlen, or_self, if_false, hlayer, hrows,
      happend, res_ok_bind, res_pure]

/-- Settles O30: the commands on commits by the commit that they find. -/
theorem commitsAppendAndEnd : Obligations.CommitsAppendAndEnd := by
  refine ⟨?commit, ?append, ?resume, ?waits⟩
  case commit =>
    intro g idx layer n s s1 q gr f rows codes hup hfind hnew hwait hg hidx hlayer hn hgr hf hlive hlow hhigh hlen hrows hcodes
      happend hturn len s2
    subst hlayer hn
    have hrun := runCommit_appends (ok := serving s) (q := q) (by rw [hg, hgr]) (by rw [hidx, hf]) hlive hlow hhigh hlen
      (by rw [hidx, hrows]) (by rw [hidx, hcodes]) (by rw [hg, hidx, happend])
    rw [hg, hidx] at hrun
    simp only [exec, execCommit, hup, if_true, commitStep, hfind, hnew, hwait, hturn, hrun, Bool.not_true, Bool.false_eq_true,
      ne_eq, not_true_eq_false, or_self, if_false, s2, len]
  case append =>
    intro g idx layer s s2 q gr old hup hfind happlied hgr n len hadd
    simp only [exec, execAppendDone, hup, if_true, appendDoneStep, hfind, happlied, hgr, Bool.not_true, Bool.false_eq_true, if_false]
    rw [hadd]
  case resume =>
    intro d s q hnext hup hturn
    simp [exec, execCommitResume, hnext, hup, hturn]
  case waits =>
    intro g idx layer n s q hup hfind hturn
    simp only [exec, execCommit, hup, if_true, commitStep, hfind, hturn, Bool.not_false, or_true]

/-- Settles O31: the offer of a full block and the mirror of a page that is reached. -/
theorem prefixOffersAndMirrorsFill : Obligations.PrefixOffersAndMirrorsFill := by
  refine ⟨?offer, ?mirror⟩
  case offer =>
    intro g idx s gr f ps prev h codes hup hgr hf hps hchain hcodes hdomain hlive hfull hnone hroom hnew s0 s1 s2
    have hfind : ((treeOf s gr.home).find? fun n => n.hash = h) = none := by
      rw [List.find?_eq_none]
      intro n hn
      have := List.all_eq_true.mp hnone n hn
      simpa using this
    simp only [exec, execPrefixOffer, hup, if_true, offerStep, hgr, hf, Option.bind_some, Option.map_some, hps, hchain, hcodes]
    simp only [hdomain, hlive, hfull, hnew, hfind, not_le.mpr hroom, decide_true, Bool.true_or, Bool.not_true, Bool.false_eq_true,
      or_self, if_false, ne_eq, not_true_eq_false, and_false, List.map_id', s0, s1, s2]
  case mirror =>
    intro d page m s p hup hp hm hno hnot reached hreached
    have hempty : reached.isEmpty = false := List.isEmpty_eq_false_iff.mpr hreached
    simp only [exec, execMirrorFill, hup, if_true, mirrorFillStep, hp, hm, hno, hnot, Option.isSome_none, Bool.false_eq_true,
      false_or]
    rw [if_neg (Bool.eq_false_iff.mp hempty)]

/-- Settles O32: creation, destruction, and the requests that wait for a boundary. -/
theorem groupCommandsTakeEffect : Obligations.GroupCommandsTakeEffect := by
  refine ⟨?create, ?destroy, ?join, ?leave⟩
  case create =>
    intro id slot s c p L hready hcheck home n hfree
    have hroom : ((List.range 256).all fun i => (tget s.groups (home * 256 + i)).isSome) = false := by
      rw [List.all_eq_false]
      exact ⟨slot, List.mem_range.mpr slot.isLt, by rw [hfree]; exact Bool.false_ne_true⟩
    have htaken : ¬(tget s.groups n).isSome = true := by rw [hfree]; exact Bool.false_ne_true
    simp only [exec, execGroupCreate, hready, hcheck]
    rw [if_neg (Bool.eq_false_iff.mp hroom), if_neg htaken]
  case destroy =>
    intro id s c hready hup
    obtain ⟨gr, hgr⟩ := exists_of_groupUp hup
    simp [exec, execGroupDestroy, hready, hgr, hup]
  case join =>
    intro id s c g hready hnew hg hcodes e j
    simp [exec, execJoin, hready, hnew, hg, not_lt.mpr hcodes, e, j]
  case leave =>
    intro id s c g hready hnew hh hg
    simp only [exec, execLeave, hready, hnew, hh, hg, if_true, Bool.false_eq_true, if_false]

/-- Settles O33: the boundary runs, waits for its commits, and goes on when its evictions end. -/
theorem stepBoundaryAndEviction : Obligations.StepBoundaryAndEviction := by
  intro g s gr hgr hup
  refine ⟨fun t rest hsteps hopen hdone => ?_, fun t rest hsteps hbusy => ?_, fun s1 hopen hevict hdone => ?_⟩
  · simp [exec, execStepBoundary, hgr, hsteps, hopen, hup, hdone]
  · simp [exec, execStepBoundary, hgr, hsteps, hbusy]
  · simp [exec, execEvictionDone, hgr, hopen, hevict, hup, hdone]

end Sys2Proof.Machine
end

section
/-! Requests for DRAM, errors in codewords, adders, regulators and the migration of channels (R308 to R331). -/

namespace Sys2Proof.Machine

/-! ### Bytes and tables -/

theorem memWrites_append (m : Mem) (a : Nat) (l r : List Byte) :
    memWrites m a (l ++ r) = memWrites (memWrites m a l) (a + l.length) r := by
  induction l generalizing m a with
  | nil => rfl
  | cons b l ih =>
    simp only [List.cons_append, memWrites, List.length_cons, ih]
    congr 1
    omega

theorem tmap_tmap {α : Type} (f g : Nat → α → α) (t : Tab α) : tmap f (tmap g t) = tmap (fun k x => f k (g k x)) t := by
  simp only [tmap, List.map_map]
  rfl

theorem tmap_id {α : Type} {f : Nat → α → α} (hf : ∀ k x, f k x = x) (t : Tab α) : tmap f t = t := by
  simp only [tmap, hf, Prod.mk.eta, List.map_id']

/-! ### A write of whole codewords -/

/-- The first `n` codewords at the package address `a` are replaced by bytes: their errors and write-backs are gone. -/
def replaced (s : State) (a : Nat) (bs : List Byte) (n : Nat) : State :=
  { s with
    dram := memWrites s.dram a (bs.take (128 * n))
    dramUE := s.dramUE.filter fun cw => !(a / 128 ≤ cw && cw < a / 128 + n)
    dies := tmap (fun k x => { x with
      wbacks := x.wbacks.filter fun w => !(a / 128 ≤ (k * dieSpan + w.dpa) / 128 && (k * dieSpan + w.dpa) / 128 < a / 128 + n) })
      s.dies }

theorem not_inside_zero (b cw : Nat) : (!(decide (b ≤ cw) && decide (cw < b + 0))) = true := by
  simp only [Nat.add_zero, Bool.not_eq_true', Bool.and_eq_false_iff, decide_eq_false_iff_not]
  omega

theorem not_inside_succ (b n cw : Nat) : (!(decide (b ≤ cw) && decide (cw < b + (n + 1)))) =
    (decide (cw ≠ b + n) && !(decide (b ≤ cw) && decide (cw < b + n))) := by
  rw [Bool.eq_iff_iff]
  simp only [Bool.not_eq_true', Bool.and_eq_false_iff, decide_eq_false_iff_not, Bool.and_eq_true, decide_eq_true_eq]
  omega

theorem replaced_zero (s : State) (a : Nat) (bs : List Byte) : replaced s a bs 0 = s := by
  simp only [replaced, not_inside_zero, List.filter_true, Nat.mul_zero, List.take_zero, memWrites]
  rw [tmap_id fun _ _ => rfl]

theorem replaced_succ (s : State) (a : Nat) (bs : List Byte) (n : Nat) (hlen : 128 * (n + 1) ≤ bs.length) :
    dropWbacks { clearUe (replaced s a bs n) (a / 128 + n) with
      dram := memWrites (replaced s a bs n).dram (a + 128 * n) ((bs.drop (128 * n)).take 128) } (· = a / 128 + n) =
      replaced s a bs (n + 1) := by
  have htake : bs.take (128 * (n + 1)) = bs.take (128 * n) ++ (bs.drop (128 * n)).take 128 := by
    rw [Nat.mul_succ, List.take_add]
  have hlen' : (bs.take (128 * n)).length = 128 * n := by rw [List.length_take]; omega
  simp only [dropWbacks, clearUe, replaced, tmap_tmap, List.filter_filter, htake, memWrites_append, hlen', not_inside_succ,
    decide_not, ne_eq]

section
variable {d : Nat} {r : DramReq} {s : State} {bs : List Byte} {i n : Nat}

/-- A codeword that a write covers whole is replaced, whatever it held. -/
theorem serveCw_whole (hw : r.write = some bs) (hbs : bs.length = r.len) (hdpa : r.dpa % 128 = 0) (hi : 128 * (i + 1) ≤ r.len) :
    serveCw d r (s, none) i =
      (dropWbacks { clearUe s (pkgDpa d r.dpa / 128 + i) with
        dram := memWrites s.dram (pkgDpa d r.dpa + 128 * i) ((bs.drop (128 * i)).take 128) } (· = pkgDpa d r.dpa / 128 + i),
       none) := by
  have ha : cwDpa r.dpa i = r.dpa + 128 * i := by
    simp only [cwDpa]
    omega
  have hlo : max r.dpa (cwDpa r.dpa i) = r.dpa + 128 * i := by omega
  have hhi : min (r.dpa + r.len) (cwDpa r.dpa i + 128) = r.dpa + 128 * i + 128 := by omega
  have hcw : pkgDpa d (cwDpa r.dpa i) / 128 = pkgDpa d r.dpa / 128 + i := by
    simp only [ha, pkgDpa, dieSpan]
    omega
  have haddr : pkgDpa d (r.dpa + 128 * i) = pkgDpa d r.dpa + 128 * i := by
    simp only [pkgDpa, Nat.add_assoc]
  simp only [serveCw, hw, hbs, hlo, hhi, hcw, haddr, Nat.add_sub_cancel_left, Nat.sub_self, List.replicate_zero, List.append_nil,
    Option.isSome_some, decide_true, Bool.and_self, if_true, Bool.not_true, Bool.false_eq_true, if_false]
  rfl

theorem foldl_serveCw_whole (hw : r.write = some bs) (hbs : bs.length = r.len) (hdpa : r.dpa % 128 = 0) (hn : 128 * n ≤ r.len) :
    (List.range n).foldl (serveCw d r) (s, none) = (replaced s (pkgDpa d r.dpa) bs n, none) := by
  induction n with
  | zero => rw [replaced_zero]; rfl
  | succ n ih =>
    rw [List.range_succ, List.foldl_append, ih (by omega), List.foldl_cons, List.foldl_nil, serveCw_whole hw hbs hdpa hn,
      replaced_succ _ _ _ _ (by omega)]

/-- A write of whole codewords lands, and the host's is answered (R309, R392). -/
theorem serve_whole (hw : r.write = some bs) (hbs : bs.length = r.len) (hdpa : r.dpa % 128 = 0) (hn : r.len = 128 * n) :
    serve s d r = if r.src = .host then sendHostMem (replaced s (pkgDpa d r.dpa) bs n) 1 else replaced s (pkgDpa d r.dpa) bs n := by
  have hcount : cwCount r.dpa r.len = n := by
    simp only [cwCount]
    split <;> omega
  simp only [serve, hcount, foldl_serveCw_whole hw hbs hdpa hn.ge]
  cases hsrc : r.src <;> simp [hostAnswer, hw]

end

/-! ### Reads -/

theorem noteNoSpare_dramUE (s : State) (d n : Nat) : (noteNoSpare s d n).dramUE = s.dramUE := by
  simp only [noteNoSpare, apply_ite State.dramUE, sillage_dramUE, setDie_dramUE, ite_self]

theorem queueMig_dramUE (s : State) (d n prio : Nat) (auto : Bool) : (queueMig s d n prio auto).dramUE = s.dramUE := by
  simp only [queueMig, apply_ite State.dramUE, noteNoSpare_dramUE, setDie_dramUE, ite_self]

/-- A corrected error makes no codeword uncorrectable. -/
theorem noteCe_dramUE (s : State) (d dpa : Nat) : (noteCe s d dpa).dramUE = s.dramUE := by
  simp only [noteCe, apply_ite State.dramUE, queueMig_dramUE, setDie_dramUE, bump_dramUE, ite_self]

/-- A codeword that can be corrected. -/
theorem judge_correctable {s : State} {d dpa errs : Nat} (herr : errs < 9) (hue : s.dramUE.contains (pkgDpa d dpa / 128) = false) :
    judge s d dpa errs = (if 0 < errs then noteCe s d dpa else s, true) := by
  simp only [judge, not_le.mpr herr, hue, Bool.false_eq_true, or_self, if_false]

/-- A codeword with too many wrong bytes. -/
theorem judge_uncorrectable {s : State} {d dpa errs : Nat} (herr : 9 ≤ errs) : judge s d dpa errs = noteUe s d dpa := by
  simp only [judge, herr, true_or, if_true]

section
variable {d : Nat} {r : DramReq} {s : State}

theorem serveCw_read (hw : r.write = none) (acc : State × Option Fail) (i : Nat) : serveCw d r acc i =
    if !(judge acc.1 d (cwDpa r.dpa i) (r.errs.getD i 0)).2 then
      ((judge acc.1 d (cwDpa r.dpa i) (r.errs.getD i 0)).1,
        acc.2.or (some (unserved (judge acc.1 d (cwDpa r.dpa i) (r.errs.getD i 0)).1 d (cwDpa r.dpa i))))
    else ((judge acc.1 d (cwDpa r.dpa i) (r.errs.getD i 0)).1, acc.2) := by
  simp only [serveCw, hw, Option.isSome_none, Bool.false_and, Bool.false_eq_true, if_false]

theorem foldl_serveCw_correctable (hw : r.write = none) (l : List Nat) (s : State)
    (hgood : ∀ i ∈ l, r.errs.getD i 0 < 9 ∧ s.dramUE.contains (pkgDpa d (cwDpa r.dpa i) / 128) = false) :
    l.foldl (serveCw d r) (s, none) =
      (l.foldl (fun s i => if 0 < r.errs.getD i 0 then noteCe s d (cwDpa r.dpa i) else s) s, none) := by
  induction l generalizing s with
  | nil => rfl
  | cons i l ih =>
    obtain ⟨herr, hue⟩ := hgood i List.mem_cons_self
    rw [List.foldl_cons, List.foldl_cons, serveCw_read hw, judge_correctable herr hue]
    refine ih _ fun k hk => ?_
    obtain ⟨herr', hue'⟩ := hgood k (List.mem_cons_of_mem _ hk)
    refine ⟨herr', ?_⟩
    split
    · rw [noteCe_dramUE, hue']
    · exact hue'

theorem serve_correctable (hw : r.write = none) (hsrc : r.src ≠ .host)
    (hgood : ∀ i < cwCount r.dpa r.len,
      r.errs.getD i 0 < 9 ∧ s.dramUE.contains (pkgDpa d (cwDpa r.dpa i) / 128) = false) :
    serve s d r = (List.range (cwCount r.dpa r.len)).foldl
      (fun s i => if 0 < r.errs.getD i 0 then noteCe s d (cwDpa r.dpa i) else s) s := by
  have hfold := foldl_serveCw_correctable hw _ s fun i hi => hgood i (List.mem_range.mp hi)
  cases h : r.src
  case host => exact absurd h hsrc
  all_goals simp only [serve, h, hfold]

theorem serve_uncorrectable {j : Nat} (hw : r.write = none) (hsrc : r.src = .job j) (hone : cwCount r.dpa r.len = 1)
    (herr : 9 ≤ r.errs.getD 0 0) (hbad : (noteUe s d (cwDpa r.dpa 0)).2 = false) :
    serve s d r =
      failJobService (noteUe s d (cwDpa r.dpa 0)).1 j (unserved (noteUe s d (cwDpa r.dpa 0)).1 d (cwDpa r.dpa 0)) := by
  simp only [serve, hone, List.range_one, List.foldl_cons, List.foldl_nil, serveCw_read hw, judge_uncorrectable herr, hbad, hsrc,
    Bool.not_false, if_true, Option.none_or, failReq]

end

/-- Settles O34: the way of a request to the codewords that it touches. -/
theorem dramRequestsAreServedOrHeld : Obligations.DramRequestsAreServedOrHeld := by
  intro d r s hfits a sx p s0
  have hexec : exec (.dramRequest d r) s = .next (requestDram s d r) := by
    simp only [exec, execDramRequest, not_lt.mpr hfits, if_false]
  rw [hexec]
  refine ⟨fun j hreach hsrc hw => ?unreached, fun hreach => ?reached⟩
  case unreached =>
    have hnone : r.write.isNone = false := by rw [← Option.not_isSome, hw]; rfl
    simp [requestDram, hreach, outOfReach, hsrc, hnone, failReq]
  case reached =>
    have harrive : requestDram s d r = arriveReq sx d r := by
      simp only [requestDram, hreach, Bool.not_true, Bool.false_eq_true, if_false, sx]
    rw [harrive]
    refine ⟨fun hmode hlc hheld => ?held, fun hopen => ?admitted⟩
    case held =>
      have hclosed : ¬(partMode sx d p = 0 ∨ reqLc sx r.src = true ∨
          64 ≤ tokensOf sx d p ∧ (!(getDie sx d).held.any fun h => h.part = p) = true) := by
        rintro (h | h | ⟨h1, h2⟩)
        · exact hmode h
        · exact Bool.false_ne_true (hlc.symm.trans h)
        · rcases hheld with h | h
          · omega
          · rw [h] at h2
            cases h2
      exact congrArg Host.Outcome.next (if_neg hclosed)
    case admitted =>
      have hadmit : partMode sx d p = 0 ∨ reqLc sx r.src = true ∨
          64 ≤ tokensOf sx d p ∧ (!(getDie sx d).held.any fun h => h.part = p) = true :=
        hopen.imp_right (Or.imp_right (And.imp_right fun h => by rw [h]; rfl))
      have hmap : arriveReq sx d r = atMapper s0 d r := if_pos hadmit
      rw [hmap]
      refine ⟨fun hswap => ?_, fun hswap => ⟨fun bs n hw hbs hdpa hn => ?_, fun hw hsrc hgood => ?_, ?_⟩⟩
      · simp only [atMapper, hswap, if_true]
      all_goals rw [show atMapper s0 d r = serve s0 d r from if_neg (Bool.eq_false_iff.mp hswap)]
      · rw [serve_whole hw hbs hdpa hn, replaced, ← hn, ← hbs, List.take_length]
      · rw [serve_correctable hw hsrc hgood]
      · intro j hw hsrc hone herr u hbad
        rw [serve_uncorrectable hw hsrc hone herr hbad]

/-! ### Scrub, adders and regulators -/

theorem getDie_updDie (s : State) (d : Nat) (f : DieHw → DieHw) : getDie (updDie s d f) d = f (getDie s d) := by
  rw [updDie, getDie_setDie, if_pos rfl]

theorem execPatrolScrub_due {d : Die} {ch : Fin 128} {errs : Nat × Nat} {l : Nat} {s : State}
    (hl : logicalOf (getDie s d) ch = some l) (hup : dieUp s d = true) (hdue : scrubDue s d ch = true) :
    let x := getDie s d
    let line := tgetD x.scrubAt ch 0
    let dpa := lineAt l (line * 256)
    exec (.patrolScrub d ch errs) s = .next (judge (judge (setDie s d { x with
      scrubAt := tset x.scrubAt ch ((line + 1) % 4194304)
      scrubNs := if line = 0 then tset x.scrubNs ch s.nowNs else x.scrubNs }) d dpa errs.1).1 d (dpa + 128) errs.2).1 := by
  intro x line dpa
  simp only [exec, execPatrolScrub, hl, hup, hdue, Bool.not_true, Bool.false_eq_true, or_self, if_false, x, line, dpa]

/-- An operation on an aligned word of a die that answers, in a codeword that can be read, is applied (R324, R325). -/
theorem requestAdd_applies {s : State} {d : Nat} {q : AddReq} (halign : q.dpa % adderBytes q.fmt q.op = 0)
    (hfits : q.dpa + adderBytes q.fmt q.op ≤ diePages * 65536) (hup : dieAnswers s d = true)
    (hswap : swapTouches s d q.dpa (adderBytes q.fmt q.op) = false) : requestAdd s d q = applyAdd s d q := by
  simp only [requestAdd, halign, not_lt.mpr hfits, hup, hswap, ne_eq, not_true_eq_false, Bool.not_true, Bool.false_eq_true, if_false]

theorem find?_eq_none_of_false {α : Type} {l : List α} {p : α → Bool} (h : ∀ a, p a = false) : l.find? p = none := by
  rw [List.find?_eq_none]
  exact fun a _ => by rw [h a]; exact Bool.false_ne_true

/-- Settles O35: each rule of the codewords, the adders and the buckets by the function that the command runs. -/
theorem scrubAddersAndRegulators : Obligations.ScrubAddersAndRegulators := by
  refine ⟨fun d ch dpa s => rfl, ?patrol, ?adder, ?tick⟩
  case patrol =>
    intro d ch e0 e1 l s hl hup hdue x line dpa s1
    have hexec : exec (.patrolScrub d ch (e0, e1)) s = .next (judge (judge s1 d dpa e0).1 d (dpa + 128) e1).1 :=
      execPatrolScrub_due hl hup hdue
    constructor
    · intro h0 h1 hue0 hue1 s2
      have hue : s2.dramUE.contains (pkgDpa d (dpa + 128) / 128) = false := by
        have hs2 : s2.dramUE = s1.dramUE := by simp only [s2, apply_ite State.dramUE, noteCe_dramUE, ite_self]
        rw [hs2]
        exact hue1
      have hue0' : s1.dramUE.contains (pkgDpa d dpa / 128) = false := hue0
      rw [hexec, judge_correctable h0 hue0', judge_correctable h1 hue]
    · intro h0 h1
      rw [hexec, judge_uncorrectable h0, judge_uncorrectable h1]
  case adder =>
    intro d q s o n a old t ret landed
    have hexec : exec (.adderOp d q.dpa q.fmt o q.v q.cmp) s = .next (requestAdd s d q) := rfl
    rw [hexec]
    refine ⟨fun j hshape hsrc => ?_, fun halign hfits hup hswap hue => ?_⟩
    · rw [requestAdd, if_pos hshape, hsrc]
      rfl
    · have hjudge : judge s d (q.dpa / 128 * 128) 0 = (s, true) := judge_correctable (by omega) hue
      rw [requestAdd_applies halign hfits hup hswap]
      refine ⟨fun hop => ?_, fun hop => ?_, fun hop => ?_⟩
      all_goals simp only [applyAdd, hjudge, Bool.not_true, Bool.false_eq_true, if_false, hop, t, ret, landed, old, a, n]
  case tick =>
    intro d s hheld
    have hheld' : (getDie (takeParts s d) d).held = [] := by rw [takeParts, getDie_updDie, hheld]
    simp only [exec, execRegulatorTick, getDie_updDie, hheld', List.length_nil, releaseRound, heldOf, List.find?_nil,
      Option.isSome_none, Bool.false_and]
    rw [find?_eq_none_of_false fun _ => rfl]

/-! ### Migration of channels -/

/-- A channel that is queued for no migration and in none joins the queue while it has room (R314). -/
theorem queueMig_queued {s : State} {d n prio : Nat} {auto : Bool} (hqueue : (getDie s d).queue.any (fun q => q.channel = n) = false)
    (hmig : ∀ m, (getDie s d).mig = some m → m.source ≠ n) (hact : chanState (getDie s d) n = .active)
    (hspare : sparesLeft s d ≠ 0) (hroom : (getDie s d).queue.length < 8) : queueMig s d n prio auto =
      setDie { s with seq := s.seq + 1 } d
        { getDie s d with queue := (getDie s d).queue ++ [{ channel := n, prio := prio, seq := s.seq }] } := by
  cases hm : (getDie s d).mig with
  | none =>
    simp only [queueMig, hm, hqueue, hact, hspare, not_le.mpr hroom, Bool.or_self, ne_eq, not_true_eq_false, decide_false,
      Bool.false_eq_true, if_false]
  | some m =>
    simp only [queueMig, hm, hqueue, hmig m hm, hact, hspare, not_le.mpr hroom, Bool.or_self, ne_eq, not_true_eq_false,
      decide_false, Bool.false_eq_true, if_false]

/-- Settles O36: the queue, the start, the swap and the retraining of a migration. -/
theorem channelsMigrate : Obligations.ChannelsMigrate := by
  refine ⟨?recal, ?start, ?swap, ?retrain⟩
  case recal =>
    intro d ch s x due
    refine ⟨fun hnot => ?_, fun hset hdue hqueue hmig hact hspare hroom => ?_⟩
    · exact congrArg Host.Outcome.next (if_pos hnot)
    · have hrun : exec (.recalExpiry d ch) s = .next (queueMig s d ch 3 true) :=
        congrArg Host.Outcome.next (if_neg (not_or.mpr ⟨hset, not_lt.mpr hdue⟩))
      rw [hrun, queueMig_queued hqueue hmig hact hspare hroom]
  case start =>
    intro d s q hup hnone hnext hact spare taken
    refine ⟨fun t hspare => ?_, fun hspare hprio => ?_, fun hspare hprio => ?_⟩
    all_goals
      simp only [spare] at hspare
      simp only [exec, execMigrationStart, hup, hnone, hnext, hact, hspare, Bool.not_true, Bool.false_eq_true, if_false, ne_eq,
        not_true_eq_false, taken]
    · rw [if_neg hprio]
    · rw [if_pos hprio]
  case swap =>
    intro d s m l hmig hphase hup s1 hl map s2 s3
    have hmap : swapMap s1 d m = bump (setChan (setChan s3 d m.target .active) d m.source .retraining) 0xE065 (d + 1) 1 := by
      simp only [swapMap, hl, s3, s2, map]
    simp only [exec, execMigrationSwap, hmig, hphase, hup, Bool.not_true, Bool.false_eq_true, or_self, if_false]
    rw [← hmap]
  case retrain =>
    intro d s m pass hmig hphase hup
    simp [exec, execRetrainDone, hmig, hphase, hup]

end Sys2Proof.Machine
end

section
/-! The control period, the limits of the clusters and how they are raised (R320 to R322, R494 to R498, R534). -/

namespace Sys2Proof.Machine

/-- Settles O37: a period is what the command runs; each raise is the branch of a count that is full. -/
theorem controlPeriodAndLimits : Obligations.ControlPeriodAndLimits := by
  refine ⟨⟨?period, ?neighbour⟩, ?junction, ?dram, ?dramTop, ?refresh, ?power, ?current, ?point, ?half, ?whole⟩
  case period =>
    intro r s s1 s2 s3
    simp only [exec, execControlPeriod, s1, s2, s3]
  case neighbour =>
    intro k s hhot hlow s1 hany
    simp only [exec, execNeighbourThrottle]
    rw [if_neg (not_or.mpr ⟨not_lt.mpr hhot, not_not.mpr hlow⟩), if_pos hany]
  case junction =>
    exact fun k s hcool => congrArg Host.Outcome.next (if_neg (not_lt.mpr hcool))
  case dram =>
    intro k s hcool hlow
    have hmin : min 9 ((getCluster s k).dram9 + 1) = (getCluster s k).dram9 + 1 := by omega
    have hne : (getCluster s k).dram9 + 1 ≠ 9 := by omega
    simp only [exec, execDramLimitRaise, not_lt.mpr hcool, if_false, hmin, hne]
  case dramTop =>
    intro k s hcool htop
    simp [exec, execDramLimitRaise, hcool, htop]
  case refresh =>
    intro d layer s hraised hcool
    simp [exec, execRefreshRestore, hraised, hcool]
  case power =>
    exact fun s hcool => congrArg Host.Outcome.next (if_neg (not_lt.mpr hcool))
  case current =>
    intro s due room ks pick cc s1 hdue hcool
    exact congrArg Host.Outcome.next (if_neg (not_or.mpr ⟨hdue, not_lt.mpr hcool⟩))
  case point =>
    intro k s p htarget
    simp only [exec, execPointRampDone, htarget]
  case half => exact fun d amps s hover => congrArg Host.Outcome.next (if_pos hover)
  case whole => exact fun d amps s hunder => congrArg Host.Outcome.next (if_neg (not_lt.mpr hunder))

end Sys2Proof.Machine
end

section
/-! Address spaces and pages, the tiers, the imagos and the flash layer (R336 to R354, R379, R391). -/

namespace Sys2Proof.Machine

/-! ### Commands on spaces -/

theorem toNat_append_eq_add {n m : Nat} (x : BitVec n) (y : BitVec m) : (x ++ y).toNat = x.toNat * 2 ^ m + y.toNat := by
  rw [BitVec.toNat_append, ← Nat.shiftLeft_add_eq_or_of_lt y.isLt, Nat.shiftLeft_eq]

/-- The fields of a page-table entry whose values fit (R338). -/
theorem pteWord_toNat {p : Pte} (htier : p.tier < 8) (hdie : p.die < 4) (hkind : p.kind < 4) (hfloor : p.floor < 8)
    (hframe : p.frame < 2 ^ 48) : (pteWord p).toNat =
      2 ^ 63 + p.tier * 2 ^ 60 + p.die * 2 ^ 58 + p.writable.toNat * 2 ^ 57 + p.pin.toNat * 2 ^ 56 + p.moving.toNat * 2 ^ 55
        + p.kind * 2 ^ 53 + p.floor * 2 ^ 50 + p.frame := by
  have h1 : p.tier % 2 ^ 3 = p.tier := Nat.mod_eq_of_lt htier
  have h2 : p.die % 2 ^ 2 = p.die := Nat.mod_eq_of_lt hdie
  have h3 : p.kind % 2 ^ 2 = p.kind := Nat.mod_eq_of_lt hkind
  have h4 : p.floor % 2 ^ 3 = p.floor := Nat.mod_eq_of_lt hfloor
  have h5 : p.frame % 2 ^ 48 = p.frame := Nat.mod_eq_of_lt hframe
  simp only [pteWord, toNat_append_eq_add, BitVec.toNat_ofNat, BitVec.toNat_ofBool, h1, h2, h3, h4, h5]
  omega

/-- Settles O38: the commands by their one branch, and the entry of a page by its fields' places. -/
theorem spaceCommandsTakeEffect : Obligations.SpaceCommandsTakeEffect := by
  refine ⟨?nop, ?create, ?destroy, ?map, ?unmap, ?bias, ?entry⟩
  case nop =>
    intro id s hready
    obtain ⟨c, hc⟩ := Option.ne_none_iff_exists'.mp hready
    simp only [exec, execNop, hc]
  case create =>
    intro id asid s c hready hin hroom hfree d a
    simp [exec, execAspaceCreate, hready, hin, not_le.mpr hroom, hfree, d, a]
  case destroy =>
    intro id s c a hready ha hruns hmoving
    simp [exec, execAspaceDestroy, hready, ha, hruns, hmoving]
  case map =>
    intro id frame v tier die rest s c hready hstarted hkind hrun hspace hneed hcmd hplace hfits s1
    have hspace' : (tget s.aspaces (cmdAsid c)).isNone = false := by rw [← Option.not_isSome, hspace]; rfl
    simp only [exec, execMap, hready, hstarted, if_true, hkind, if_false, hspace', hrun, Bool.false_eq_true, hcmd, Option.map_some,
      hneed, mapOne, hplace, hfits, Bool.not_true, s1]
  case unmap =>
    intro id s c a hready hpages ha hrange vs
    simp only [exec, execUnmap, hready, hpages, ha, not_lt.mpr hrange, if_false, vs]
  case bias =>
    intro id s c hready hlen hrange rest new
    simp only [exec, execBias, hready, hlen, not_lt.mpr hrange, if_false, rest, new]
  case entry =>
    intro p htier hdie hkind hfloor hframe w
    have hw : w = _ := pteWord_toNat htier hdie hkind hfloor hframe
    have hwr := Bool.toNat_le p.writable
    have hpin := Bool.toNat_le p.pin
    have hmov := Bool.toNat_le p.moving
    omega

/-! ### Pages that move between tiers -/

theorem updCmd_cmds {s : State} {id : Nat} {c : Cmd} (f : Cmd → Cmd) (hc : tget s.cmds id = some c) :
    tget (updCmd s id f).cmds id = some (f c) := by
  simp only [updCmd, hc, tget_tset_self]

theorem beginMove_cmds (s : State) (asid vpn : Nat) (p : Pte) (tier die frame : Nat) :
    (beginMove s asid vpn p tier die frame).cmds = s.cmds := by
  unfold beginMove setPte updSpace
  split <;> rfl

/-- Settles O39: a page of PLACE, demotion and promotion begin a move, and its end settles the page. -/
theorem pagesMoveBetweenTiers : Obligations.PagesMoveBetweenTiers := by
  refine ⟨?place, ?demote, fun asid vpn frame p s hp hstill hkept hhere hkind hup => ⟨?promote, ?needed⟩, ?kv, ?done⟩
  case place =>
    intro id frame v tier die rest s c p hready hstarted hspace hrange hcmd hneed hp hstill hkept hother hplace hfits
    have hspace' : (tget s.aspaces (cmdAsid c)).isNone = false := by rw [← Option.not_isSome, hspace]; rfl
    have hone : placeOne s id c v rest frame = updCmd (beginMove s (cmdAsid c) v p tier die frame) id fun c =>
        { c with need := rest, held := c.held ++ [v] } := by
      simp [placeOne, hp, hstill, hkept, hother, hplace, hfits]
    simp only [exec, execPlace, hready, hstarted, hspace', not_lt.mpr hrange, Bool.not_true, Bool.false_eq_true, false_and, or_self,
      if_false, if_true, hcmd, Option.map_some, hneed, hone]
    rw [updCmd_cmds _ (by rw [beginMove_cmds, hcmd])]
    simp
  case demote =>
    intro d frame asid vpn tier die rest p s hup hlow s1 hlist hplace hfits
    simp only [s1] at hlist hplace hfits
    simp [exec, execDemotion, hup, hlow, hlist, demotePage, hplace, hfits, s1]
  case promote =>
    intro htier hnewest hfree hfits
    have h5 : p.tier ≠ 5 := by omega
    have h2 : p.tier ≠ 2 := by omega
    simp [exec, execPromotion, promotePage, hp, hstill, hkept, hhere, hkind, hup, h5, h2, hnewest, not_le.mpr hfree, hfits]
  case needed =>
    intro tier die htier hwaits hgood hplace hfits
    simp only [exec, execPromotion, promotePage, hp, hstill, hkept, hhere, hkind, hup, htier, hwaits, hgood, hplace, hfits]
    simp
  case kv =>
    intro key frame f home tier die p s hp hhome htier hgood hwaits hup hplace hslot new
    simp only [exec, execPromotion, promoteKv, hp, hhome, htier, hgood, hwaits, hup, hplace, hslot, new]
    simp
  case done =>
    intro asid vpn tier die frame p s hp hdest hkept hdown hue new s1
    simp only [exec, execPageMoveDone, hp, hdest, hkept, hdown, hue, Bool.false_eq_true, if_false, if_true, new, s1]

/-! ### Imagos and the flash layer -/

/-- Settles O40: the library, the load by what is found of its digest, and the end of a load. -/
theorem imagosAreStoredLoadedRetired : Obligations.ImagosAreStoredLoadedRetired := by
  refine ⟨?store, ?load, ?retire, ?good, ?bad⟩
  case store =>
    intro id s c m hready hup hpause himage hroom lib
    simp only [exec, execLibraryStore, hready, hup, hpause, himage, not_lt.mpr hroom, Bool.not_true, Bool.false_eq_true, or_self,
      if_false, lib]
  case load =>
    intro id slot frame s c hready hup hpause digest
    refine ⟨fun n hn => ?_, fun m m' hnone hload him hfirst hserve hload' => ?_⟩
    · simp only [digest] at hn
      simp only [exec, execImagoLoad, hready, hup, hpause, hn, Bool.not_true, Bool.false_eq_true, or_self, if_false]
    · simp only [digest] at hnone hload him
      simp only [exec, execImagoLoad, hready, hup, hpause, hnone, hload, him, Option.bind_some, hfirst, hserve, hload',
        Bool.not_true, Bool.false_eq_true, or_self, if_false]
  case retire =>
    intro id s c hready hres
    simp only [exec, execImagoRetire, hready, hres]
  case good =>
    intro slot s img himg hload hpause hbad m bs hdigest s1 s2
    simp only [bs] at hdigest
    simp only [exec, execImagoLoadDone, himg, hload, hpause, hbad, hdigest, ne_eq, not_true_eq_false, Bool.false_eq_true, or_self,
      if_false, m, s1, s2]
  case bad =>
    intro slot s img v himg hload hpause hbad
    simp only [exec, execImagoLoadDone, himg, hload, hpause, hbad, ne_eq, not_true_eq_false, Bool.false_eq_true, or_self, if_false]

/-- Settles O41: reads of a library page by the copies that fail, and the blocks that are moved. -/
theorem flashLayerKeepsData : Obligations.FlashLayerKeepsData := by
  refine ⟨?copies, ?retire, ?move⟩
  case copies =>
    intro page s hup hpause hload
    simp only [exec, execNandReadDone, hup, hpause, hload, Bool.not_true, Bool.false_eq_true, or_self, if_false, if_true, ne_eq,
      not_true_eq_false]
    exact ⟨rfl, rfl, rfl⟩
  case retire =>
    intro ch block s hblock hgood fresh s1
    simp only [exec, execBadBlockRetire, not_le.mpr hblock, hgood, Bool.false_eq_true, or_self, if_false, s1, fresh]
  case move =>
    intro ch block fresh s hok
    refine ⟨fun hworn => ?_, fun hread => ?_⟩
    · simp only [exec, execWearLevelMove, hok, not_le.mpr hworn, Bool.not_true, Bool.false_eq_true, or_self, if_false]
    · simp only [exec, execReadDisturbRefresh, hok, not_lt.mpr hread, Bool.not_true, Bool.false_eq_true, or_self, if_false]

end Sys2Proof.Machine
end

section
/-! The commands on cores keep the invariants. -/

namespace Sys2Proof.Machine

/-- A command is answered by a next state, and the invariants are kept on the way to it. -/
def AnswersKept (s : State) (o : Host.Outcome State Fault Refusal) : Prop := ∃ t, o = .next t ∧ Kept s t

theorem issueEngine_answers {s : State} {c : Nat} {exe : Bool} {op : BitVec 8} {b : Body} {fault : Option Nat} {order : List Nat}
    {wiOk ident : Bool} {word : Ctx → Res Unit} {f : Effect} (hf : EffectKept f) :
    AnswersKept s (.next (issueEngine exe op b fault order wiOk word f ident s c)) :=
  ⟨_, rfl, issueEngine_kept _ _ _ _ _ _ _ _ _ _ _ hf (.refl s)⟩

theorem mbWrite_answers {s : State} {index sub typ : Nat} {v : List Byte} : AnswersKept s (.next (mbWrite s index sub typ v)) :=
  ⟨_, rfl, mbWrite_kept _ _ _ _ _ (.refl s)⟩

/-- The bytes of a die's DRAM written over. -/
theorem dramWritten_kept {s0 s : State} (kept : Kept s0 s) (a : Nat) (bs : List Byte) :
    Kept s0 { s with dram := memWrites s.dram a bs } :=
  kept.lit_dram (fun _ p => p) (memWrites_wf · a bs)

/-- A ring that stays as privileged as it was. -/
theorem setRing_kept_of_priv {s0 s : State} {r : Nat} {x : Ring} (kept : Kept s0 s) (h : x.priv = (getRing s r).priv) :
    Kept s0 (setRing s r x) :=
  setRing_kept kept fun p e => h.trans (e ▸ p)

theorem getRing_forwardBell (s : State) (r q : Nat) : getRing (forwardBell s r) q = getRing s q := by
  obtain ⟨l, e⟩ := send_links s .ctrl 4 (ringHome s r) 0 1
  rw [forwardBell, e]
  rfl

/-- A doorbell that acts leaves its ring as privileged as it was. -/
theorem forwardedRing_kept {s : State} {r : Nat} {x : Ring} (h : x.priv = (getRing s r).priv) :
    Kept s (setRing (forwardBell s r) r x) :=
  setRing_kept_of_priv (forwardBell_kept _ _ (.refl s)) (h.trans (by rw [getRing_forwardBell]))

theorem execMcastBlockFetch_kept (jn : Nat) (g : Fin 64) (s : State) : AnswersKept s (execMcastBlockFetch jn g s) := by
  refine ⟨_, rfl, ?_⟩
  with_reducible repeat' first
    | exact .refl s | refine okAll_kept ?_ (by assumption) | apply mcastFetch_kept | apply failJob_kept
    | dsimp only | split

theorem execRearmPromote_kept (c : CoreNo) (lc : Bool) (sid : Fin 8) (s : State) :
    AnswersKept s (execRearmPromote c lc sid s) := by
  refine ⟨_, rfl, ?_⟩
  repeat' first
    | with_reducible exact .refl s
    | with_reducible apply failJob_kept
    | with_reducible apply setEntry_kept
    | with_reducible apply noteReads_kept
    | split
  rename_i h
  exact okAll_ok (P := fun r : Eff => Kept s r.st) (promote_kept _ _ _ (.refl s)) h

theorem execWait_kept (c : CoreNo) (b : Body) (s : State) : AnswersKept s (execWait c b s) := by
  refine ⟨_, rfl, issueSeq_kept _ _ _ _ _ _ (fun x s kept => ?_) (.refl s)⟩
  with_reducible repeat' first
    | assumption | apply okAll_pure | apply seqDone_kept | apply nextPc_kept | apply beginWait_kept
    | refine OkAll.bind' (fun _ => ?_) | split

theorem execSig_kept (c : CoreNo) (b : Body) (s : State) : AnswersKept s (execSig c b s) := by
  refine ⟨_, rfl, issueSeq_kept _ _ _ _ _ _ (fun x s kept => ?_) (.refl s)⟩
  with_reducible repeat' first
    | assumption | apply okAll_pure | apply beginWait_kept | refine OkAll.bind' (fun _ => ?_) | split

theorem execBar_kept (c : CoreNo) (b : Body) (s : State) : AnswersKept s (execBar c b s) := by
  refine ⟨_, rfl, issueSeq_kept _ _ _ _ _ _ (fun x s kept => ?_) (.refl s)⟩
  with_reducible repeat' first
    | assumption | apply okAll_mk | apply beginWait_kept

theorem execLoop_kept (c : CoreNo) (b : Body) (s : State) : AnswersKept s (execLoop c b s) := by
  refine ⟨_, rfl, issueSeq_kept _ _ _ _ _ _ (fun x s kept => ?_) (.refl s)⟩
  with_reducible repeat' first
    | assumption | apply okAll_pure | apply setIx_kept | apply seqDone_kept | apply branch_kept | apply nextPc_kept
    | refine OkAll.bind' (fun _ => ?_) | dsimp only | split

theorem execJmp_kept (c : CoreNo) (b : Body) (s : State) : AnswersKept s (execJmp c b s) := by
  refine ⟨_, rfl, issueSeq_kept _ _ _ _ _ _ (fun x s kept => ?_) (.refl s)⟩
  with_reducible repeat' first
    | assumption | apply okAll_pure | apply seqDone_kept | apply nextPc_kept | apply branch_kept
    | refine updTask_kept ?_ (fun _ a => a) | split

theorem execSkipl_kept (c : CoreNo) (b : Body) (s : State) : AnswersKept s (execSkipl c b s) := by
  refine ⟨_, rfl, issueSeq_kept _ _ _ _ _ _ (fun x s kept => ?_) (.refl s)⟩
  with_reducible repeat' first
    | assumption | apply okAll_pure | apply skiplClamp_kept | apply bump_kept | apply raiseOk_kept
    | apply nextPc_kept | apply seqDone_kept | refine updTask_kept ?_ (fun _ a => a) | split

theorem execCnta_kept (c : CoreNo) (b : Body) (s : State) : AnswersKept s (execCnta c b s) := by
  refine ⟨_, rfl, issueSeq_kept _ _ _ _ _ _ (fun x u kept => ?_) (.refl s)⟩
  refine .bind' fun _ => .bind' fun _ => .bindSnd (memAdd32_kept _ _ _ _ kept) fun old kept => ?_
  have written (v : Int) := seqDone_kept x b _ (setIx_kept _ x (field b 94 4) v kept)
  dsimp only
  split <;> split
  all_goals first | exact branch_kept _ _ _ (written _) | exact nextPc_kept _ _ (written _)

theorem execUnassignedOpcode_kept (c : CoreNo) (op : BitVec 8) (b : Body) (s : State) :
    AnswersKept s (execUnassignedOpcode c op b s) := by
  refine ⟨_, rfl, ?_⟩
  with_reducible repeat' first
    | exact .refl s | apply failHere_kept | split

theorem execPassOver_kept (c : CoreNo) (op : BitVec 8) (b : Body) (s : State) : AnswersKept s (execPassOver c op b s) := by
  refine ⟨_, rfl, ?_⟩
  with_reducible repeat' first
    | exact .refl s | apply seqDone_kept | apply nextPc_kept | dsimp only | split

theorem execSigAddLands_kept (c : CoreNo) (lc : Bool) (s : State) : AnswersKept s (execSigAddLands c lc s) := by
  refine ⟨_, rfl, ?_⟩
  with_reducible repeat' first
    | exact .refl s | refine okAll_snd ?_ (by assumption) | apply memAdd32_kept | apply failJob_kept
    | apply poke_kept | apply semAdd_kept | refine updTask_kept ?_ (fun _ a => a) | dsimp only | split

theorem execWatchRelease_kept (c : CoreNo) (lc : Bool) (s : State) : AnswersKept s (execWatchRelease c lc s) := by
  refine ⟨_, rfl, ?_⟩
  with_reducible repeat' first
    | exact .refl s | apply finishWait_kept | split

theorem execWatchPoll_kept (c : CoreNo) (lc : Bool) (s : State) : AnswersKept s (execWatchPoll c lc s) := by
  refine ⟨_, rfl, ?_⟩
  with_reducible repeat' first
    | exact .refl s | apply failJob_kept | apply finishWait_kept | refine updTask_kept ?_ (fun _ a => a) | split

theorem execSyncTimeout_kept (c : CoreNo) (lc : Bool) (s : State) : AnswersKept s (execSyncTimeout c lc s) := by
  refine ⟨_, rfl, ?_⟩
  with_reducible repeat' first
    | exact .refl s | apply failJob_kept | split

theorem execDrop_kept (c : CoreNo) (b : Body) (s : State) : AnswersKept s (execDrop c b s) := by
  unfold execDrop
  split
  · exact ⟨_, rfl, .refl s⟩
  · exact issueEngine_answers fun _ => dropEffect_kept

theorem execDropTrunc_kept (c : CoreNo) (b : Body) (s : State) : AnswersKept s (execDropTrunc c b s) := by
  unfold execDropTrunc
  split
  · exact ⟨_, rfl, .refl s⟩
  · exact issueEngine_answers fun _ => dropEffect_kept

theorem execInstrRetire_kept (c : CoreNo) (lc exe : Bool) (k : Nat) (s : State) :
    AnswersKept s (execInstrRetire c lc exe k s) := by
  refine ⟨_, rfl, ?_⟩
  with_reducible repeat' first
    | exact .refl s | apply retireEntry_kept | apply drain_kept | split

theorem execSegmentComplete_kept (c : CoreNo) (lc : Bool) (k : EntryRef) (cls : SlotClass) (s : State) :
    AnswersKept s (execSegmentComplete c lc k cls s) := by
  refine ⟨_, rfl, ?_⟩
  with_reducible repeat' first
    | exact .refl s | apply setEntry_kept | apply segFlits_kept | dsimp only | split

theorem execFetchHazardStart_kept (c : CoreNo) (lc : Bool) (k : Nat) (s : State) :
    AnswersKept s (execFetchHazardStart c lc k s) := by
  refine ⟨_, rfl, ?_⟩
  with_reducible repeat' first
    | exact .refl s | apply drain_kept | split

theorem execCarouselStart_kept (c : CoreNo) (lc : Bool) (k : Nat) (s : State) : AnswersKept s (execCarouselStart c lc k s) := by
  refine ⟨_, rfl, ?_⟩
  with_reducible repeat' first
    | exact .refl s | apply drain_kept | dsimp only | split

theorem execIdentityWrite_kept (c : CoreNo) (op : BitVec 8) (b : Body) (s : State) :
    AnswersKept s (execIdentityWrite c op b s) := by
  refine ⟨_, rfl, ?_⟩
  split
  · dsimp only
    split
    · exact .refl s
    · exact issueEngine_kept _ _ _ _ _ _ _ _ _ _ _ (effectOf_kept (by assumption)) (.refl s)
  · exact .refl s

theorem execSwapOutRequest_kept (c : CoreNo) (lc : Bool) (slot : Nat) (s : State) :
    AnswersKept s (execSwapOutRequest c lc slot s) := by
  refine ⟨_, rfl, ?_⟩
  with_reducible repeat' first
    | exact .refl s | apply updSlot_kept | apply addDone_kept | apply askOut_kept | dsimp only | split

theorem execSwapOut_kept (c : CoreNo) (lc : Bool) (slot : Nat) (s : State) : AnswersKept s (execSwapOut c lc slot s) := by
  refine ⟨_, rfl, ?_⟩
  with_reducible repeat' first
    | exact .refl s | refine okAll_kept ?_ (by assumption) | apply swapOut_kept | apply failJob_kept | split

theorem execSwapIn_kept (c : CoreNo) (lc : Bool) (slot : Nat) (s : State) : AnswersKept s (execSwapIn c lc slot s) := by
  refine ⟨_, rfl, ?_⟩
  with_reducible repeat' first
    | exact .refl s | apply putSlot_kept | split

theorem execSwapInDone_kept (c : CoreNo) (lc : Bool) (slot : Nat) (s : State) : AnswersKept s (execSwapInDone c lc slot s) := by
  refine ⟨_, rfl, ?_⟩
  with_reducible repeat' first
    | exact .refl s | refine okAll_kept ?_ (by assumption) | apply swapIn_kept | apply retrySlot_kept
    | apply failJob_kept | split

theorem execScratchScrub_kept (c : CoreNo) (word : Fin 24576) (badBits : Nat) (s : State) :
    AnswersKept s (execScratchScrub c word badBits s) := by
  refine ⟨_, rfl, ?_⟩
  with_reducible repeat' first
    | exact .refl s | apply sillage_kept | dsimp only | split
    | (fail_if_no_progress refine Kept.lit ?_ (fun _ p => p))

end Sys2Proof.Machine
end

section
/-! The commands on jobs, cores' power and rollout groups keep the invariants. -/

namespace Sys2Proof.Machine

theorem execJob_kept (id : Nat) (s : State) : AnswersKept s (execJob id s) := by
  refine ⟨_, rfl, ?_⟩
  with_reducible repeat' first
    | exact .refl s | apply finishCmd_kept | apply raiseV_kept | apply updCmd_kept | split
    | (fail_if_no_progress refine Kept.lit ?_ (fun _ p => p))

theorem execJobComplete_kept (jn : Nat) (s : State) : AnswersKept s (execJobComplete jn s) := by
  refine ⟨_, rfl, ?_⟩
  with_reducible repeat' first
    | exact .refl s | apply endJob_kept | apply closeSlots_kept | split

theorem execJobDispatch_kept (jn : Nat) (s : State) : AnswersKept s (execJobDispatch jn s) := by
  refine ⟨_, rfl, ?_⟩
  with_reducible repeat' first
    | exact .refl s | apply endWaiting_kept | apply dispatch_kept | split
    | (fail_if_no_progress refine Kept.lit ?_ (fun _ p => p))

theorem execJobStart_kept (jn : Nat) (s : State) : AnswersKept s (execJobStart jn s) := by
  refine ⟨_, rfl, ?_⟩
  split
  · exact .refl s
  · split
    · exact .refl s
    · dsimp only
      split
      · rename_i j _ _ _ _ h
        refine okAll_kept (.bindKept (s0 := s) ?_ fun u kept => ?_) h
        · split
          · exact .bind' fun _ => .bind' fun _ => updJob_kept _ _ _ (.refl s)
          · exact .refl s
        · exact .bindKept (startCores_kept _ _ _ kept) fun v kept => updJob_kept _ _ _ kept
      · exact failJob_kept _ _ _ _ _ (.refl s)

theorem execLcPreempt_kept (c : CoreNo) (s : State) : AnswersKept s (execLcPreempt c s) := by
  refine ⟨_, rfl, ?_⟩
  dsimp only
  split
  · split
    · exact .refl s
    · exact updTask_kept (updCore_kept (chargeTask_kept _ _ _ (.refl s)) fun _ be lc => ⟨be, lc⟩) fun _ h => h
  · exact .refl s

theorem execLcResumeBe_kept (c : CoreNo) (s : State) : AnswersKept s (execLcResumeBe c s) := by
  refine ⟨_, rfl, ?_⟩
  with_reducible repeat' first
    | exact .refl s | apply resumeBe_kept | dsimp only | split

theorem execRampEnd_kept (c : CoreNo) (s : State) : AnswersKept s (execRampEnd c s) := by
  refine ⟨_, rfl, ?_⟩
  dsimp only
  split
  · exact .refl s
  · exact goOnBoth_kept _ _ _ (goOnBoth_kept _ _ _ (setCore_kept (.refl s) fun p => p c))

theorem execClusterWake_kept (k : ClusterNo) (s : State) : AnswersKept s (execClusterWake k s) := by
  refine ⟨_, rfl, ?_⟩
  with_reducible repeat' first
    | exact .refl s | apply wakeCluster_kept | dsimp only | split

theorem execWakeDone_kept (k : ClusterNo) (s : State) : AnswersKept s (execWakeDone k s) := by
  refine ⟨_, rfl, ?_⟩
  split
  · exact .refl s
  · refine foldl_kept _ (updCluster_kept _ _ _ (clusterCause_kept _ _ _ (.refl s))) fun u c kept => ?_
    refine updCore_kept (releaseFence_kept _ _ kept) fun x be lc => ⟨fun t h => ?_, fun t h => ?_⟩
    · obtain ⟨t, hx, rfl⟩ := Option.map_eq_some_iff.mp h
      exact be t hx
    · obtain ⟨t, hx, rfl⟩ := Option.map_eq_some_iff.mp h
      exact lc t hx

theorem execColdAfterExpiry_kept (k : ClusterNo) (s : State) : AnswersKept s (execColdAfterExpiry k s) := by
  refine ⟨_, rfl, ?_⟩
  with_reducible repeat' first
    | assumption | exact .refl s | apply updCluster_kept | refine updCore_kept ?_ (fun _ a b => ⟨a, b⟩)
    | refine foldl_kept _ ?_ (fun _ _ _ => ?_) | dsimp only | split

theorem execClusterDrydownDone_kept (k : ClusterNo) (s : State) : AnswersKept s (execClusterDrydownDone k s) := by
  refine ⟨_, rfl, ?_⟩
  with_reducible repeat' first
    | exact .refl s | apply foldl_kept | apply loseCore_kept | apply clusterCause_kept | apply updCluster_kept
    | apply wakeCluster_kept | dsimp only | split

theorem execSpill_kept (c : CoreNo) (frame : Nat) (s : State) : AnswersKept s (execSpill c frame s) := by
  refine ⟨_, rfl, ?_⟩
  with_reducible repeat' first
    | assumption | exact .refl s | apply askOut_kept | apply updSlot_kept | apply bump_kept | apply setPte_kept
    | apply paySpill_kept | apply spillData_kept | refine updCore_kept ?_ (fun _ a b => ⟨a, b⟩)
    | refine updTask_kept ?_ (fun _ a => a) | refine foldl_kept _ ?_ (fun _ _ _ => ?_) | dsimp only | split
    | (fail_if_no_progress refine Kept.lit ?_ (fun _ p => p))

theorem execSpillDone_kept (c : CoreNo) (s : State) : AnswersKept s (execSpillDone c s) := by
  refine ⟨_, rfl, ?_⟩
  with_reducible repeat' first
    | exact .refl s | refine updCore_kept ?_ (fun _ a b => ⟨a, b⟩) | split

theorem execSpillRestore_kept (c : CoreNo) (failed : Bool) (s : State) : AnswersKept s (execSpillRestore c failed s) := by
  refine ⟨_, rfl, ?_⟩
  dsimp only
  split
  · split
    · exact .refl s
    · split
      · exact failJob_kept _ _ _ _ _ (updCore_kept (dropSpill_kept _ _ (.refl s)) fun _ be lc => ⟨be, lc⟩)
      · rename_i h
        refine resumeBe_kept _ _ (dropSpill_kept _ _ (chargeBack_kept _ _ _ (paySpill_kept _ _ (okAll_kept ?_ h))))
        split
        · trivial
        · exact spillBack_kept _ _ _ (.refl s)
  · exact .refl s

theorem execFallbackSwitch_kept (jn : Nat) (s : State) : AnswersKept s (execFallbackSwitch jn s) := by
  refine ⟨_, rfl, ?_⟩
  with_reducible repeat' first
    | exact .refl s | apply switchJob_kept | split

theorem execForcedSwitch_kept (jn : Nat) (s : State) : AnswersKept s (execForcedSwitch jn s) := by
  refine ⟨_, rfl, ?_⟩
  with_reducible repeat' first
    | exact .refl s | apply undefJobData_kept | apply switchJob_kept | dsimp only | split

theorem execDeadlineExpiry_kept (jn : Nat) (s : State) : AnswersKept s (execDeadlineExpiry jn s) := by
  refine ⟨_, rfl, ?_⟩
  with_reducible repeat' first
    | exact .refl s | apply bump_kept | apply sillage_kept | apply endWaiting_kept | apply failJobService_kept
    | split

theorem execCommit_kept (g : GroupNo) (idx : Fin 4096) (layer : Nat) (n : Int) (s : State) :
    AnswersKept s (execCommit g idx layer n s) := by
  refine ⟨_, rfl, ?_⟩
  with_reducible repeat' first
    | exact .refl s | apply retryCommits_kept | apply commitStep_kept | split

theorem execAppendDone_kept (g : GroupNo) (idx : Fin 4096) (layer : Nat) (s : State) :
    AnswersKept s (execAppendDone g idx layer s) := by
  refine ⟨_, rfl, ?_⟩
  with_reducible repeat' first
    | exact .refl s | apply retryCommits_kept | apply appendDoneStep_kept | split

theorem execCommitResume_kept (d : Die) (s : State) : AnswersKept s (execCommitResume d s) := by
  refine ⟨_, rfl, ?_⟩
  with_reducible repeat' first
    | exact .refl s | apply retryCommits_kept | apply runCommit_kept | split

theorem execPrefixOffer_kept (g : GroupNo) (idx : Fin 4096) (block : Nat) (s : State) :
    AnswersKept s (execPrefixOffer g idx block s) := by
  refine ⟨_, rfl, ?_⟩
  with_reducible repeat' first
    | exact .refl s | apply offerStep_kept | split

theorem execMirrorFill_kept (d : Die) (page : Nat) (s : State) : AnswersKept s (execMirrorFill d page s) := by
  refine ⟨_, rfl, ?_⟩
  with_reducible repeat' first
    | exact .refl s | apply mirrorFillStep_kept | split

theorem execGroupCreate_kept (id : Nat) (slot : Fin 256) (s : State) : AnswersKept s (execGroupCreate id slot s) := by
  refine ⟨_, rfl, ?_⟩
  with_reducible repeat' first
    | exact .refl s | apply finishCmd_kept | apply interimCmd_kept | apply jobWritesD_kept | apply setGroup_kept
    | dsimp only | split

theorem execGroupDestroy_kept (id : Nat) (s : State) : AnswersKept s (execGroupDestroy id s) := by
  refine ⟨_, rfl, ?_⟩
  with_reducible repeat' first
    | exact .refl s | apply finishCmd_kept | apply destroyGroup_kept | dsimp only | split

theorem execJoin_kept (id : Nat) (s : State) : AnswersKept s (execJoin id s) := by
  refine ⟨_, rfl, ?_⟩
  with_reducible repeat' first
    | exact .refl s | apply finishCmd_kept | apply setGroup_kept | apply updCmd_kept | dsimp only | split
    | (fail_if_no_progress refine Kept.lit ?_ (fun _ p => p))

theorem execLeave_kept (id : Nat) (s : State) : AnswersKept s (execLeave id s) := by
  refine ⟨_, rfl, ?_⟩
  with_reducible repeat' first
    | exact .refl s | apply finishCmd_kept | apply setGroup_kept | apply updCmd_kept | dsimp only | split

theorem execStepBoundary_kept (g : GroupNo) (s : State) : AnswersKept s (execStepBoundary g s) := by
  refine ⟨_, rfl, ?_⟩
  with_reducible repeat' first
    | assumption | exact .refl s | apply setGroup_kept | apply runLeave_kept | apply admitJoining_kept
    | apply sweepBatch_kept | apply joinsAndClose_kept | refine foldl_kept _ ?_ (fun _ _ _ => ?_) | split

theorem execEvictionDone_kept (g : GroupNo) (s : State) : AnswersKept s (execEvictionDone g s) := by
  refine ⟨_, rfl, ?_⟩
  repeat' first
    | with_reducible exact .refl s
    | with_reducible apply joinsAndClose_kept
    | with_reducible apply updGroup_kept
    | split
  rename_i h
  exact someAll_kept (foldlMO_kept _ (.refl s) fun _ _ kept => evictFuture_kept _ _ _ kept) h

end Sys2Proof.Machine
end

section
/-! The commands on DRAM, limits, tiers and flash keep the invariants. -/

namespace Sys2Proof.Machine

theorem execDramRequest_kept (d : Die) (r : DramReq) (s : State) : AnswersKept s (execDramRequest d r s) := by
  refine ⟨_, rfl, ?_⟩
  with_reducible repeat' first
    | exact .refl s | apply requestDram_kept | split

theorem execRegulatorTick_kept (d : Die) (s : State) : AnswersKept s (execRegulatorTick d s) := by
  refine ⟨_, rfl, ?_⟩
  with_reducible repeat' first
    | exact .refl s | apply takeParts_kept | apply updDie_kept | apply releaseRound_kept | apply releaseHeld_kept
    | dsimp only | split

theorem execCeWriteback_kept (d : Die) (channel : Fin 128) (dpa : Nat) (s : State) :
    AnswersKept s (execCeWriteback d channel dpa s) := by
  refine ⟨_, rfl, ?_⟩
  with_reducible repeat' first
    | exact .refl s | apply updDie_kept

theorem execPatrolScrub_kept (d : Die) (channel : Fin 128) (errBytes : Nat × Nat) (s : State) :
    AnswersKept s (execPatrolScrub d channel errBytes s) := by
  refine ⟨_, rfl, ?_⟩
  with_reducible repeat' first
    | exact .refl s | apply setDie_kept | apply judge_kept | dsimp only | split

theorem execAdderOp_kept (d : Die) (dpa : Nat) (fmt : BitVec 4) (op : AdderOp) (v cmp : Word64) (s : State) :
    AnswersKept s (execAdderOp d dpa fmt op v cmp s) := by
  refine ⟨_, rfl, ?_⟩
  with_reducible repeat' first
    | exact .refl s | apply requestAdd_kept

theorem execRecalExpiry_kept (d : Die) (channel : Fin 128) (s : State) : AnswersKept s (execRecalExpiry d channel s) := by
  refine ⟨_, rfl, ?_⟩
  with_reducible repeat' first
    | exact .refl s | apply queueMig_kept | dsimp only | split

theorem execMigrationStart_kept (d : Die) (s : State) : AnswersKept s (execMigrationStart d s) := by
  refine ⟨_, rfl, ?_⟩
  with_reducible repeat' first
    | exact .refl s | apply requeueMig_kept | apply setDie_kept | apply noteNoSpare_kept | apply setChan_kept
    | dsimp only | split

theorem execMigrationSwap_kept (d : Die) (s : State) : AnswersKept s (execMigrationSwap d s) := by
  refine ⟨_, rfl, ?_⟩
  with_reducible repeat' first
    | exact .refl s | apply copyTo_kept | apply releaseSwap_kept | apply swapMap_kept | split

theorem execRetrainDone_kept (d : Die) (pass : Bool) (s : State) : AnswersKept s (execRetrainDone d pass s) := by
  refine ⟨_, rfl, ?_⟩
  with_reducible repeat' first
    | exact .refl s | apply setDie_kept | apply setChan_kept | apply measureTrims_kept | dsimp only | split

theorem execPointRampDone_kept (k : ClusterNo) (s : State) : AnswersKept s (execPointRampDone k s) := by
  refine ⟨_, rfl, ?_⟩
  with_reducible repeat' first
    | exact .refl s | apply updCluster_kept | apply chargeCluster_kept | split

theorem execDramLimitRaise_kept (k : ClusterNo) (s : State) : AnswersKept s (execDramLimitRaise k s) := by
  refine ⟨_, rfl, ?_⟩
  with_reducible repeat' first
    | exact .refl s | apply applyPoint_kept | apply setCluster_kept | dsimp only | split

theorem execJunctionRaise_kept (k : ClusterNo) (s : State) : AnswersKept s (execJunctionRaise k s) := by
  refine ⟨_, rfl, ?_⟩
  with_reducible repeat' first
    | exact .refl s | apply applyPoint_kept | apply setCluster_kept | dsimp only | split

theorem execNeighbourThrottle_kept (k : ClusterNo) (s : State) : AnswersKept s (execNeighbourThrottle k s) := by
  refine ⟨_, rfl, ?_⟩
  with_reducible repeat' first
    | assumption | exact .refl s | apply setCluster_kept | apply countLowered_kept | apply applyPoint_kept
    | apply updCluster_kept | refine foldl_kept _ ?_ (fun _ _ _ => ?_) | dsimp only | split

theorem execRefreshRestore_kept (d : Die) (layer : Fin 8) (s : State) : AnswersKept s (execRefreshRestore d layer s) := by
  refine ⟨_, rfl, ?_⟩
  with_reducible repeat' first
    | exact .refl s | apply sillage_kept | apply setDie_kept | dsimp only | split

theorem execPowerRaise_kept (s : State) : AnswersKept s (execPowerRaise s) := by
  refine ⟨_, rfl, ?_⟩
  with_reducible repeat' first
    | assumption | exact .refl s | apply applyPoint_kept | apply updCluster_kept
    | refine foldl_kept _ ?_ (fun _ _ _ => ?_) | split | (fail_if_no_progress refine Kept.lit ?_ (fun _ p => p))

theorem execHalfRateStart_kept (d : Option Die) (amps : Nat) (s : State) : AnswersKept s (execHalfRateStart d amps s) := by
  refine ⟨_, rfl, ?_⟩
  with_reducible repeat' first
    | exact .refl s | apply startHalf_kept | apply foldl_kept | split

theorem execCurrentLimitRaise_kept (s : State) : AnswersKept s (execCurrentLimitRaise s) := by
  refine ⟨_, rfl, ?_⟩
  with_reducible repeat' first
    | assumption | exact .refl s | apply applyPoint_kept | apply updCluster_kept
    | refine foldl_kept _ ?_ (fun _ _ _ => ?_) | dsimp only | split
    | (fail_if_no_progress refine Kept.lit ?_ (fun _ p => p))

theorem execControlPeriod_kept (r : Readings) (s : State) : AnswersKept s (execControlPeriod r s) := by
  refine ⟨_, rfl, ?_⟩
  with_reducible repeat' first
    | assumption | exact .refl s | apply takeReadings_kept | apply layerPeriod_kept | apply clusterPeriod_kept
    | apply bump_kept | apply currentPeriod_kept | apply powerPeriod_kept | apply applyPoint_kept
    | apply deadlineEval_kept | refine foldl_kept _ ?_ (fun _ _ _ => ?_) | dsimp only | split
    | (fail_if_no_progress refine Kept.lit ?_ (fun _ p => p))

theorem execAspaceCreate_kept (id : Nat) (asid : Fin 1024) (s : State) : AnswersKept s (execAspaceCreate id asid s) := by
  refine ⟨_, rfl, ?_⟩
  with_reducible repeat' first
    | exact .refl s | apply finishCmd_kept | apply interimCmd_kept | dsimp only | split
    | (fail_if_no_progress refine Kept.lit ?_ (fun _ p => p))

theorem execAspaceDestroy_kept (id : Nat) (s : State) : AnswersKept s (execAspaceDestroy id s) := by
  refine ⟨_, rfl, ?_⟩
  with_reducible repeat' first
    | exact .refl s | apply finishCmd_kept | apply updCmd_kept | apply updSpace_kept | apply endSpace_kept
    | dsimp only | split

theorem execMap_kept (id : Nat) (frame : Nat) (s : State) : AnswersKept s (execMap id frame s) := by
  refine ⟨_, rfl, ?_⟩
  with_reducible repeat' first
    | assumption | exact .refl s | apply finishCmd_kept | apply setPte_kept | apply updImago_kept
    | apply updCmd_kept | apply mapRun_kept | apply mapOne_kept | refine foldl_kept _ ?_ (fun _ _ _ => ?_)
    | dsimp only | split

theorem execUnmap_kept (id : Nat) (s : State) : AnswersKept s (execUnmap id s) := by
  refine ⟨_, rfl, ?_⟩
  with_reducible repeat' first
    | assumption | exact .refl s | apply finishCmd_kept | apply imagoSettle_kept | apply unmapPage_kept
    | refine foldl_kept _ ?_ (fun _ _ _ => ?_) | dsimp only | split

theorem execPageMoveDone_kept (asid : Fin 1024) (vpn : Nat) (s : State) : AnswersKept s (execPageMoveDone asid vpn s) := by
  refine ⟨_, rfl, ?_⟩
  with_reducible repeat' first
    | exact .refl s | apply movePaid_kept | apply copyPage_kept | apply delPte_kept | apply setPte_kept
    | apply bump_kept | apply imagoSettle_kept | apply settlePlaces_kept | apply freshSegs_kept | split

theorem execPlace_kept (id : Nat) (frame : Nat) (s : State) : AnswersKept s (execPlace id frame s) := by
  refine ⟨_, rfl, ?_⟩
  with_reducible repeat' first
    | exact .refl s | apply finishCmd_kept | apply updCmd_kept | apply placeOne_kept | dsimp only | split

theorem execDemotion_kept (d : Die) (frame : Nat) (s : State) : AnswersKept s (execDemotion d frame s) := by
  refine ⟨_, rfl, ?_⟩
  with_reducible repeat' first
    | exact .refl s | apply updDie_kept | apply demotePage_kept | dsimp only | split

theorem execPromotion_kept (asid : Option (Fin 1024)) (vpn frame : Nat) (s : State) :
    AnswersKept s (execPromotion asid vpn frame s) := by
  refine ⟨_, rfl, ?_⟩
  with_reducible repeat' first
    | exact .refl s | apply promotePage_kept | apply promoteKv_kept | split

theorem execBias_kept (id : Nat) (s : State) : AnswersKept s (execBias id s) := by
  refine ⟨_, rfl, ?_⟩
  with_reducible repeat' first
    | exact .refl s | apply finishCmd_kept | dsimp only | split
    | (fail_if_no_progress refine Kept.lit ?_ (fun _ p => p))

theorem execLateRead_kept (jn : Nat) (why : LateWhy) (s : State) : AnswersKept s (execLateRead jn why s) := by
  refine ⟨_, rfl, ?_⟩
  with_reducible repeat' first
    | exact .refl s | apply failJobService_kept | apply bump_kept | apply updJob_kept | dsimp only | split

theorem execNop_kept (id : Nat) (s : State) : AnswersKept s (execNop id s) := by
  refine ⟨_, rfl, ?_⟩
  with_reducible repeat' first
    | exact .refl s | apply finishCmd_kept | split

theorem execLibraryStore_kept (id : Nat) (s : State) : AnswersKept s (execLibraryStore id s) := by
  refine ⟨_, rfl, ?_⟩
  with_reducible repeat' first
    | exact .refl s | apply finishCmd_kept | apply interimCmd_kept | split
    | (fail_if_no_progress refine Kept.lit ?_ (fun _ p => p))

theorem execImagoLoad_kept (id : Nat) (slot : Fin 64) (frame : Nat) (s : State) :
    AnswersKept s (execImagoLoad id slot frame s) := by
  refine ⟨_, rfl, ?_⟩
  with_reducible repeat' first
    | exact .refl s | apply finishCmd_kept | apply updImago_kept | apply updCmd_kept | apply beginLoad_kept
    | dsimp only | split

theorem execImagoLoadDone_kept (slot : Fin 64) (s : State) : AnswersKept s (execImagoLoadDone slot s) := by
  refine ⟨_, rfl, ?_⟩
  with_reducible repeat' first
    | assumption | exact .refl s | apply endLoad_kept | apply freeImago_kept | apply landPages_kept
    | apply formParity_kept | apply payLoad_kept | apply updImago_kept | apply extendMr_kept | apply bump_kept
    | refine foldl_kept _ ?_ (fun _ _ _ => ?_) | dsimp only | split

theorem execImagoRetire_kept (id : Nat) (s : State) : AnswersKept s (execImagoRetire id s) := by
  refine ⟨_, rfl, ?_⟩
  with_reducible repeat' first
    | exact .refl s | apply finishCmd_kept | apply imagoSettle_kept | apply updImago_kept | dsimp only | split

theorem execNandReadDone_kept (library : Bool) (page : Nat) (fails : Fin 3) (s : State) :
    AnswersKept s (execNandReadDone library page fails s) := by
  refine ⟨_, rfl, ?_⟩
  with_reducible repeat' first
    | exact .refl s | apply countRead_kept | apply bump_kept | apply updImago_kept | apply spillFails_kept
    | dsimp only | split

theorem execBadBlockRetire_kept (channel : Fin 8) (block : Nat) (s : State) :
    AnswersKept s (execBadBlockRetire channel block s) := by
  refine ⟨_, rfl, ?_⟩
  with_reducible repeat' first
    | exact .refl s | apply setBlock_kept | dsimp only | split
    | (fail_if_no_progress refine Kept.lit ?_ (fun _ p => p))

theorem execWearLevelMove_kept (channel : Fin 8) (block fresh : Nat) (s : State) :
    AnswersKept s (execWearLevelMove channel block fresh s) := by
  refine ⟨_, rfl, ?_⟩
  with_reducible repeat' first
    | exact .refl s | apply rewriteBlock_kept | split

theorem execReadDisturbRefresh_kept (channel : Fin 8) (block fresh : Nat) (s : State) :
    AnswersKept s (execReadDisturbRefresh channel block fresh s) := by
  refine ⟨_, rfl, ?_⟩
  with_reducible repeat' first
    | exact .refl s | apply bump_kept | apply rewriteBlock_kept | split

end Sys2Proof.Machine
end

section
/-! The commands on rings and services keep the invariants. -/

namespace Sys2Proof.Machine

theorem execCxlLinkTrain_kept (rate : Fin 3) (width : Nat) (s : State) : AnswersKept s (execCxlLinkTrain rate width s) := by
  refine ⟨_, rfl, ?_⟩
  with_reducible repeat' first
    | exact .refl s | split | (fail_if_no_progress refine Kept.lit ?_ (fun _ p => p))

theorem execRingContextWrite_kept (r : RingNo) (ctx : BitVec 512) (s : State) : AnswersKept s (execRingContextWrite r ctx s) := by
  refine ⟨_, rfl, ?_⟩
  have written (x : Ring) (h : x.priv = (writeFixed r (getRing s r) ctx).priv) : Kept s (setRing s r x) := by
    refine setRing_kept (.refl s) fun p e => h.trans ?_
    rw [e]
    unfold writeFixed
    split
    · exact p
    · simp
  dsimp only
  split
  · exact .refl s
  · split
    · exact enableRing_kept _ _ (written _ rfl)
    · exact disableRing_kept _ _ (written _ rfl)

theorem execRingEnable_kept (r : RingNo) (s : State) : AnswersKept s (execRingEnable r s) := by
  refine ⟨_, rfl, ?_⟩
  with_reducible repeat' first
    | exact .refl s | apply enableRing_kept | split

theorem execRingDisable_kept (r : RingNo) (s : State) : AnswersKept s (execRingDisable r s) := by
  refine ⟨_, rfl, ?_⟩
  with_reducible repeat' first
    | exact .refl s | apply disableRing_kept | split

theorem execSqTail_kept (r : RingNo) (t : BitVec 16) (s : State) : AnswersKept s (execSqTail r t s) := by
  refine ⟨_, rfl, ?_⟩
  dsimp only
  repeat' first
    | with_reducible exact .refl s
    | with_reducible apply discardBell_kept
    | with_reducible apply ringError_kept
    | exact forwardedRing_kept rfl
    | split

theorem execCqHead_kept (r : RingNo) (h : BitVec 16) (s : State) : AnswersKept s (execCqHead r h s) := by
  refine ⟨_, rfl, ?_⟩
  with_reducible repeat' first
    | exact .refl s | apply discardBell_kept | apply ringError_kept | refine setRing_kept ?_ (fun p e => e ▸ p)
    | dsimp only | split

theorem execPush_kept (r : RingNo) (e : Option (BitVec 512)) (s : State) : AnswersKept s (execPush r e s) := by
  refine ⟨_, rfl, ?_⟩
  dsimp only
  repeat' first
    | with_reducible exact .refl s
    | with_reducible apply discardBell_kept
    | with_reducible apply ringError_kept
    | exact forwardedRing_kept rfl
    | split

theorem execSqFetch_kept (r : RingNo) (entry : Option (BitVec 512)) (s : State) : AnswersKept s (execSqFetch r entry s) := by
  refine ⟨_, rfl, ?_⟩
  with_reducible repeat' first
    | exact .refl s | apply takeEntry_kept | apply sendHostMem_kept | apply ringError_kept | dsimp only | split

theorem execCompletionPost_kept (r : RingNo) (hostError : Bool) (s : State) :
    AnswersKept s (execCompletionPost r hostError s) := by
  refine ⟨_, rfl, ?_⟩
  with_reducible repeat' first
    | exact .refl s | apply drydownEnd_kept | apply writeCq_kept | split
    | (fail_if_no_progress refine Kept.lit ?_ (fun _ p => p))

theorem execHoldoffExpiry_kept (r : RingNo) (s : State) : AnswersKept s (execHoldoffExpiry r s) := by
  refine ⟨_, rfl, ?_⟩
  with_reducible repeat' first
    | exact .refl s | apply raiseVector_kept | refine setRing_kept ?_ (fun p e => e ▸ p) | dsimp only | split

theorem execHostSnoop_kept (r : RingNo) (s : State) : AnswersKept s (execHostSnoop r s) := by
  refine ⟨_, rfl, ?_⟩
  with_reducible repeat' first
    | exact .refl s | apply flushLine_kept | split

theorem execEventPost_kept (hostError : Bool) (s : State) : AnswersKept s (execEventPost hostError s) := by
  refine ⟨_, rfl, ?_⟩
  with_reducible repeat' first
    | exact .refl s | apply writeCq_kept | dsimp only | split
    | (fail_if_no_progress refine Kept.lit ?_ (fun _ p => p))

theorem execQuench_kept (id : Nat) (s : State) : AnswersKept s (execQuench id s) := by
  refine ⟨_, rfl, ?_⟩
  with_reducible repeat' first
    | exact .refl s | apply quench_kept | apply updCmd_kept | apply finishCmd_kept | dsimp only | split

theorem execQuenchCtrl_kept (v : Word64) (bytes : Nat) (s : State) : AnswersKept s (execQuenchCtrl v bytes s) := by
  refine ⟨_, rfl, ?_⟩
  with_reducible repeat' first
    | exact .refl s | apply bump_kept | apply quench_kept | dsimp only | split

theorem execQuenchNAssert_kept (s : State) : AnswersKept s (execQuenchNAssert s) := by
  refine ⟨_, rfl, ?_⟩
  with_reducible repeat' first
    | exact .refl s | apply quench_kept | apply quenchPin_kept | split

theorem execQuenchNRelease_kept (s : State) : AnswersKept s (execQuenchNRelease s) := by
  refine ⟨_, rfl, ?_⟩
  with_reducible repeat' first
    | exact .refl s | apply quenchPin_kept | split

theorem execMbGo_kept (opcode : Word64) (len : Word64) (vector : BitVec 11) (payload : List Byte) (s : State) :
    AnswersKept s (execMbGo opcode len vector payload s) := by
  refine ⟨_, rfl, ?_⟩
  with_reducible repeat' first
    | exact .refl s | apply bump_kept | apply mbReject_kept | split
    | (fail_if_no_progress refine Kept.lit ?_ (fun _ p => p))

theorem execHdmCommit_kept (decoder : Fin 2) (base size skip : Nat) (ways : Nat) (lock : Bool) (s : State) :
    AnswersKept s (execHdmCommit decoder base size skip ways lock s) := by
  refine ⟨_, rfl, ?_⟩
  with_reducible repeat' first
    | exact .refl s | dsimp only | split | (fail_if_no_progress refine Kept.lit ?_ (fun _ p => p))

theorem execHostMemRead_kept (pdpa : Nat) (s : State) : AnswersKept s (execHostMemRead pdpa s) := by
  refine ⟨_, rfl, ?_⟩
  with_reducible repeat' first
    | exact .refl s | apply readFill_kept | apply bump_kept | apply requestDram_kept | dsimp only | split

theorem execHostMemWrite_kept (pdpa : Nat) (line : List Byte) (s : State) : AnswersKept s (execHostMemWrite pdpa line s) := by
  refine ⟨_, rfl, ?_⟩
  with_reducible repeat' first
    | exact .refl s | apply bump_kept | apply requestDram_kept | dsimp only | split

theorem execHeartbeat_kept (d : Die) (p : HbPath) (watchdogExpired : Bool) (s : State) :
    AnswersKept s (execHeartbeat d p watchdogExpired s) := by
  refine ⟨_, rfl, ?_⟩
  with_reducible repeat' first
    | exact .refl s | apply updDie_kept | apply send_kept | split
    | (fail_if_no_progress refine Kept.lit ?_ (fun _ p => p))

theorem execHeartbeatMiss_kept (d : Die) (p : HbPath) (s : State) : AnswersKept s (execHeartbeatMiss d p s) := by
  refine ⟨_, rfl, ?_⟩
  with_reducible repeat' first
    | exact .refl s | apply declare_kept | apply updDie_kept | split

theorem execWatchdogExpiry_kept (d : Die) (s : State) : AnswersKept s (execWatchdogExpiry d s) := by
  refine ⟨_, rfl, ?_⟩
  with_reducible repeat' first
    | exact .refl s | apply updDie_kept | split

theorem execWatchdogRestartTimeout_kept (d : Die) (s : State) : AnswersKept s (execWatchdogRestartTimeout d s) := by
  refine ⟨_, rfl, ?_⟩
  with_reducible repeat' first
    | exact .refl s | apply updDie_kept | apply declare_kept | split

theorem execReleaseSequenceOverrun_kept (d : Die) (s : State) : AnswersKept s (execReleaseSequenceOverrun d s) := by
  refine ⟨_, rfl, ?_⟩
  with_reducible repeat' first
    | exact .refl s | apply setDie_kept | apply declare_kept | dsimp only | split
    | (fail_if_no_progress refine Kept.lit ?_ (fun _ p => p))

theorem execDieLoss_kept (d : Die) (memory : Bool) (s : State) : AnswersKept s (execDieLoss d memory s) := by
  refine ⟨_, rfl, ?_⟩
  with_reducible repeat' first
    | exact .refl s | apply loseDie_kept | split

theorem execRingRehome_kept (r : RingNo) (s : State) : AnswersKept s (execRingRehome r s) := by
  refine ⟨_, rfl, ?_⟩
  with_reducible repeat' first
    | exact .refl s | apply updDie_kept | apply send_kept | apply sillage_kept
    | refine updRing_kept ?_ (fun _ p => p) | dsimp only | split

theorem execRingReturn_kept (r : RingNo) (s : State) : AnswersKept s (execRingReturn r s) := by
  refine ⟨_, rfl, ?_⟩
  with_reducible repeat' first
    | exact .refl s | apply sillage_kept | apply send_kept | refine updRing_kept ?_ (fun _ p => p) | dsimp only
    | split

theorem execGroupRehome_kept (g : GroupNo) (s : State) : AnswersKept s (execGroupRehome g s) := by
  refine ⟨_, rfl, ?_⟩
  with_reducible repeat' first
    | assumption | exact .refl s | apply updGroup_kept | apply settleGroup_kept | apply writeFstate_kept
    | apply reserveAgain_kept | refine foldl_kept _ ?_ (fun _ _ _ => ?_) | dsimp only | split

theorem execJobRequeue_kept (jn : Nat) (s : State) : AnswersKept s (execJobRequeue jn s) := by
  refine ⟨_, rfl, ?_⟩
  with_reducible repeat' first
    | assumption | exact .refl s | apply updJob_kept | apply failLost_kept | apply closeSlots_kept
    | apply chargeTask_kept | apply freeCores_kept | apply prepareFutures_kept | apply updGroup_kept
    | apply raiseV_kept | apply bump_kept | refine foldl_kept _ ?_ (fun _ _ _ => ?_) | split
    | (fail_if_no_progress refine Kept.lit ?_ (fun _ p => p))

theorem execSecondDieFill_kept (i : FillItem) (s : State) : AnswersKept s (execSecondDieFill i s) := by
  refine ⟨_, rfl, ?_⟩
  with_reducible repeat' first
    | exact .refl s | apply updSpace_kept | apply updGroup_kept | split

theorem execFillDone_kept (i : FillItem) (s : State) : AnswersKept s (execFillDone i s) := by
  refine ⟨_, rfl, ?_⟩
  with_reducible repeat' first
    | exact .refl s | apply updSpace_kept | apply updGroup_kept | split

theorem execAutoRejoin_kept (d : Die) (s : State) : AnswersKept s (execAutoRejoin d s) := by
  refine ⟨_, rfl, ?_⟩
  with_reducible repeat' first
    | exact .refl s | apply startRejoin_kept | dsimp only | split

theorem execRejoinDone_kept (d : Die) (s : State) : AnswersKept s (execRejoinDone d s) := by
  refine ⟨_, rfl, ?_⟩
  split
  · exact .refl s
  · refine setRole_kept _ _ _ (updDie_kept _ _ _ (.lit (.lit (foldl_kept _ (.lit (undefSpace_kept _ _ _ _ (.refl s))
      fun _ p => p) fun u b kept => dramWritten_kept kept _ _) fun _ p => p) fun _ p => p))

theorem execRepack_kept (s : State) : AnswersKept s (execRepack s) := by
  refine ⟨_, rfl, ?_⟩
  with_reducible repeat' first
    | exact .refl s | apply updImago_kept | dsimp only | split
    | (fail_if_no_progress refine Kept.lit ?_ (fun _ p => p))

theorem execRepackSwitch_kept (frame : Nat) (s : State) : AnswersKept s (execRepackSwitch frame s) := by
  refine ⟨_, rfl, ?_⟩
  split
  · exact .refl s
  · dsimp only
    split
    · exact .refl s
    · refine .lit (switchPtes_kept _ _ _ (.lit (foldl_kept _ (foldl_kept _ (.refl s) fun u q kept => dramWritten_kept kept _ _)
        fun u p kept => formParity_kept _ _ _ kept) fun _ p => p)) fun _ p => p

theorem execSpareSwapDone_kept (c : CoreNo) (pass : Bool) (s : State) : AnswersKept s (execSpareSwapDone c pass s) := by
  refine ⟨_, rfl, ?_⟩
  with_reducible repeat' first
    | exact .refl s | apply updCluster_kept | apply failOversize_kept | apply recordRetired_kept
    | refine updCore_kept ?_ (fun _ a b => ⟨a, b⟩) | dsimp only | split
    | (fail_if_no_progress refine Kept.lit ?_ (fun _ p => p))

theorem execCoreLogicUe_kept (c : CoreNo) (s : State) : AnswersKept s (execCoreLogicUe c s) := by
  refine ⟨_, rfl, ?_⟩
  with_reducible repeat' first
    | assumption | exact .refl s | apply askRetire_kept | apply interrupt_kept
    | refine foldl_kept _ ?_ (fun _ _ _ => ?_) | dsimp only | split

theorem execUpdateRestart_kept (d : Die) (s : State) : AnswersKept s (execUpdateRestart d s) := by
  refine ⟨_, rfl, ?_⟩
  with_reducible repeat' first
    | exact .refl s | apply updDie_kept | apply setRole_kept | split
    | (fail_if_no_progress refine Kept.lit ?_ (fun _ p => p))

theorem execUpdateDone_kept (d : Die) (e : UpdateEnd) (s : State) : AnswersKept s (execUpdateDone d e s) := by
  refine ⟨_, rfl, ?_⟩
  with_reducible repeat' first
    | exact .refl s | apply updDie_kept | apply setRole_kept | apply recordFw_kept | apply activate_kept
    | apply loseDie_kept | dsimp only | split | (fail_if_no_progress refine Kept.lit ?_ (fun _ p => p))

theorem execHubUpdateDone_kept (s : State) : AnswersKept s (execHubUpdateDone s) := by
  refine ⟨_, rfl, ?_⟩
  with_reducible repeat' first
    | exact .refl s | apply recordFw_kept | apply activate_kept | split
    | (fail_if_no_progress refine Kept.lit ?_ (fun _ p => p))

end Sys2Proof.Machine
end

section
/-! The commands on resets, links, the dictionary, the field network and the Cocoon keep the invariants. -/

namespace Sys2Proof.Machine

theorem execHotReset_kept (s : State) : AnswersKept s (execHotReset s) := by
  refine ⟨_, rfl, ?_⟩
  with_reducible repeat' first
    | exact .refl s | apply resetCxl_kept | apply functionReset_kept | apply pkgCause_kept | split

theorem execFlr_kept (s : State) : AnswersKept s (execFlr s) := by
  refine ⟨_, rfl, ?_⟩
  with_reducible repeat' first
    | exact .refl s | apply functionReset_kept | apply pkgCause_kept | split

theorem execPerstAssert_kept (s : State) : AnswersKept s (execPerstAssert s) := by
  refine ⟨_, rfl, ?_⟩
  with_reducible repeat' first
    | exact .refl s | apply functionReset_kept | apply wideCause_kept | apply hubBack_kept | apply dropLink_kept
    | apply resetCxl_kept | apply wipeDies_kept | dsimp only | split
    | (fail_if_no_progress refine Kept.lit ?_ (fun _ p => p))

theorem execPerstRelease_kept (s : State) : AnswersKept s (execPerstRelease s) := by
  refine ⟨_, rfl, ?_⟩
  with_reducible repeat' first
    | exact .refl s | apply foldl_kept | apply restartDie_kept | dsimp only | split
    | (fail_if_no_progress refine Kept.lit ?_ (fun _ p => p))

theorem execPorAssert_kept (s : State) : AnswersKept s (execPorAssert s) := by
  refine ⟨_, rfl, ?_⟩
  with_reducible repeat' first
    | exact .refl s | apply assertPor_kept | split

theorem execTrip_kept (cause : Fin 8) (sensor reading : BitVec 16) (s : State) :
    AnswersKept s (execTrip cause sensor reading s) := by
  refine ⟨_, rfl, ?_⟩
  with_reducible repeat' first
    | exact .refl s | apply assertTrip_kept | split

theorem execSupplyLoss_kept (r : Rail) (s : State) : AnswersKept s (execSupplyLoss r s) := by
  refine ⟨_, rfl, ?_⟩
  with_reducible repeat' first
    | exact .refl s | apply assertPor_kept | apply assertTrip_kept | dsimp only | split
    | (fail_if_no_progress refine Kept.lit ?_ (fun _ p => p))

theorem execReferenceQualified_kept (s : State) : AnswersKept s (execReferenceQualified s) := by
  refine ⟨_, rfl, ?_⟩
  with_reducible repeat' first
    | exact .refl s | (fail_if_no_progress refine Kept.lit ?_ (fun _ p => p))

theorem execVinCoreUp_kept (s : State) : AnswersKept s (execVinCoreUp s) := by
  refine ⟨_, rfl, ?_⟩
  with_reducible repeat' first
    | exact .refl s | (fail_if_no_progress refine Kept.lit ?_ (fun _ p => p))

theorem execPorRelease_kept (bootSel clkMode : Fin 4) (s : State) : AnswersKept s (execPorRelease bootSel clkMode s) := by
  refine ⟨_, rfl, ?_⟩
  with_reducible repeat' first
    | exact .refl s | apply strapRecord_kept | apply releaseBoot_kept | apply loadMaps_kept | split
    | (fail_if_no_progress refine Kept.lit ?_ (fun _ p => p))

theorem execTripRelease_kept (cool : Bool) (s : State) : AnswersKept s (execTripRelease cool s) := by
  refine ⟨_, rfl, ?_⟩
  with_reducible repeat' first
    | exact .refl s | apply releaseBoot_kept | split | (fail_if_no_progress refine Kept.lit ?_ (fun _ p => p))

theorem execLockstepMismatch_kept (s : State) : AnswersKept s (execLockstepMismatch s) := by
  have again : Kept s (execLockstepMismatch.again s) := bump_kept _ _ _ _ ((Kept.refl s).lit fun _ p => p)
  refine ⟨_, rfl, ?_⟩
  repeat' first
    | with_reducible exact .refl s
    | with_reducible exact again
    | with_reducible apply assertTrip_kept
    | split

theorem execCocoonRestartDone_kept (ok : Bool) (s : State) : AnswersKept s (execCocoonRestartDone ok s) := by
  refine ⟨_, rfl, ?_⟩
  with_reducible repeat' first
    | exact .refl s | apply recordFw_kept | apply activate_kept | apply startAlias_kept | split
    | (fail_if_no_progress refine Kept.lit ?_ (fun _ p => p))

theorem execAliasGenDone_kept (s : State) : AnswersKept s (execAliasGenDone s) := by
  refine ⟨_, rfl, ?_⟩
  with_reducible repeat' first
    | exact .refl s | dsimp only | split | (fail_if_no_progress refine Kept.lit ?_ (fun _ p => p))

theorem execDieRstAssert_kept (d : Die) (s : State) : AnswersKept s (execDieRstAssert d s) := by
  refine ⟨_, rfl, ?_⟩
  with_reducible repeat' first
    | exact .refl s | apply assertDie_kept | apply setDie_kept | dsimp only | split

theorem execDieRstRelease_kept (d : Die) (s : State) : AnswersKept s (execDieRstRelease d s) := by
  refine ⟨_, rfl, ?_⟩
  with_reducible repeat' first
    | exact .refl s | apply startRelease_kept | apply setDie_kept | dsimp only | split

theorem execDieReleaseDone_kept (d : Die) (s : State) : AnswersKept s (execDieReleaseDone d s) := by
  refine ⟨_, rfl, ?_⟩
  with_reducible repeat' first
    | exact .refl s | apply setDie_kept | apply requeueMig_kept | apply extendMr_kept | apply setPool_kept
    | apply setRole_kept | apply settleReady_kept | dsimp only | split

theorem execClusterRst_kept (k : ClusterNo) (s : State) : AnswersKept s (execClusterRst k s) := by
  refine ⟨_, rfl, ?_⟩
  with_reducible repeat' first
    | exact .refl s | apply askCores_kept | apply setCluster_kept | dsimp only | split

theorem execCoreRst_kept (c : CoreNo) (s : State) : AnswersKept s (execCoreRst c s) := by
  refine ⟨_, rfl, ?_⟩
  dsimp only
  split
  · exact .refl s
  · exact setCore_kept (.refl s) fun p => p c

theorem execIdleReport_kept (b : IdleBlock) (s : State) : AnswersKept s (execIdleReport b s) := by
  refine ⟨_, rfl, ?_⟩
  with_reducible repeat' first
    | exact .refl s | apply assertBlock_kept | split

theorem execIdleTimeout_kept (b : IdleBlock) (s : State) : AnswersKept s (execIdleTimeout b s) := by
  refine ⟨_, rfl, ?_⟩
  with_reducible repeat' first
    | exact .refl s | apply assertBlock_kept | apply forceCause_kept | split

theorem execLinkTrain_kept (l : Fin 10) (badLanes : Nat) (s : State) : AnswersKept s (execLinkTrain l badLanes s) := by
  refine ⟨_, rfl, ?_⟩
  with_reducible repeat' first
    | exact .refl s | apply linkRecord_kept | apply setLink_kept | dsimp only | split

theorem execLaneRetrain_kept (l : Fin 10) (s : State) : AnswersKept s (execLaneRetrain l s) := by
  refine ⟨_, rfl, ?_⟩
  with_reducible repeat' first
    | exact .refl s | apply setLink_kept | dsimp only | split

theorem execLaneRetrainDone_kept (l : Fin 10) (s : State) : AnswersKept s (execLaneRetrainDone l s) := by
  refine ⟨_, rfl, ?_⟩
  with_reducible repeat' first
    | exact .refl s | apply setLink_kept | dsimp only | split

theorem execLinkFault_kept (l : Fin 10) (s : State) : AnswersKept s (execLinkFault l s) := by
  refine ⟨_, rfl, ?_⟩
  with_reducible repeat' first
    | exact .refl s | apply linkRecord_kept | apply downLink_kept | dsimp only | split

theorem execStoreDone_kept (ok : Bool) (s : State) : AnswersKept s (execStoreDone ok s) := by
  refine ⟨_, rfl, ?_⟩
  with_reducible repeat' first
    | exact .refl s | split | (fail_if_no_progress refine Kept.lit ?_ (fun _ p => p))

theorem execObjectWrite_kept (f : FieldWrite) (s : State) : AnswersKept s (execObjectWrite f s) := by
  refine ⟨_, rfl, ?_⟩
  with_reducible repeat' first
    | exact .refl s | apply writeRequest_kept | split

theorem execPmbusPoll_kept (r : Option PmbusReading) (s : State) : AnswersKept s (execPmbusPoll r s) := by
  refine ⟨_, rfl, ?_⟩
  with_reducible repeat' first
    | exact .refl s | split | (fail_if_no_progress refine Kept.lit ?_ (fun _ p => p))

theorem execDictRead_kept (s : State) : AnswersKept s (execDictRead s) := by
  refine ⟨_, rfl, ?_⟩
  with_reducible repeat' first
    | exact .refl s | refine someAll_snd ?_ (by assumption) | apply nextDict_kept | apply respond_kept | split

theorem execDictWrite_kept (s : State) : AnswersKept s (execDictWrite s) := by
  refine ⟨_, rfl, ?_⟩
  with_reducible repeat' first
    | exact .refl s | refine someAll_snd ?_ (by assumption) | apply nextDict_kept | apply respond_kept
    | apply writeRequest_kept | split

theorem execFnFrame_kept (frame : List Byte) (s : State) : AnswersKept s (execFnFrame frame s) := by
  refine ⟨_, rfl, ?_⟩
  with_reducible repeat' first
    | exact .refl s | apply bump_kept | apply rejectLayout_kept | apply rejectFrame_kept | apply acceptRequest_kept
    | apply takeFragment_kept | dsimp only | split

theorem execSessionGrant_kept (s : State) : AnswersKept s (execSessionGrant s) := by
  refine ⟨_, rfl, ?_⟩
  with_reducible repeat' first
    | exact .refl s | apply rejectFrame_kept | apply sillage_kept | apply fieldRespond_kept | dsimp only | split
    | (fail_if_no_progress refine Kept.lit ?_ (fun _ p => p))

theorem execSessionClose_kept (s : State) : AnswersKept s (execSessionClose s) := by
  refine ⟨_, rfl, ?_⟩
  with_reducible repeat' first
    | exact .refl s | apply closeSession_kept | apply fieldRespond_kept | dsimp only | split
    | (fail_if_no_progress refine Kept.lit ?_ (fun _ p => p))

theorem execSessionExpiry_kept (n : BitVec 16) (s : State) : AnswersKept s (execSessionExpiry n s) := by
  refine ⟨_, rfl, ?_⟩
  with_reducible repeat' first
    | exact .refl s | apply closeSession_kept | split

theorem execReassemblyTimeout_kept (buffer : Fin 4) (s : State) : AnswersKept s (execReassemblyTimeout buffer s) := by
  refine ⟨_, rfl, ?_⟩
  with_reducible repeat' first
    | exact .refl s | apply dropReasm_kept | split

theorem execChangeOrder_kept (s : State) : AnswersKept s (execChangeOrder s) := by
  refine ⟨_, rfl, ?_⟩
  with_reducible repeat' first
    | exact .refl s | refine someAll_snd ?_ (by assumption) | apply nextCocoon_kept | apply applyOrder_kept
    | apply respond_kept | apply refuseOrder_kept | dsimp only | split

theorem execClaim_kept (s : State) : AnswersKept s (execClaim s) := by
  refine ⟨_, rfl, ?_⟩
  with_reducible repeat' first
    | exact .refl s | refine someAll_snd ?_ (by assumption) | apply nextCocoon_kept | apply applyOrder_kept
    | apply respond_kept | apply refuseOrder_kept | split | (fail_if_no_progress refine Kept.lit ?_ (fun _ p => p))

theorem execAttestReport_kept (s : State) : AnswersKept s (execAttestReport s) := by
  refine ⟨_, rfl, ?_⟩
  with_reducible repeat' first
    | exact .refl s | refine someAll_snd ?_ (by assumption) | apply nextCocoon_kept | apply respond_kept
    | apply sillage_kept | dsimp only | split | (fail_if_no_progress refine Kept.lit ?_ (fun _ p => p))

theorem execAttestCertificate_kept (s : State) : AnswersKept s (execAttestCertificate s) := by
  refine ⟨_, rfl, ?_⟩
  with_reducible repeat' first
    | exact .refl s | refine someAll_snd ?_ (by assumption) | apply nextCocoon_kept | apply respond_kept
    | dsimp only | split

theorem execInstarStart_kept (u : FwUnit) (pass : Bool) (s : State) : AnswersKept s (execInstarStart u pass s) := by
  refine ⟨_, rfl, ?_⟩
  with_reducible repeat' first
    | exact .refl s | apply startCocoon_kept | apply startRecovery_kept | apply startHub_kept | apply extendMr_kept
    | apply runFrom_kept | apply updDie_kept | apply failDieBoot_kept | dsimp only | split

end Sys2Proof.Machine
end

section
/-! Every command is answered and keeps the invariants; what a step does (log 1 to 3, R366, R394, R516). -/

namespace Sys2Proof.Machine

/-- Every command in every state is answered by a next state that keeps the invariants. -/
theorem exec_kept (s : State) : ∀ c : Instr, AnswersKept s (exec c s)
  | .ldt _ _ => issueEngine_answers fun _ => ldtEffect_kept
  | .stt _ _ => issueEngine_answers fun _ => sttEffect_kept
  | .gath _ _ => issueEngine_answers fun _ => gathEffect_kept
  | .scat _ _ => issueEngine_answers fun _ => scatEffect_kept
  | .mma _ _ _ => issueEngine_answers fun _ => matEffect_kept _
  | .mmax _ _ _ => issueEngine_answers fun _ => matEffect_kept _
  | .ewu _ _ _ => issueEngine_answers fun _ => ewuEffect_kept
  | .ewb _ _ => issueEngine_answers fun _ => ewbEffect_kept
  | .act _ _ _ => issueEngine_answers fun _ => actEffect_kept
  | .win _ _ => issueEngine_answers fun _ => winEffect_kept
  | .pool _ _ => issueEngine_answers fun _ => poolEffect_kept
  | .atts _ _ _ => issueEngine_answers fun _ => attsEffect_kept
  | .attv _ _ _ => issueEngine_answers fun _ => attvEffect_kept
  | .scan _ _ => issueEngine_answers fun _ => scanEffect_kept
  | .lconv _ _ => issueEngine_answers fun _ => lconvEffect_kept
  | .route _ _ _ => issueEngine_answers fun _ => routeEffect_kept
  | .comb _ _ _ => issueEngine_answers fun _ => combEffect_kept
  | .boxd _ _ _ => issueEngine_answers fun _ => boxdEffect_kept
  | .nms _ _ => issueEngine_answers fun _ => nmsEffect_kept
  | .madd _ _ => issueEngine_answers fun _ => maddEffect_kept
  | .cnta c b => execCnta_kept c b s
  | .cvt _ _ => issueEngine_answers fun _ => cvtEffect_kept
  | .wait c b => execWait_kept c b s
  | .sig c b => execSig_kept c b s
  | .bar c b => execBar_kept c b s
  | .loop c b => execLoop_kept c b s
  | .jmp c b => execJmp_kept c b s
  | .skipl c b => execSkipl_kept c b s
  | .fork _ _ => issueEngine_answers fun _ => forkEffect_kept
  | .drop c b => execDrop_kept c b s
  | .dropTrunc c b => execDropTrunc_kept c b s
  | .passOver c op b => execPassOver_kept c op b s
  | .identityWrite c op b => execIdentityWrite_kept c op b s
  | .instrRetire c lc exe k => execInstrRetire_kept c lc exe k s
  | .segmentComplete c lc k cls => execSegmentComplete_kept c lc k cls s
  | .fetchHazardStart c lc k => execFetchHazardStart_kept c lc k s
  | .sigAddLands c lc => execSigAddLands_kept c lc s
  | .watchRelease c lc => execWatchRelease_kept c lc s
  | .watchPoll c lc => execWatchPoll_kept c lc s
  | .syncTimeout c lc => execSyncTimeout_kept c lc s
  | .jobStart j => execJobStart_kept j s
  | .jobComplete j => execJobComplete_kept j s
  | .lcPreempt c => execLcPreempt_kept c s
  | .lcResumeBe c => execLcResumeBe_kept c s
  | .rampEnd c => execRampEnd_kept c s
  | .scratchScrub c word badBits => execScratchScrub_kept c word badBits s
  | .rearmPromote c lc sid => execRearmPromote_kept c lc sid s
  | .mcastBlockFetch j g => execMcastBlockFetch_kept j g s
  | .carouselStart c lc k => execCarouselStart_kept c lc k s
  | .commit g idx layer n => execCommit_kept g idx layer n s
  | .appendDone g idx layer => execAppendDone_kept g idx layer s
  | .commitResume d => execCommitResume_kept d s
  | .prefixOffer g idx block => execPrefixOffer_kept g idx block s
  | .mirrorFill d page => execMirrorFill_kept d page s
  | .groupCreate id slot => execGroupCreate_kept id slot s
  | .groupDestroy id => execGroupDestroy_kept id s
  | .join id => execJoin_kept id s
  | .leave id => execLeave_kept id s
  | .stepBoundary g => execStepBoundary_kept g s
  | .evictionDone g => execEvictionDone_kept g s
  | .swapOutRequest c lc slot => execSwapOutRequest_kept c lc slot s
  | .swapOut c lc slot => execSwapOut_kept c lc slot s
  | .swapIn c lc slot => execSwapIn_kept c lc slot s
  | .swapInDone c lc slot => execSwapInDone_kept c lc slot s
  | .dramRequest d r => execDramRequest_kept d r s
  | .ceWriteback d channel dpa => execCeWriteback_kept d channel dpa s
  | .patrolScrub d channel errBytes => execPatrolScrub_kept d channel errBytes s
  | .adderOp d dpa fmt op v cmp => execAdderOp_kept d dpa fmt op v cmp s
  | .regulatorTick d => execRegulatorTick_kept d s
  | .migrateRequest _ _ => mbWrite_answers
  | .recalExpiry d channel => execRecalExpiry_kept d channel s
  | .migrationStart d => execMigrationStart_kept d s
  | .migrationSwap d => execMigrationSwap_kept d s
  | .retrainDone d pass => execRetrainDone_kept d pass s
  | .controlPeriod r => execControlPeriod_kept r s
  | .dramLimitRaise k => execDramLimitRaise_kept k s
  | .neighbourThrottle k => execNeighbourThrottle_kept k s
  | .refreshRestore d layer => execRefreshRestore_kept d layer s
  | .junctionRaise k => execJunctionRaise_kept k s
  | .powerRaise => execPowerRaise_kept s
  | .halfRateStart d amps => execHalfRateStart_kept d amps s
  | .pointRampDone k => execPointRampDone_kept k s
  | .aspaceCreate id asid => execAspaceCreate_kept id asid s
  | .aspaceDestroy id => execAspaceDestroy_kept id s
  | .map id frame => execMap_kept id frame s
  | .unmap id => execUnmap_kept id s
  | .place id frame => execPlace_kept id frame s
  | .bias id => execBias_kept id s
  | .imagoLoad id slot frame => execImagoLoad_kept id slot frame s
  | .imagoLoadDone slot => execImagoLoadDone_kept slot s
  | .imagoRetire id => execImagoRetire_kept id s
  | .libraryStore id => execLibraryStore_kept id s
  | .nop id => execNop_kept id s
  | .demotion d frame => execDemotion_kept d frame s
  | .promotion asid vpn frame => execPromotion_kept asid vpn frame s
  | .pageMoveDone asid vpn => execPageMoveDone_kept asid vpn s
  | .lateRead j why => execLateRead_kept j why s
  | .nandReadDone library page fails => execNandReadDone_kept library page fails s
  | .badBlockRetire channel block => execBadBlockRetire_kept channel block s
  | .wearLevelMove channel block fresh => execWearLevelMove_kept channel block fresh s
  | .readDisturbRefresh channel block fresh => execReadDisturbRefresh_kept channel block fresh s
  | .cxlLinkTrain rate width => execCxlLinkTrain_kept rate width s
  | .ringContextWrite r ctx => execRingContextWrite_kept r ctx s
  | .ringEnable r => execRingEnable_kept r s
  | .ringDisable r => execRingDisable_kept r s
  | .sqTail r t => execSqTail_kept r t s
  | .cqHead r h => execCqHead_kept r h s
  | .push r entry => execPush_kept r entry s
  | .sqFetch r entry => execSqFetch_kept r entry s
  | .job id => execJob_kept id s
  | .completionPost r hostError => execCompletionPost_kept r hostError s
  | .holdoffExpiry r => execHoldoffExpiry_kept r s
  | .hostSnoop r => execHostSnoop_kept r s
  | .eventPost hostError => execEventPost_kept hostError s
  | .quench id => execQuench_kept id s
  | .quenchCtrl v bytes => execQuenchCtrl_kept v bytes s
  | .quenchNAssert => execQuenchNAssert_kept s
  | .quenchNRelease => execQuenchNRelease_kept s
  | .mbGo opcode len vector payload => execMbGo_kept opcode len vector payload s
  | .dictRead => execDictRead_kept s
  | .dictWrite => execDictWrite_kept s
  | .changeOrder => execChangeOrder_kept s
  | .claim => execClaim_kept s
  | .attestReport => execAttestReport_kept s
  | .attestCertificate => execAttestCertificate_kept s
  | .hostMemRead pdpa => execHostMemRead_kept pdpa s
  | .hostMemWrite pdpa line => execHostMemWrite_kept pdpa line s
  | .hdmCommit decoder base size skip ways lock => execHdmCommit_kept decoder base size skip ways lock s
  | .objectWrite f => execObjectWrite_kept f s
  | .store _ => mbWrite_answers
  | .storeDone ok => execStoreDone_kept ok s
  | .restore _ => mbWrite_answers
  | .restoreDefaults _ => mbWrite_answers
  | .sillClear _ => mbWrite_answers
  | .resetCauseClear _ => mbWrite_answers
  | .pmbusClear _ => mbWrite_answers
  | .vinCoreSetpoint _ => mbWrite_answers
  | .pmbusPoll r => execPmbusPoll_kept r s
  | .fnEnable _ => mbWrite_answers
  | .fnQuench _ => mbWrite_answers
  | .lossQuery _ => mbWrite_answers
  | .coreRetire _ _ => mbWrite_answers
  | .spareSwapDone c pass => execSpareSwapDone_kept c pass s
  | .drain _ => mbWrite_answers
  | .undrain _ => mbWrite_answers
  | .update _ => mbWrite_answers
  | .updateRestart d => execUpdateRestart_kept d s
  | .updateDone d e => execUpdateDone_kept d e s
  | .hubUpdate => mbWrite_answers
  | .rejoin _ => mbWrite_answers
  | .autoRejoin d => execAutoRejoin_kept d s
  | .rejoinDone d => execRejoinDone_kept d s
  | .fwStageKind _ => mbWrite_answers
  | .fwStageData _ => mbWrite_answers
  | .fwStageCommit _ => mbWrite_answers
  | .cocoonBankSwap _ => mbWrite_answers
  | .fnFrame frame => execFnFrame_kept frame s
  | .sessionGrant => execSessionGrant_kept s
  | .sessionClose => execSessionClose_kept s
  | .sessionExpiry n => execSessionExpiry_kept n s
  | .reassemblyTimeout buffer => execReassemblyTimeout_kept buffer s
  | .jobDispatch j => execJobDispatch_kept j s
  | .clusterWake k => execClusterWake_kept k s
  | .wakeDone k => execWakeDone_kept k s
  | .coldAfterExpiry k => execColdAfterExpiry_kept k s
  | .clusterDrydownDone k => execClusterDrydownDone_kept k s
  | .spill c frame => execSpill_kept c frame s
  | .spillDone c => execSpillDone_kept c s
  | .spillRestore c failed => execSpillRestore_kept c failed s
  | .forcedSwitch j => execForcedSwitch_kept j s
  | .fallbackSwitch j => execFallbackSwitch_kept j s
  | .deadlineExpiry j => execDeadlineExpiry_kept j s
  | .heartbeat d p watchdogExpired => execHeartbeat_kept d p watchdogExpired s
  | .heartbeatMiss d p => execHeartbeatMiss_kept d p s
  | .watchdogExpiry d => execWatchdogExpiry_kept d s
  | .dieLoss d memory => execDieLoss_kept d memory s
  | .ringRehome r => execRingRehome_kept r s
  | .ringReturn r => execRingReturn_kept r s
  | .groupRehome g => execGroupRehome_kept g s
  | .jobRequeue j => execJobRequeue_kept j s
  | .secondDieFill it => execSecondDieFill_kept it s
  | .fillDone it => execFillDone_kept it s
  | .repack => execRepack_kept s
  | .repackSwitch frame => execRepackSwitch_kept frame s
  | .lockstepMismatch => execLockstepMismatch_kept s
  | .cocoonRestartDone ok => execCocoonRestartDone_kept ok s
  | .trip cause sensor reading => execTrip_kept cause sensor reading s
  | .tripRelease cool => execTripRelease_kept cool s
  | .aliasGenDone => execAliasGenDone_kept s
  | .porAssert => execPorAssert_kept s
  | .porRelease bootSel clkMode => execPorRelease_kept bootSel clkMode s
  | .instarStart u pass => execInstarStart_kept u pass s
  | .perstAssert => execPerstAssert_kept s
  | .perstRelease => execPerstRelease_kept s
  | .hotReset => execHotReset_kept s
  | .flr => execFlr_kept s
  | .dieRstAssert d => execDieRstAssert_kept d s
  | .dieRstRelease d => execDieRstRelease_kept d s
  | .dieReleaseDone d => execDieReleaseDone_kept d s
  | .clusterRst k => execClusterRst_kept k s
  | .coreRst c => execCoreRst_kept c s
  | .idleReport b => execIdleReport_kept b s
  | .idleTimeout b => execIdleTimeout_kept b s
  | .supplyLoss r => execSupplyLoss_kept r s
  | .referenceQualified => execReferenceQualified_kept s
  | .linkTrain l badLanes => execLinkTrain_kept l badLanes s
  | .laneRetrain l => execLaneRetrain_kept l s
  | .laneRetrainDone l => execLaneRetrainDone_kept l s
  | .linkFault l => execLinkFault_kept l s
  | .unassignedOpcode c op b => execUnassignedOpcode_kept c op b s
  | .watchdogRestartTimeout d => execWatchdogRestartTimeout_kept d s
  | .releaseSequenceOverrun d => execReleaseSequenceOverrun_kept d s
  | .coreLogicUe c => execCoreLogicUe_kept c s
  | .vinCoreUp => execVinCoreUp_kept s
  | .hubUpdateDone => execHubUpdateDone_kept s
  | .currentLimitRaise => execCurrentLimitRaise_kept s
  | .pmbusEnable _ => mbWrite_answers

/-- A step on a queue with a command, and one on an empty queue, keep the invariants but for the queue. -/
theorem step_kept {s t : State} (h : step s = .next t) : ∃ s0 : State, Kept s0 t ∧ s0 = { s with pending := s0.pending } := by
  unfold step at h
  split at h
  · next c rest _ =>
    obtain ⟨u, hu, kept⟩ := exec_kept { s with pending := rest } c
    cases hu.symm.trans h
    exact ⟨_, kept, rfl⟩
  · cases h
    exact ⟨s, passTime_kept _ (.upd (.refl s) rfl rfl rfl rfl rfl rfl rfl rfl rfl), rfl⟩

/-- Settles O3: every meaning answers, and `Kept` says that the queue stays. -/
theorem meaningsCompleteAndKeepTheQueue : Obligations.MeaningsCompleteAndKeepTheQueue := by
  intro c s
  obtain ⟨t, ht, kept⟩ := exec_kept s c
  exact ⟨t, ht, kept.pending⟩

/-- Settles O4: no step leaves the canonical form. -/
theorem stepKeepsMemoriesCanonical : Obligations.StepKeepsMemoriesCanonical := by
  intro s t ⟨hdram, hhost, hnand, hscratch⟩ hstep
  obtain ⟨s0, kept, h0⟩ := step_kept hstep
  rw [h0] at kept
  exact ⟨kept.dram hdram, kept.host hhost, kept.nand hnand, kept.scratch hscratch⟩

/-- Settles O5: no step puts a task into the other class's place. -/
theorem stepKeepsTaskClasses : Obligations.StepKeepsTaskClasses := by
  intro s t hs hstep
  obtain ⟨s0, kept, h0⟩ := step_kept hstep
  rw [h0] at kept
  exact kept.tasks hs

/-- Settles O6: records that are added push the oldest out. -/
theorem stepKeepsSillageBounded : Obligations.StepKeepsSillageBounded := by
  intro s t hs hstep
  obtain ⟨s0, kept, h0⟩ := step_kept hstep
  rw [h0] at kept
  exact kept.sill hs

/-- Settles O7: no command clears PRIV of ring 0. -/
theorem stepKeepsRingZeroPrivileged : Obligations.StepKeepsRingZeroPrivileged := by
  intro s t hs hstep
  obtain ⟨s0, kept, h0⟩ := step_kept hstep
  rw [h0] at kept
  exact kept.ring hs

/-- Settles O8: no command, a reset included, restores a fuse. -/
theorem blownFuseHolds : Obligations.BlownFuseHolds := by
  intro s t d hd hstep
  obtain ⟨s0, kept, h0⟩ := step_kept hstep
  rw [h0] at kept
  exact kept.fuses d hd

/-- Settles O1: `step` takes the front of the queue. -/
theorem stepRunsFrontCommand : Obligations.StepRunsFrontCommand :=
  fun _ _ _ => rfl

end Sys2Proof.Machine
end

section
/-! 100 ns of uptime on an empty queue (log 2), and the state under power-on reset. -/

namespace Sys2Proof.Machine

/-- What time alone leaves as it is: all but the clock, the links, the hub, the dies, the statistics and the trail. -/
structure TimeKept (s t : State) : Prop where
  pending : t.pending = s.pending
  nowNs : t.nowNs = s.nowNs
  dram : t.dram = s.dram
  hostMem : t.hostMem = s.hostMem
  nand : t.nand = s.nand
  scratch : t.scratch = s.scratch
  cores : t.cores = s.cores
  jobs : t.jobs = s.jobs
  aspaces : t.aspaces = s.aspaces
  groups : t.groups = s.groups
  rings : t.rings = s.rings
  cmds : t.cmds = s.cmds
  dict : t.dict = s.dict
  coc : t.coc = s.coc

theorem TimeKept.refl (s : State) : TimeKept s s := by
  constructor <;> rfl

theorem TimeKept.trans {s t u : State} (h : TimeKept s t) (k : TimeKept t u) : TimeKept s u := by
  cases h
  cases k
  constructor <;> simp only [*]

theorem foldl_timeKept {α : Type} {f : State → α → State} (hf : ∀ s a, TimeKept s (f s a)) (l : List α) (s : State) :
    TimeKept s (l.foldl f s) := by
  induction l generalizing s with
  | nil => exact .refl s
  | cons a l ih => exact (hf s a).trans (ih _)

theorem linksTick_timeKept (s : State) : TimeKept s (linksTick s) := by
  unfold linksTick
  split
  · exact .refl s
  · constructor <;> rfl

theorem hostTick_timeKept (s : State) : TimeKept s (hostTick s) := by
  unfold hostTick
  split
  · exact .refl s
  · constructor <;> rfl

theorem countUe_timeKept (s : State) (l : Nat) : TimeKept s (countUe s (2 * l)) := by
  constructor <;> rfl

theorem updDie_timeKept (s : State) (d : Nat) (f : DieHw → DieHw) : TimeKept s (updDie s d f) := by
  constructor <;> rfl

theorem copyTo_timeKept (s : State) (d : Nat) (m : Migration) (new : Nat) : TimeKept s (copyTo s d m new) := by
  unfold copyTo
  exact (foldl_timeKept countUe_timeKept _ s).trans (updDie_timeKept _ _ _)

theorem copyTick_timeKept (s : State) (d : Nat) : TimeKept s (copyTick s d) := by
  unfold copyTick
  split
  · split
    · exact .refl s
    · exact copyTo_timeKept _ _ _ _
  · exact .refl s

theorem passTime_timeKept (s : State) : TimeKept s (passTime s) :=
  ((linksTick_timeKept s).trans (hostTick_timeKept _)).trans (foldl_timeKept copyTick_timeKept _ _)

/-- A die on which no migration copies. -/
theorem copyTick_idle {s : State} {d : Nat} (h : ∀ m, (getDie s d).mig = some m → m.phase ≠ 1) : copyTick s d = s := by
  unfold copyTick
  split
  · next m hm => rw [if_pos (Or.inl (h m hm))]
  · rfl

/-- With nothing waiting anywhere time passes alone. -/
theorem passTime_idle {s : State} (hlinks : linksIdle s = true) (hio : s.hub.tx.io = 0) (hrest : s.hub.tx.rest = 0)
    (hmig : ∀ d < 4, ∀ m, (getDie s d).mig = some m → m.phase ≠ 1) : passTime s = s := by
  have h1 : linksTick s = s := if_pos hlinks
  have h2 : hostTick s = s := if_pos (.inr ⟨hio, hrest⟩)
  simp only [passTime, h1, h2, List.foldl_cons, List.foldl_nil, copyTick_idle (hmig 0 (by decide)),
    copyTick_idle (hmig 1 (by decide)), copyTick_idle (hmig 2 (by decide)), copyTick_idle (hmig 3 (by decide))]

/-- Settles O2: an empty queue is one tick. -/
theorem stepIdlesOnEmptyQueue : Obligations.StepIdlesOnEmptyQueue := by
  intro s hempty
  have hstep : step s = .next (passTime { s with nowNs := s.nowNs + 100 }) := by
    simp only [step, hempty, State.tick]
  refine ⟨⟨_, hstep, ?_⟩, fun hlinks hio hrest hmig => ?_⟩
  · have h := passTime_timeKept { s with nowNs := s.nowNs + 100 }
    exact ⟨h.nowNs, h.pending.trans hempty, h.dram, h.hostMem, h.nand, h.scratch, h.cores, h.jobs, h.aspaces, h.groups, h.rings,
      h.cmds, h.dict, h.coc⟩
  · exact hstep.trans (congrArg Host.Outcome.next (passTime_idle (s := { s with nowNs := s.nowNs + 100 }) hlinks hio hrest hmig))

/-- Settles O9: under reset the memories and the trail are empty, no core holds a task, and ring 0 has its right. -/
theorem resetMeetsInvariants : Obligations.ResetMeetsInvariants := by
  refine ⟨⟨rfl, rfl, rfl, rfl⟩, fun c => ⟨fun t h => ?_, fun t h => ?_⟩, Nat.zero_le _, rfl⟩
  all_goals cases h

end Sys2Proof.Machine
end

section
/-! The host link, rings, doorbells, completions and quenches (R360 to R387, R535). -/

namespace Sys2Proof.Machine

/-- Settles O42: the link, the enabling of a ring by its state, and the writes of its context. -/
theorem linkTrainsAndRingsAreSetUp : Obligations.LinkTrainsAndRingsAreSetUp := by
  refine ⟨⟨?train, fun r s hup => ⟨?fresh, ?refused, ?pending, ?drain⟩⟩, fun r ctx s hup => ?context⟩
  case train =>
    intro rate width s hpor hperst hreset hinstar htrip
    simp only [exec, execCxlLinkTrain, hpor, hperst, hreset, not_lt.mpr hinstar, htrip, Bool.false_eq_true, or_self, if_false]
  case fresh =>
    intro hstate hmode hrec
    simp [exec, execRingEnable, hup, enableRing, hstate, hmode, hrec]
  case refused =>
    intro hstate hmode
    simp [exec, execRingEnable, hup, enableRing, hstate, hmode]
  case pending =>
    intro hstate
    simp only [exec, execRingEnable, hup, if_true, enableRing, hstate]
  case drain =>
    intro hstate
    simp only [exec, execRingDisable, hup, if_true, disableRing, hstate]
  case context =>
    intro x late
    refine ⟨fun hstate henable => ?_, fun hstate henable => ?_, fun hstate henable => ?_⟩
    all_goals
      simp only [x] at hstate
      simp only [exec, execRingContextWrite, hup, writeFixed, hstate, henable, Bool.not_true, Bool.false_eq_true, ne_eq,
        not_true_eq_false, not_false_eq_true, if_true, if_false, late, x]

/-- Settles O43: the doorbells by the state of their ring. -/
theorem ringDoorbellsActOrAreDiscarded : Obligations.RingDoorbellsActOrAreDiscarded := by
  refine ⟨fun r s hup hstate => ?acts, fun r s hup hstate => ?discarded⟩
  case acts =>
    have hon : (getRing s r).state ≠ .disabled := by rw [hstate]; decide
    refine ⟨fun t ht => ?_, fun t ht => ?_, fun h hh hposted => ?_, fun h hh => ?_, fun e hroom => ?_, fun e hfull => ?_, ?_⟩
    · simp [exec, execSqTail, hup, hstate, ht]
    · simp [exec, execSqTail, hup, hstate, ht]
    · simp only [exec, execCqHead, hup, hon, not_le.mpr hh, not_lt.mpr hposted, Bool.not_true, Bool.false_eq_true, or_self, if_false]
    · simp [exec, execCqHead, hup, hstate, hh]
    · simp only [exec, execPush, hup, hstate, hroom, Bool.not_true, Bool.false_eq_true, ne_eq, not_true_eq_false, if_false]
    · simp only [exec, execPush, hup, hstate, hfull, Bool.not_true, Bool.false_eq_true, ne_eq, not_true_eq_false, if_false, if_true]
    · simp only [exec, execPush, hup, hstate, Bool.not_true, Bool.false_eq_true, ne_eq, not_true_eq_false, if_false]
  case discarded =>
    have hoff : (getRing s r).state ≠ .enabled := by rw [hstate]; decide
    refine ⟨fun t => ?_, fun h => ?_, fun e => ?_⟩
    · simp only [exec, execSqTail, hup, Bool.not_true, Bool.false_eq_true, if_false, hoff, ne_eq, not_false_eq_true, if_true, discardBell]
    · simp only [exec, execCqHead, hup, Bool.not_true, Bool.false_eq_true, if_false, hstate, if_true, discardBell]
    · simp only [exec, execPush, hup, Bool.not_true, Bool.false_eq_true, if_false, hoff, ne_eq, not_false_eq_true, if_true, discardBell]

/-- Settles O44: the entry that is fetched, the completion that is posted, the interrupt, the snoop and the event. -/
theorem entriesCompletionsAndEvents : Obligations.EntriesCompletionsAndEvents := by
  refine ⟨fun r s hup hstate hheld hnew hadmin => ?fetch, ?behind, ?post, ?full, ?holdoff, ?snoop, ?event⟩
  case fetch =>
    have hfirst : ¬(r.val ≠ 0 ∧ adminWaits s = true) := by
      rintro ⟨hr, hwaits⟩
      rcases hadmin with h | h
      · exact hr (congrArg Fin.val h)
      · exact Bool.false_ne_true (h.symm.trans hwaits)
    have hguard : ¬((!ringsUp s) = true ∨ (getRing s r).state ≠ .enabled ∨ ringHeld s r = true ∨
        (getRing s r).sqHead = (getRing s r).tail ∨ (r.val ≠ 0 ∧ adminWaits s = true)) := by
      simp only [hup, hstate, hheld, hnew, hfirst, Bool.not_true, Bool.false_eq_true, ne_eq, not_true_eq_false, or_self,
        not_false_eq_true]
    refine ⟨fun e o he => ?_, fun e he => ?_, fun he => ?_⟩
    all_goals
      simp only [exec, execSqFetch, he]
      rw [if_neg hguard]
  case behind =>
    intro r s o hr hwaits
    have hr' : r.val ≠ 0 := fun h => hr (Fin.ext h)
    simp only [exec, execSqFetch, hr', hwaits, ne_eq, not_false_eq_true, and_self, or_true, if_true]
  case post =>
    intro r s p e hp hup hon hroom
    simp only [exec, execCompletionPost, hp, hup, hon, hroom, Bool.not_true, Bool.false_eq_true, or_self, if_false]
  case full =>
    intro r s p e hp hroom
    simp only [exec, execCompletionPost, hp, hroom, Bool.not_false, or_true, if_true]
  case holdoff =>
    intro r s t hdue hlast hpast
    simp only [exec, execHoldoffExpiry, hdue, hlast, hpast, decide_true, Bool.not_true, Bool.false_eq_true, or_self, if_false]
  case snoop =>
    intro r s hup hmode
    simp only [exec, execHostSnoop, hup, hmode, and_self, if_true]
  case event =>
    intro s code result rest e hevents hlost hup hstate hroom s1
    simp only [exec, execEventPost, hevents, hlost, hup, hstate, hroom, Bool.not_true, Bool.false_eq_true, ne_eq, not_true_eq_false,
      or_self, if_false, lt_irrefl, s1]

/-- Settles O45: a quench by each of its paths. -/
theorem quenchesStopJobs : Obligations.QuenchesStopJobs := by
  refine ⟨?begins, ?goesOn, ?register, ?asserted, ?held, ?released⟩
  case begins =>
    intro id s c hready hnew q s1
    simp only [exec, execQuench, hready, hnew, Bool.false_eq_true, if_false, s1, q] <;> rfl
  case goesOn =>
    intro id s c hready hstarted hcmd
    refine ⟨fun hposted => ?_, fun hposted => ?_⟩
    · simp only [exec, execQuench, hready, hstarted, hcmd, hposted, if_true]
    · simp only [exec, execQuench, hready, hstarted, hcmd, hposted, if_true, Bool.false_eq_true, if_false]
  case register =>
    intro v s hup
    refine ⟨fun n hn => ?_, fun hbad => ?_, fun hkey hscope hdisable => ?_⟩
    · simp only [exec, execQuenchCtrl, hn, ne_eq, not_false_eq_true, or_true, if_true]
    · simp only [exec, execQuenchCtrl, hup, Bool.not_true, Bool.false_eq_true, ne_eq, not_true_eq_false, or_self, if_false]
      rw [if_pos hbad]
    · have hgood : ¬(field v 48 16 ≠ 0xA4A4 ∨ field v 45 2 = 3 ∨ (bit v 47 = true ∧ field v 45 2 = 0)) := by
        rintro (h | h | ⟨h, h'⟩)
        exacts [h hkey, hscope h, hdisable h h']
      simp only [exec, execQuenchCtrl, hup, Bool.not_true, Bool.false_eq_true, ne_eq, not_true_eq_false, or_self, if_false]
      rw [if_neg hgood]
  case asserted =>
    intro s hpor hpin s0 js cs s1 s2 s3 n
    have hrun : exec .quenchNAssert s = .next (quench s0 3 2 0 0 false).1 := by
      simp only [exec, execQuenchNAssert, hpor, hpin, Bool.false_eq_true, or_self, if_false, s0]
    have hall : ∀ r t, inScope 2 0 0 r t = true := fun _ _ => rfl
    rw [hrun]
    simp only [quench, stopScope, hall, Bool.true_and, Bool.and_true, Bool.not_false, true_or, if_true, List.length_append,
      List.length_map, s1, s2, s3, n, js, cs]
  case held =>
    intro s hpor hpin
    refine ⟨?_, ?_, fun id c hready hnew => ?_⟩
    · simp only [exec, execQuenchNAssert, hpin, or_true, if_true]
    · simp only [exec, execQuenchNRelease, hpor, hpin, Bool.not_true, Bool.false_eq_true, or_self, if_false]
    · simp only [exec, execJob, hready, hnew, hpin, Bool.false_eq_true, if_false, if_true]
  case released =>
    intro s hpor hpin
    simp only [exec, execQuenchNRelease, hpin, Bool.not_false, or_true, if_true]

end Sys2Proof.Machine
end

section
/-! The mailbox, the decoders, the host's accesses to device memory and its reads of BAR0 (R362 to R368, R385 to R394). -/

namespace Sys2Proof.Machine

/-! ### Accesses of the host -/

section
variable {s : State} {p : Nat} {w : Option (List Byte)}

/-- The die and the offset of a package address. -/
theorem pkgDpa_split (p : Nat) : pkgDpa (p / dieSpan) (p % dieSpan) = p := by
  rw [pkgDpa, Nat.mul_comm, Nat.div_add_mod]

theorem pkgDpa_codeword (p : Nat) : pkgDpa (p / dieSpan) (cwDpa (p % dieSpan) 0) = p / 128 * 128 := by
  simp only [pkgDpa, cwDpa, dieSpan]
  omega

theorem reqLc_host (s : State) : reqLc s .host = false := rfl

/-- An access of the host that reaches its die and that the regulator of its partition lets pass is served (R327). -/
theorem requestDram_host (hback : hostBacked s p = true) :
    let d := p / dieSpan
    let sx := crossing s 4 d (hostReq p w)
    let part := setting sx (dramIx d + 0x30) 1
    let s0 := admitReq sx d part false 64
    (partMode sx d part = 0 ∨ (64 ≤ tokensOf sx d part ∧ (getDie sx d).held.any (fun h => h.part = part) = false)) →
    swapTouches s0 d (p % dieSpan) 64 = false → requestDram s d (hostReq p w) = serve s0 d (hostReq p w) := by
  intro d sx part s0 hopen hswap
  simp only [hostBacked, Bool.and_eq_true] at hback
  obtain ⟨-, hreach⟩ := hback
  have harrive : requestDram s d (hostReq p w) = arriveReq sx d (hostReq p w) := by
    have hreach' : (!reaches s (reqNode (hostReq p w)) d ((hostReq p w).dpa / 65536)) = false :=
      (congrArg (!·) hreach).trans rfl
    rw [requestDram, hreach']
    rfl
  have hadmit : partMode sx d part = 0 ∨ reqLc sx .host = true ∨
      64 ≤ tokensOf sx d part ∧ (!(getDie sx d).held.any fun h => h.part = part) = true :=
    hopen.imp_right fun h => .inr (h.imp_right fun h => by rw [h]; rfl)
  have hmap : arriveReq sx d (hostReq p w) = atMapper s0 d (hostReq p w) := if_pos hadmit
  rw [harrive, hmap]
  exact if_neg (Bool.eq_false_iff.mp hswap)

/-- The one codeword of a line. -/
theorem cwCount_line (hp : p % 64 = 0) : cwCount (p % dieSpan) 64 = 1 := by
  simp only [cwCount, dieSpan]
  split <;> omega

theorem judge_line (hgood : s.dramUE.contains (p / 128) = false) :
    judge s (p / dieSpan) (cwDpa (p % dieSpan) 0) 0 = (s, true) := by
  refine judge_correctable (by omega) ?_
  rw [pkgDpa_codeword, Nat.mul_div_cancel _ (by omega), hgood]

theorem judge_badLine (hbad : s.dramUE.contains (p / 128) = true) (hlost : repairable s (p / 128 * 128) = false) :
    judge s (p / dieSpan) (cwDpa (p % dieSpan) 0) 0 = (countUe s (p / 128), false) := by
  have hcw : p / 128 * 128 / 128 = p / 128 := Nat.mul_div_cancel _ (by omega)
  simp only [judge, noteUe, pkgDpa_codeword, hcw, hbad, or_true, if_true]
  rw [if_neg (Bool.eq_false_iff.mp hlost)]

/-- An access of the host touches one codeword, and is answered by what that gave. -/
theorem serve_host (hp : p % 64 = 0) (w : Option (List Byte)) : serve s (p / dieSpan) (hostReq p w) =
    hostAnswer (serveCw (p / dieSpan) (hostReq p w) (s, none) 0).1 (p / dieSpan) (hostReq p w)
      (serveCw (p / dieSpan) (hostReq p w) (s, none) 0).2.isSome := by
  have hcount : cwCount (hostReq p w).dpa (hostReq p w).len = 1 := cwCount_line hp
  rw [serve, hcount]
  rfl

/-- A line of the host's is written into its half of the codeword, once that could be read. -/
theorem serveCw_hostWrite {line : List Byte} (hp : p % 64 = 0) (hlen : line.length = 64) {g : State × Bool}
    (hjudge : judge s (p / dieSpan) (cwDpa (p % dieSpan) 0) 0 = g) :
    serveCw (p / dieSpan) (hostReq p (some line)) (s, none) 0 =
      if !g.2 then (g.1, some (unserved g.1 (p / dieSpan) (cwDpa (p % dieSpan) 0)))
      else (dropWbacks { g.1 with dram := memWrites g.1.dram p line } (· = p / 128), none) := by
  have hlo : max (p % dieSpan) (cwDpa (p % dieSpan) 0) = p % dieSpan := by simp only [cwDpa]; omega
  have hhi : min (p % dieSpan + 64) (cwDpa (p % dieSpan) 0 + 128) = p % dieSpan + 64 := by simp only [cwDpa, dieSpan]; omega
  have hcw : p / 128 * 128 / 128 = p / 128 := Nat.mul_div_cancel _ (by omega)
  have hpart : line.take 64 = line := by rw [← hlen, List.take_length]
  subst hjudge
  simp only [serveCw, hostReq, hlo, hhi, pkgDpa_codeword, hcw, pkgDpa_split, Nat.add_sub_cancel_left, Nat.sub_self, hlen,
    List.replicate_zero, List.append_nil, List.drop_zero, hpart]
  rfl

theorem serveCw_hostRead {g : State × Bool} (hjudge : judge s (p / dieSpan) (cwDpa (p % dieSpan) 0) 0 = g) :
    serveCw (p / dieSpan) (hostReq p none) (s, none) 0 =
      if !g.2 then (g.1, some (unserved g.1 (p / dieSpan) (cwDpa (p % dieSpan) 0))) else (g.1, none) := by
  subst hjudge
  rw [serveCw_read rfl]
  rfl

theorem serve_hostRead (hp : p % 64 = 0) (hgood : s.dramUE.contains (p / 128) = false) :
    serve s (p / dieSpan) (hostReq p none) = readFill s (memReads s.dram p 64) := by
  rw [serve_host hp, serveCw_hostRead (judge_line hgood)]
  simp only [hostAnswer, hostReq, pkgDpa_split, Bool.not_true, Option.isSome_none, Bool.false_eq_true, if_false]

theorem serve_hostWrite {line : List Byte} (hp : p % 64 = 0) (hlen : line.length = 64)
    (hgood : s.dramUE.contains (p / 128) = false) : serve s (p / dieSpan) (hostReq p (some line)) =
      sendHostMem (dropWbacks { s with dram := memWrites s.dram p line } (· = p / 128)) 1 := by
  rw [serve_host hp, serveCw_hostWrite hp hlen (judge_line hgood)]
  rfl

theorem serve_hostRead_bad (hp : p % 64 = 0) (hbad : s.dramUE.contains (p / 128) = true)
    (hlost : repairable s (p / 128 * 128) = false) : serve s (p / dieSpan) (hostReq p none) =
      readFill (sillage (postEvent (bump (countUe s (p / 128)) 0xE070 1 1) 3 p) 0x0026 4 noJob (packItems [(40, p)]))
        (List.replicate 64 0xFF) := by
  rw [serve_host hp, serveCw_hostRead (judge_badLine hbad hlost)]
  simp only [hostAnswer, hostReq, pkgDpa_split, Bool.not_false, Option.isSome_some, if_true]

theorem serve_hostWrite_bad {line : List Byte} (hp : p % 64 = 0) (hlen : line.length = 64)
    (hbad : s.dramUE.contains (p / 128) = true) (hlost : repairable s (p / 128 * 128) = false) :
    serve s (p / dieSpan) (hostReq p (some line)) = sendHostMem (countUe s (p / 128)) 1 := by
  rw [serve_host hp, serveCw_hostWrite hp hlen (judge_badLine hbad hlost)]
  rfl

end

/-! ### Reads of BAR0 -/

section
variable {s : State}

/-- An aligned read of eight bytes is the register there. -/
theorem barRead_eight {o : Nat} (ho : o % 8 = 0) : barRead s o 8 = barReg s o := by
  have h1 : o / 8 * 8 = o := by omega
  simp only [barRead, ho, h1, or_true, and_self, if_true, Nat.mul_zero, pow_zero, Nat.div_one]
  unfold barReg
  exact Nat.mod_mod _ _

theorem barReg_doorbell {r k : Nat} (hr : r < 8192) (hk : k < 0x1000) :
    barReg s (0x1000 * r + k) = doorbellReg s r k % 2 ^ 64 := by
  have h0 : 0x1000 * r + k < 0x02000000 := by omega
  have h1 : (0x1000 * r + k) / 0x1000 = r := by omega
  have h2 : (0x1000 * r + k) % 0x1000 = k := by omega
  simp only [barReg, h0, h1, h2, if_true]

theorem barReg_context {r : Nat} (hr : r < 8192) : barReg s (0x02000000 + 64 * r) = ringContext s r % 2 ^ 64 := by
  have h0 : ¬(0x02000000 + 64 * r < 0x02000000) := by omega
  have h1 : 0x02000000 + 64 * r < 0x02080000 := by omega
  have h2 : (0x02000000 + 64 * r - 0x02000000) / 64 = r := by omega
  have h3 : (0x02000000 + 64 * r) % 64 = 0 := by omega
  simp only [barReg, h0, h1, h2, h3, if_true, if_false, Nat.mul_zero, pow_zero, Nat.div_one]

theorem barReg_sillage {k : Nat} (hk : 0x1000 ≤ k) (hk' : k < 0x401000) :
    barReg s (0x02400000 + k) = sillSlot s ((k - 0x1000) / 32) / 2 ^ (8 * (k % 32)) % 2 ^ 64 := by
  have hreg : sillReg s k = sillSlot s ((k - 0x1000) / 32) / 2 ^ (8 * (k % 32)) := by
    unfold sillReg
    split
    · omega
    · omega
    · exact if_neg (by omega)
  have h1 : ¬(0x02400000 + k < 0x02000000) := by omega
  have h2 : ¬(0x02400000 + k < 0x02080000) := by omega
  have h3 : ¬(0x02100000 ≤ 0x02400000 + k ∧ 0x02400000 + k < 0x02101000) := by omega
  have h4 : ¬(0x02200000 ≤ 0x02400000 + k ∧ 0x02400000 + k < 0x02201000) := by omega
  have h5 : ¬(0x02300000 ≤ 0x02400000 + k ∧ 0x02400000 + k < 0x02308000) := by omega
  have h6 : ¬(0x02308000 ≤ 0x02400000 + k ∧ 0x02400000 + k < 0x02308100) := by omega
  have h7 : 0x02400000 ≤ 0x02400000 + k ∧ 0x02400000 + k < 0x02801000 := by omega
  rw [barReg, if_neg h1, if_neg h2, if_neg h3, if_neg h4, if_neg h5, if_neg h6, if_pos h7, Nat.add_sub_cancel_left, hreg]

/-- The newest record lies in the slot before the next one's (R394). -/
theorem sillSlot_newest {rec1 : BitVec 256} {rest : List (BitVec 256)} (hsill : s.sill = rec1 :: rest) (hw : s.sillWritten ≠ 0) :
    sillSlot s ((s.sillWritten - 1) % 131072) = rec1.toNat := by
  have hback : (s.sillWritten + 131071 - (s.sillWritten - 1) % 131072) % 131072 = 0 := by omega
  simp only [sillSlot, hback, hsill, List.getElem?_cons_zero, Option.getD_some]

end

/-- Settles O46: the mailbox's answers, the decoders, the accesses of the host and the registers it reads. -/
theorem mailboxAndDeviceMemory : Obligations.MailboxAndDeviceMemory := by
  refine ⟨fun opcode len v p s hup hinstar hpause hbusy hlen => ?mailbox, fun base size skip lock s hup hmode hopen => ?decoder,
    fun p s hp hok => ?memory, fun s r rec1 rest => ?registers⟩
  case mailbox =>
    intro s1
    have hbody : (p ++ List.replicate (3840 - p.length) 0).take 3840 = p := by
      rw [hlen, Nat.sub_self, List.replicate_zero, List.append_nil, ← hlen, List.take_length]
    refine ⟨fun hlow hhigh hfits => ?_, fun hbad => ?_, fun hlow hhigh hlong => ?_⟩
    all_goals simp only [exec, execMbGo, hup, not_lt.mpr hinstar, hpause, hbusy, hbody, Bool.not_true, Bool.false_eq_true, or_self,
      if_false, s1]
    · rw [if_neg (by omega), if_neg (by omega)]
    · rw [if_pos (by omega)]
    · rw [if_neg (by omega), if_pos hlong]
  case decoder =>
    intro put
    have hnew : ¬((!barUp s) = true ∨ ((tgetD s.hub.hdm 0 {}).committed = true ∧ (tgetD s.hub.hdm 0 {}).locked = true)) := by
      rw [hup, hopen]
      simp
    have hstart : ∀ h : Hdm, hdmStart (put h) 0 = h.skip := fun h => by
      simp only [hdmStart, put, tgetD, tget_tset_self, Option.getD_some, if_true]
    refine ⟨fun hsize hbase hmul hskip hfits => ?_, fun hbad => ?_⟩
    · refine congrArg Host.Outcome.next ((if_neg hnew).trans (if_neg ?_))
      have hin : hdmStart (put { base := base, size := size, skip := skip }) 0 + size ≤ 4 * dieSpan := by
        rw [hstart]
        exact hfits
      rintro (h | h | h | h | h | h | h | ⟨h, -⟩)
      · rw [hmode] at h
        cases h
      · exact h rfl
      · exact hsize h
      · exact h hbase
      · exact h hmul
      · exact h hskip
      · exact absurd hin (not_le.mpr h)
      · cases h
    · refine congrArg Host.Outcome.next ((if_neg hnew).trans (if_pos ?_))
      exact .inr (.inr (by omega))
  case memory =>
    intro d
    have hp' : p / 64 * 64 = p := by omega
    refine ⟨fun hback => ⟨?_, fun line => ?_⟩, fun hback w hw => ?_⟩
    · simp only [exec, execHostMemRead, hp', hok, hback, Bool.not_true, Bool.not_false, Bool.false_eq_true, if_false, if_true]
    · simp only [exec, execHostMemWrite, hp', hok, hback, Bool.not_true, Bool.not_false, Bool.false_eq_true, if_false, if_true]
    · intro cmd sx part s0 hopen hswap
      have hcmd : exec cmd s = .next (requestDram s d (hostReq p w)) := by
        cases w with
        | none => simp only [cmd, exec, execHostMemRead, hp', hok, hback, Bool.not_true, Bool.false_eq_true, if_false, d]
        | some line =>
          have hpad : (line ++ List.replicate (64 - line.length) 0).take 64 = line := by
            rw [hw line rfl, Nat.sub_self, List.replicate_zero, List.append_nil, ← hw line rfl, List.take_length]
          simp only [cmd, exec, execHostMemWrite, hp', hok, hback, hpad, Bool.not_true, Bool.false_eq_true, if_false, d]
      rw [hcmd, requestDram_host hback hopen hswap]
      refine ⟨fun hgood => ?_, fun hbad hlost => ?_⟩
      · cases w with
        | none => rw [serve_hostRead hp hgood]
        | some line => rw [serve_hostWrite hp (hw line rfl) hgood]
      · cases w with
        | none => rw [serve_hostRead_bad hp hbad hlost]
        | some line => rw [serve_hostWrite_bad hp (hw line rfl) hbad hlost]
  case registers =>
    refine ⟨?_, ?_, ?_, ?_, ?_, fun hsill hw k hk => ?_, fun o size hbad => ?_⟩
    · rw [barRead_eight (by omega), barReg_doorbell r.isLt (by omega)]
      rfl
    · rw [barRead_eight (by omega), barReg_doorbell r.isLt (by omega)]
      rfl
    · rw [barRead_eight (by omega), barReg_context r.isLt]
    · rw [barRead_eight (by omega)]
      rfl
    · rw [barRead_eight (by omega)]
      rfl
    · have hoff : 0x02401000 + 32 * ((s.sillWritten - 1) % 131072) + 8 * k =
          0x02400000 + (0x1000 + 32 * ((s.sillWritten - 1) % 131072) + 8 * k) := by omega
      have hslot : (0x1000 + 32 * ((s.sillWritten - 1) % 131072) + 8 * k - 0x1000) / 32 = (s.sillWritten - 1) % 131072 := by omega
      have hbyte : 8 * ((0x1000 + 32 * ((s.sillWritten - 1) % 131072) + 8 * k) % 32) = 64 * k := by omega
      rw [barRead_eight (by omega), hoff, barReg_sillage (by omega) (by omega), hslot, hbyte, sillSlot_newest hsill hw]
    · refine if_neg ?_
      rintro ⟨h | h, h'⟩ <;> omega

end Sys2Proof.Machine
end

section
/-! Writes of the dictionary: one field by the steps of R427, the service objects, STORE and RESTORE (R426 to R435). -/

namespace Sys2Proof.Machine

/-! ### Bytes -/

theorem leBytes_length (n x : Nat) : (leBytes n x).length = n := by
  induction n generalizing x with
  | zero => rfl
  | succ n ih => rw [leBytes, List.length_cons, ih]

theorem leNat_leBytes (n x : Nat) : leNat (leBytes n x) = x % 256 ^ n := by
  induction n generalizing x with
  | zero => rw [pow_zero, Nat.mod_one]; rfl
  | succ n ih =>
    have h8 : (2 : Nat) ^ 8 = 256 := rfl
    rw [leBytes, leNat, ih, BitVec.toNat_ofNat, h8, pow_succ', Nat.mod_mul]

theorem leNat_leBytes_of_lt {n x : Nat} (hx : x < 256 ^ n) : leNat (leBytes n x) = x := by
  rw [leNat_leBytes, Nat.mod_eq_of_lt hx]

/-- The bytes of a word that fits in at most eight of them. -/
theorem leNat_take_leBytes {n x : Nat} (hn : n ≤ 8) (hx : x < 256 ^ n) : leNat ((leBytes n x).take 8) = x := by
  rw [List.take_of_length_le (by rw [leBytes_length]; exact hn), leNat_leBytes, Nat.mod_eq_of_lt hx]

/-! ### A request of one field -/

/-- The write requests of RESTORE and RESTORE_DEFAULTS follow an accepted write of their object (R435). -/
def thenRestored (index code : Nat) (s : State) : State :=
  let s := if index = 0x1F11 ∧ code = 0 then restoreStored s else s
  if index = 0x1F12 ∧ code = 0 then restoreDefaults s else s

theorem thenRestored_other {index code : Nat} (h : (index ≠ 0x1F11 ∧ index ≠ 0x1F12) ∨ code ≠ 0) (s : State) :
    thenRestored index code s = s := by
  have h1 : ¬(index = 0x1F11 ∧ code = 0) := by omega
  have h2 : ¬(index = 0x1F12 ∧ code = 0) := by omega
  simp only [thenRestored, h1, h2, if_false]

theorem wrote_one (r : ClampRec) (index : Nat) : wrote [r] index = decide (r.index = index ∧ r.code = 0) := by
  simp [wrote]

/-- A request of one field is that field by the steps of R427 and the report on it (R432). -/
theorem writeRequest_one {s t : State} {f : FieldWrite} {code : Nat} (h : applyField s 4 f = (t, code)) :
    (writeRequest s 1 [f]).1 = thenRestored f.index.toNat code
      (FieldDone t f.index.toNat f.sub.toNat (leNat (f.value.take 8)) code (fieldChanged s t f code)) := by
  have hsort : sortFields [f] = [f] := rfl
  have hpath : quenchPath 1 = 4 := rfl
  simp only [writeRequest, hsort, hpath, applyFields, List.foldl_cons, List.foldl_nil, h, List.nil_append, Bool.false_or, wrote_one,
    decide_eq_true_eq, thenRestored, FieldDone]

section
variable {s t : State} {f : FieldWrite} {r : ObjRow}

/-- A refused field changes nothing (R427). -/
theorem fieldChanged_refused {code : Nat} (h : 3 < code) : fieldChanged s t f code = false := by
  simp only [fieldChanged, not_le.mpr h, decide_false, Bool.false_and]

/-- The steps of R427 that refuse a field before its value is looked at. -/
theorem applyField_locked (h : locked s f.index.toNat = true) : applyField s 4 f = (s, 4) := by
  simp only [applyField, h, if_true]

theorem applyField_absent (h : locked s f.index.toNat = false) (hr : objAt s f.index.toNat f.sub.toNat = none) :
    applyField s 4 f = (s, 8) := by
  simp only [applyField, h, hr, Bool.false_eq_true, if_false]

theorem applyField_readOnly (h : locked s f.index.toNat = false) (hr : objAt s f.index.toNat f.sub.toNat = some r)
    (hacc : r.acc = 0 ∨ 4 ≤ r.acc) : applyField s 4 f = (s, 4) := by
  simp only [applyField, h, hr, hacc, Bool.false_eq_true, if_false, if_true]

theorem applyField_badType (h : locked s f.index.toNat = false) (hr : objAt s f.index.toNat f.sub.toNat = some r)
    (hlow : 1 ≤ r.acc) (hhigh : r.acc ≤ 3) (hty : typeOk r f.index.toNat f.sub.toNat f.ty.toNat f.value = false) :
    applyField s 4 f = (s, 5) := by
  have hacc : ¬(r.acc = 0 ∨ 4 ≤ r.acc) := by omega
  simp only [applyField, h, hr, hacc, hty, Bool.false_eq_true, Bool.not_false, if_false, if_true]

theorem applyField_running (h : locked s f.index.toNat = false) (hr : objAt s f.index.toNat f.sub.toNat = some r)
    (hty : typeOk r f.index.toNat f.sub.toNat f.ty.toNat f.value = true) (hacc : r.acc = 3)
    (hrun : ownerStopped s r f.index.toNat = false) : applyField s 4 f = (s, 7) := by
  have hacc' : ¬(r.acc = 0 ∨ 4 ≤ r.acc) := by omega
  simp only [applyField, h, hr, hacc', hty, hrun, Bool.false_eq_true, Bool.not_true, Bool.not_false, and_true, if_false]
  rw [if_pos hacc]

/-- A field of a WO object acts, or is REFUSED_STATE. -/
theorem applyField_service (h : locked s f.index.toNat = false) (hr : objAt s f.index.toNat f.sub.toNat = some r)
    (hty : typeOk r f.index.toNat f.sub.toNat f.ty.toNat f.value = true) (hacc : r.acc = 2) {ok : Bool}
    (heff : serviceEffect s 4 f.index.toNat f.sub.toNat (leNat f.value) f.value = (t, ok)) :
    applyField s 4 f = (t, if ok then 0 else 7) := by
  have hacc' : ¬(r.acc = 0 ∨ 4 ≤ r.acc) := by omega
  have hrws : ¬(r.acc = 3 ∧ (!ownerStopped s r f.index.toNat) = true) := by omega
  simp only [applyField, h, hr, hacc', hty, hrws, Bool.false_eq_true, Bool.not_true, if_false]
  rw [if_pos hacc, heff]

/-- A field of a setting takes its nearest value and acts on it. -/
theorem applyField_setting (h : locked s f.index.toNat = false) (hr : objAt s f.index.toNat f.sub.toNat = some r)
    (hty : typeOk r f.index.toNat f.sub.toNat f.ty.toNat f.value = true)
    (hacc : r.acc = 1 ∨ r.acc = 3 ∧ ownerStopped s r f.index.toNat = true) :
    let v := (clampValue s r f.index.toNat f.sub.toNat (leNat f.value)).1
    applyField s 4 f =
      (settingEffect (setSetting s f.index.toNat f.sub.toNat (settingValue f.index.toNat v)) f.index.toNat f.sub.toNat v,
       (clampValue s r f.index.toNat f.sub.toNat (leNat f.value)).2) := by
  have hacc' : ¬(r.acc = 0 ∨ 4 ≤ r.acc) := by omega
  have hrws : ¬(r.acc = 3 ∧ (!ownerStopped s r f.index.toNat) = true) := by
    rintro ⟨h3, hrun⟩
    rcases hacc with h1 | ⟨-, hstop⟩
    · omega
    · rw [hstop] at hrun
      cases hrun
  have hwo : r.acc ≠ 2 := by omega
  simp only [applyField, h, hr, hacc', hty, hrws, hwo, Bool.false_eq_true, Bool.not_true, if_false]

end

theorem rows_restore : ∀ r ∈ objRows, (rowAt r 0x1F11 || rowAt r 0x1F12) = true → r.acc = 2 := by
  decide +kernel

/-- No setting lies at the indices of RESTORE and RESTORE_DEFAULTS. -/
theorem objAt_setting {s : State} {index sub : Nat} {r : ObjRow} (hr : objAt s index sub = some r) (hacc : r.acc = 1 ∨ r.acc = 3) :
    index ≠ 0x1F11 ∧ index ≠ 0x1F12 := by
  unfold objAt at hr
  split at hr
  · cases hr
  · split at hr
    · split at hr
      · cases hr
      · cases hr
        simp at hacc
    · have hmem := rows_restore r (List.mem_of_find?_eq_some hr)
      have hrow : rowAt r index = true := by
        have := List.find?_some hr
        simp only [Bool.and_eq_true] at this
        exact this.1.1
      constructor
      all_goals
        rintro rfl
        rw [hrow] at hmem
        simp only [Bool.true_or, Bool.or_true, forall_const] at hmem
        omega

/-! ### One field of the mailbox's -/

section
variable {s t : State} {index sub ty code : Nat} {bs : List Byte} {r : ObjRow}

/-- The field that a write of the mailbox names. -/
def mbField (index sub ty : Nat) (bs : List Byte) : FieldWrite := ⟨BitVec.ofNat 16 index, BitVec.ofNat 8 sub, BitVec.ofNat 8 ty, bs⟩

theorem mbField_index (hi : index < 2 ^ 16) : (mbField index sub ty bs).index.toNat = index := by
  rw [mbField, BitVec.toNat_ofNat, Nat.mod_eq_of_lt hi]

theorem mbField_sub (hj : sub < 2 ^ 8) : (mbField index sub ty bs).sub.toNat = sub := by
  rw [mbField, BitVec.toNat_ofNat, Nat.mod_eq_of_lt hj]

theorem mbField_ty (ht : ty < 2 ^ 8) : (mbField index sub ty bs).ty.toNat = ty := by
  rw [mbField, BitVec.toNat_ofNat, Nat.mod_eq_of_lt ht]

theorem mbWrite_eq (hup : svcUp s = true) (hi : index < 2 ^ 16) (hj : sub < 2 ^ 8)
    (h : applyField s 4 (mbField index sub ty bs) = (t, code)) : mbWrite s index sub ty bs =
      thenRestored index code (FieldDone t index sub (leNat (bs.take 8)) code (fieldChanged s t (mbField index sub ty bs) code)) := by
  have hw := writeRequest_one h
  rw [mbField_index hi, mbField_sub hj] at hw
  rw [mbWrite, if_pos hup]
  exact hw

/-- What the mailbox writes to a WO object of the dictionary that the hub serves: refused for its value, or done. -/
theorem mbWrite_badType (hup : svcUp s = true) (hi : index < 0xF000) (hj : sub < 2 ^ 8) (hty : ty < 2 ^ 8)
    (hr : objAt s index sub = some r) (hlow : 1 ≤ r.acc) (hhigh : r.acc ≤ 3) (hbad : typeOk r index sub ty bs = false) :
    mbWrite s index sub ty bs = FieldDone s index sub (leNat (bs.take 8)) 5 false := by
  have hlock : locked s index = false := by simp only [locked, not_le.mpr hi, decide_false, Bool.false_and]
  have hi' : index < 2 ^ 16 := by omega
  have happ : applyField s 4 (mbField index sub ty bs) = (s, 5) :=
    applyField_badType (by rw [mbField_index hi', hlock]) (by rw [mbField_index hi', mbField_sub hj, hr]) hlow hhigh
      (by rw [mbField_index hi', mbField_sub hj, mbField_ty hty]; exact hbad)
  rw [mbWrite_eq hup (by omega) hj happ, thenRestored_other (by omega), fieldChanged_refused (by omega)]

theorem mbWrite_service {ok : Bool} (hup : svcUp s = true) (hi : index < 0xF000) (hj : sub < 2 ^ 8) (hty : ty < 2 ^ 8)
    (hr : objAt s index sub = some r) (hacc : r.acc = 2) (hgood : typeOk r index sub ty bs = true)
    (heff : serviceEffect s 4 index sub (leNat bs) bs = (t, ok)) :
    mbWrite s index sub ty bs =
      thenRestored index (if ok then 0 else 7) (FieldDone t index sub (leNat (bs.take 8)) (if ok then 0 else 7) ok) := by
  have hi' : index < 2 ^ 16 := by omega
  have hlock : locked s index = false := by simp only [locked, not_le.mpr hi, decide_false, Bool.false_and]
  have happ : applyField s 4 (mbField index sub ty bs) = (t, if ok then 0 else 7) :=
    applyField_service (by rw [mbField_index hi', hlock]) (by rw [mbField_index hi', mbField_sub hj, hr])
      (by rw [mbField_index hi', mbField_sub hj, mbField_ty hty]; exact hgood) hacc
      (by rw [mbField_index hi', mbField_sub hj]; exact heff)
  have hchanged : fieldChanged s t (mbField index sub ty bs) (if ok then 0 else 7) = ok := by
    simp only [fieldChanged, mbField_index hi', mbField_sub hj, hr, hacc]
    cases ok <;> rfl
  rw [mbWrite_eq hup hi' hj happ, hchanged]

end

end Sys2Proof.Machine
end

section
/-! The service objects with their keys, STORE and RESTORE (R433 to R435, R447, R487). -/

namespace Sys2Proof.Machine

section
variable {s t : State} {index sub key : Nat} {r : ObjRow}

theorem objAt_served (hserved : served s index = true) (hsub : 0 < sub) : objAt s index sub = objRow index sub := by
  have h0 : sub ≠ 0 := by omega
  simp only [objAt, hserved, h0, Bool.not_true, Bool.false_eq_true, if_false]

theorem served_of_dictServed (h : DictServed s) : served s index = true := by
  simp only [served, h.2, Bool.not_false, Bool.true_or]

/-- A WO object of four bytes that takes one value, its key. -/
structure KeyObject (index sub key : Nat) (r : ObjRow) : Prop where
  row : objRow index sub = some r
  acc : r.acc = 2
  ty : r.ty = 4
  magic : magicValue index sub = some key
  index_lt : index < 0xF000
  sub_pos : 0 < sub
  sub_lt : sub < 2 ^ 8

theorem KeyObject.typeOk (k : KeyObject index sub key r) (v : Word32) :
    typeOk r index sub 4 (leBytes 4 v.toNat) = decide (v.toNat = key) := by
  have hv : leNat (leBytes 4 v.toNat) = v.toNat := leNat_leBytes_of_lt v.isLt
  simp only [Machine.typeOk, k.ty, k.magic, hv, leBytes_length, tyBytes, decide_true, Bool.or_true, Bool.and_self, Bool.true_and]

/-- The key acts, or is REFUSED_STATE. -/
theorem KeyObject.write_key (k : KeyObject index sub key r) (hup : svcUp s = true) (hserved : served s index = true) {v : Word32}
    (hv : v.toNat = key) {ok : Bool} (heff : serviceEffect s 4 index sub key (leBytes 4 v.toNat) = (t, ok)) :
    mbWrite s index sub 4 (leBytes 4 v.toNat) =
      thenRestored index (if ok then 0 else 7) (FieldDone t index sub key (if ok then 0 else 7) ok) := by
  have hbytes : leNat (leBytes 4 v.toNat) = key := (leNat_leBytes_of_lt v.isLt).trans hv
  have h := mbWrite_service (t := t) (ok := ok) (ty := 4) (bs := leBytes 4 v.toNat) hup k.index_lt k.sub_lt (by omega)
    ((objAt_served hserved k.sub_pos).trans k.row) k.acc (by rw [k.typeOk, hv, decide_eq_true rfl]) (by rw [hbytes, heff])
  rw [h, leNat_take_leBytes (by omega) v.isLt, hv]

/-- Any other value is REFUSED_TYPE. -/
theorem KeyObject.write_other (k : KeyObject index sub key r) (hup : svcUp s = true) (hserved : served s index = true) {v : Word32}
    (hv : v.toNat ≠ key) : mbWrite s index sub 4 (leBytes 4 v.toNat) = FieldDone s index sub v.toNat 5 false := by
  have h := mbWrite_badType (ty := 4) (bs := leBytes 4 v.toNat) hup k.index_lt k.sub_lt (by omega)
    ((objAt_served hserved k.sub_pos).trans k.row) (by rw [k.acc]; omega) (by rw [k.acc]; omega)
    (by rw [k.typeOk, decide_eq_false hv])
  rw [h, leNat_take_leBytes (by omega) v.isLt]

end

theorem keyObject_store : KeyObject 0x1F10 1 0x53544F52 { base := 0x1F10, n := 3, ty := 4, acc := 2 } :=
  ⟨rfl, rfl, rfl, rfl, by omega, by omega, by omega⟩

theorem keyObject_restore : KeyObject 0x1F11 1 0x4C4F4144 { base := 0x1F10, n := 3, ty := 4, acc := 2 } :=
  ⟨rfl, rfl, rfl, rfl, by omega, by omega, by omega⟩

theorem keyObject_restoreDefaults : KeyObject 0x1F12 1 0x44464C54 { base := 0x1F10, n := 3, ty := 4, acc := 2 } :=
  ⟨rfl, rfl, rfl, rfl, by omega, by omega, by omega⟩

theorem keyObject_sillClear : KeyObject 0xE000 2 0x434C5253 { base := 0xE000, lo := 2, hi := 2, ty := 4, acc := 2 } :=
  ⟨rfl, rfl, rfl, rfl, by omega, by omega, by omega⟩

theorem keyObject_resetCauseClear : KeyObject 0x2300 5 0x52434C52 { base := 0x2300, lo := 5, hi := 5, ty := 4, acc := 2 } :=
  ⟨rfl, rfl, rfl, rfl, by omega, by omega, by omega⟩

theorem word_toNat_ne {v : Word32} {k : Nat} (hk : k < 2 ^ 32) (h : v ≠ BitVec.ofNat 32 k) : v.toNat ≠ k := by
  rintro rfl
  exact h (BitVec.ofNat_toNat 32 v ▸ by simp)

theorem objRow_pmbusClear : objRow 0x6040 4 = some { base := 0x6040, lo := 4, hi := 4, ty := 1, acc := 2 } := by rfl

theorem objRow_fnQuench : objRow 0x1110 1 = some { base := 0x1110, ty := 5, acc := 2 } := by rfl

/-- PMBUS_CLEAR takes the value 1. -/
theorem typeOk_pmbusClear (v : Byte) : typeOk { base := 0x6040, lo := 4, hi := 4, ty := 1, acc := 2 } 0x6040 4 1 [v] =
    decide (v.toNat = 1) := by
  have hv : leNat [v] = v.toNat := rfl
  rw [Bool.eq_iff_iff]
  simp only [typeOk, magicValue, hv, tyBytes, List.length_singleton]
  simp
  omega

/-- FN_QUENCH takes what R447 allows. -/
theorem typeOk_fnQuench (v : Word64) : typeOk { base := 0x1110, ty := 5, acc := 2 } 0x1110 1 5 (leBytes 8 v.toNat) =
    fnQuenchOk v.toNat := by
  have hv : leNat (leBytes 8 v.toNat) = v.toNat := leNat_leBytes_of_lt v.isLt
  simp only [typeOk, magicValue, hv, tyBytes, leBytes_length]
  rfl

section
variable {s t : State}

theorem mbWrite_pmbusClear (hs : DictServed s) (heff : serviceEffect s 4 0x6040 4 1 [1] = (t, true)) :
    mbWrite s 0x6040 4 1 [1] = FieldDone t 0x6040 4 1 0 true :=
  mbWrite_service hs.1 (by omega) (by omega) (by omega)
    ((objAt_served (served_of_dictServed hs) (by omega)).trans objRow_pmbusClear) rfl (typeOk_pmbusClear 1) heff

theorem mbWrite_pmbusClear_other (hs : DictServed s) {v : Byte} (hv : v ≠ 1) :
    mbWrite s 0x6040 4 1 [v] = FieldDone s 0x6040 4 v.toNat 5 false := by
  have hv' : v.toNat ≠ 1 := fun h => hv (BitVec.eq_of_toNat_eq h)
  exact mbWrite_badType hs.1 (by omega) (by omega) (by omega)
    ((objAt_served (served_of_dictServed hs) (by omega)).trans objRow_pmbusClear) (by decide) (by decide)
    ((typeOk_pmbusClear v).trans (decide_eq_false hv'))

theorem mbWrite_fnQuench (hs : DictServed s) {v : Word64} (hv : fnQuenchOk v.toNat = true)
    (heff : serviceEffect s 4 0x1110 1 v.toNat (leBytes 8 v.toNat) = (t, true)) :
    mbWrite s 0x1110 1 5 (leBytes 8 v.toNat) = FieldDone t 0x1110 1 v.toNat 0 true := by
  have h := mbWrite_service (t := t) (ok := true) (bs := leBytes 8 v.toNat) hs.1 (by omega) (by omega) (by omega)
    ((objAt_served (served_of_dictServed hs) (by omega)).trans objRow_fnQuench) rfl ((typeOk_fnQuench v).trans hv)
    (by rw [leNat_leBytes_of_lt v.isLt, heff])
  rw [leNat_take_leBytes (by omega) v.isLt] at h
  exact h

theorem mbWrite_fnQuench_other (hs : DictServed s) {v : Word64} (hv : fnQuenchOk v.toNat = false) :
    mbWrite s 0x1110 1 5 (leBytes 8 v.toNat) = FieldDone s 0x1110 1 v.toNat 5 false := by
  have h := mbWrite_badType (bs := leBytes 8 v.toNat) hs.1 (by omega) (by omega) (by omega)
    ((objAt_served (served_of_dictServed hs) (by omega)).trans objRow_fnQuench) (by decide) (by decide)
    ((typeOk_fnQuench v).trans hv)
  rw [leNat_take_leBytes (by omega) v.isLt] at h
  exact h

end

/-- Settles O47: the keyed objects by their one value, the end of a STORE by what it gave. -/
theorem settingsAreStoredAndServiceObjectsAct : Obligations.SettingsAreStoredAndServiceObjectsAct := by
  refine ⟨⟨fun s hs => ?stores, fun s c hc => ?stored⟩, fun s hs => ?objects⟩
  case stores =>
    have hserved {i : Nat} : served s i = true := served_of_dictServed hs
    refine ⟨fun t ht => ?_, fun hnone => ?_, ?_, ?_, fun v hv => ?_, fun v hv => ?_, fun v hv => ?_⟩
    · have h := keyObject_store.write_key (v := 0x53544F52) (t := t) (ok := true) hs.1 hserved rfl (by
        simp only [serviceEffect, ht]; rfl)
      exact congrArg Host.Outcome.next h
    · have h := keyObject_store.write_key (v := 0x53544F52) (t := s) (ok := false) hs.1 hserved rfl (by
        simp only [serviceEffect, hnone]; rfl)
      exact congrArg Host.Outcome.next h
    · exact congrArg Host.Outcome.next (keyObject_restore.write_key (v := 0x4C4F4144) (ok := true) hs.1 hserved rfl rfl)
    · exact congrArg Host.Outcome.next (keyObject_restoreDefaults.write_key (v := 0x44464C54) (ok := true) hs.1 hserved rfl rfl)
    · exact congrArg Host.Outcome.next (keyObject_store.write_other hs.1 hserved (word_toNat_ne (by omega) hv))
    · exact congrArg Host.Outcome.next (keyObject_restore.write_other hs.1 hserved (word_toNat_ne (by omega) hv))
    · exact congrArg Host.Outcome.next (keyObject_restoreDefaults.write_other hs.1 hserved (word_toNat_ne (by omega) hv))
  case stored =>
    intro svc
    refine ⟨?_, fun hok => ?_, fun hok => ?_⟩
    · simp only [exec, execStoreDone, hc, svc]
      rfl
    · simp only [exec, execStoreDone, hc, hok, svc]
      rfl
    · simp only [exec, execStoreDone, hc, hok, svc]
      rfl
  case objects =>
    have hserved {i : Nat} : served s i = true := served_of_dictServed hs
    refine ⟨?_, fun v hv => ?_, ?_, fun v hv => ?_, fun hon => ?_, fun hoff => ?_, fun v hv => ?_, fun v hv => ?_, fun v hv => ?_⟩
    · exact congrArg Host.Outcome.next (keyObject_sillClear.write_key (v := 0x434C5253) (ok := true) hs.1 hserved rfl rfl)
    · exact congrArg Host.Outcome.next (keyObject_sillClear.write_other hs.1 hserved (word_toNat_ne (by omega) hv))
    · exact congrArg Host.Outcome.next (keyObject_resetCauseClear.write_key (v := 0x52434C52) (ok := true) hs.1 hserved rfl rfl)
    · exact congrArg Host.Outcome.next (keyObject_resetCauseClear.write_other hs.1 hserved (word_toNat_ne (by omega) hv))
    · exact congrArg Host.Outcome.next (mbWrite_pmbusClear hs (by simp only [serviceEffect, hon]; rfl))
    · exact congrArg Host.Outcome.next (mbWrite_pmbusClear hs (by simp only [serviceEffect, hoff]; rfl))
    · exact congrArg Host.Outcome.next (mbWrite_pmbusClear_other hs hv)
    · exact congrArg Host.Outcome.next (mbWrite_fnQuench hs hv rfl)
    · exact congrArg Host.Outcome.next (mbWrite_fnQuench_other hs hv)

end Sys2Proof.Machine
end

section
/-! Settings: their check, their nearest value and what they act on (R427 to R430, R438, R467, R499 to R503, R527). -/

namespace Sys2Proof.Machine

section
variable {s : State} {index sub ty v code : Nat} {bs : List Byte} {r : ObjRow}

/-- What the mailbox writes to a setting takes its nearest value. -/
theorem mbWrite_setting (hup : svcUp s = true) (hi : index < 0xF000) (hj : sub < 2 ^ 8) (hty : ty < 2 ^ 8)
    (hr : objAt s index sub = some r) (hacc : r.acc = 1) (hgood : typeOk r index sub ty bs = true)
    (hclamp : clampValue s r index sub (leNat bs) = (v, code)) :
    mbWrite s index sub ty bs =
      FieldDone (settingEffect (setSetting s index sub (settingValue index v)) index sub v) index sub (leNat (bs.take 8)) code
        (fieldChanged s (settingEffect (setSetting s index sub (settingValue index v)) index sub v) (mbField index sub ty bs) code) := by
  have hi' : index < 2 ^ 16 := by omega
  have hlock : locked s index = false := by simp only [locked, not_le.mpr hi, decide_false, Bool.false_and]
  have happ := applyField_setting (f := mbField index sub ty bs) (s := s) (r := r)
    (by rw [mbField_index hi', hlock]) (by rw [mbField_index hi', mbField_sub hj, hr])
    (by rw [mbField_index hi', mbField_sub hj, mbField_ty hty]; exact hgood) (.inl hacc)
  have hval : leNat (mbField index sub ty bs).value = leNat bs := rfl
  simp only [mbField_index hi', mbField_sub hj, hval, hclamp] at happ
  rw [mbWrite_eq hup hi' hj happ, thenRestored_other (.inl (objAt_setting hr (.inl hacc)))]

/-- A value within a range of its own and on a step is taken as it is (R427, R428). -/
theorem clampValue_fits (hrange : objRange s r index sub = (r.min, r.max)) (hbase : r.base ≠ 0x5021) (hlow : r.min ≤ v)
    (hhigh : v ≤ r.max) (hstep : r.step ≤ 1 ∨ v % r.step = 0) : clampValue s r index sub v = (v, 0) := by
  have hnot : ¬(v = 0 ∧ r.base = 0x5021 ∧ sub = 2) := fun h => hbase h.2.1
  simp only [clampValue, hrange, hnot, not_lt.mpr hlow, not_lt.mpr hhigh, hstep, if_false, if_true]

/-- A value above the range takes the highest one. -/
theorem clampValue_above (hrange : objRange s r index sub = (r.min, r.max)) (hbase : r.base ≠ 0x5021) (hlow : r.min ≤ v)
    (hhigh : r.max < v) : clampValue s r index sub v = (r.max, 2) := by
  have hnot : ¬(v = 0 ∧ r.base = 0x5021 ∧ sub = 2) := fun h => hbase h.2.1
  simp only [clampValue, hrange, hnot, not_lt.mpr hlow, hhigh, if_false, if_true]

theorem leBytes_one (v : Byte) : leBytes 1 v.toNat = [v] := by
  simp only [leBytes, BitVec.ofNat_toNat, BitVec.setWidth_eq]

/-- Past instar 2 the settings act at once. -/
theorem instar_of_svcUp (hup : svcUp s = true) : ¬s.hub.instar < 2 := by
  simp only [svcUp, Bool.and_eq_true, decide_eq_true_eq] at hup
  obtain ⟨⟨-, hinstar⟩, -⟩ := hup
  exact not_lt.mpr hinstar

end

theorem objRow_fnEnable : objRow 0x1100 1 = some { base := 0x1100, ty := 1, acc := 1, max := 1 } := by rfl
theorem objRow_pmbusEnable : objRow 0x6040 3 = some { base := 0x6040, lo := 3, hi := 3, ty := 1, acc := 1, max := 1 } := by rfl
theorem objRow_vinCore : objRow 0x6040 1 = some { base := 0x6040, ty := 3, acc := 1, min := 1750, max := 1850, step := 5 } := by rfl
theorem objRow_lossQuery : objRow 0x2205 1 = some { base := 0x2205, ty := 4, acc := 1 } := by rfl
theorem objRow_stageKind : objRow 0x9100 1 = some { base := 0x9100, ty := 10, acc := 1, max := 3 } := by rfl

theorem typeOk_fnEnable {v : Byte} (hv : v.toNat ≤ 1) :
    typeOk { base := 0x1100, ty := 1, acc := 1, max := 1 } 0x1100 1 1 [v] = true := by
  simpa [typeOk, magicValue, tyBytes, leNat] using hv

theorem typeOk_pmbusEnable {v : Byte} (hv : v.toNat ≤ 1) :
    typeOk { base := 0x6040, lo := 3, hi := 3, ty := 1, acc := 1, max := 1 } 0x6040 3 1 [v] = true := by
  simpa [typeOk, magicValue, tyBytes, leNat] using hv

theorem typeOk_vinCore (n : Nat) :
    typeOk { base := 0x6040, ty := 3, acc := 1, min := 1750, max := 1850, step := 5 } 0x6040 1 3 (leBytes 2 n) = true := by
  simp [typeOk, magicValue, tyBytes, leBytes_length]

theorem typeOk_lossQuery (n : Nat) : typeOk { base := 0x2205, ty := 4, acc := 1 } 0x2205 1 4 (leBytes 4 n) = true := by
  simp [typeOk, magicValue, tyBytes, leBytes_length]

theorem typeOk_stageKind {v : Byte} (hv : v.toNat ≤ 3) :
    typeOk { base := 0x9100, ty := 10, acc := 1, max := 3 } 0x9100 1 10 [v] = true := by
  simpa [typeOk, magicValue, tyBytes, leNat] using hv

section
variable {s : State}

/-- The field of a setting as the mailbox's command gives it: what it left, and whether its value changed. -/
def settingDone (s : State) (index sub wrote n ty : Nat) (t : State) (code : Nat) : State :=
  FieldDone t index sub wrote code (fieldChanged s t (mbField index sub ty (leBytes n wrote)) code)

theorem mbWrite_fnEnable (hs : DictServed s) {v : Byte} (hv : v.toNat ≤ 1) : mbWrite s 0x1100 1 1 [v] =
    settingDone s 0x1100 1 v.toNat 1 1 (enablePort (setSetting s 0x1100 1 v.toNat) (v.toNat = 1)) 0 := by
  have heff : settingEffect (setSetting s 0x1100 1 v.toNat) 0x1100 1 v.toNat =
      enablePort (setSetting s 0x1100 1 v.toNat) (v.toNat = 1) := if_neg (instar_of_svcUp hs.1)
  have h := mbWrite_setting hs.1 (by omega) (by omega) (by omega)
    ((objAt_served (served_of_dictServed hs) (by omega)).trans objRow_fnEnable) rfl (typeOk_fnEnable hv)
    (clampValue_fits (v := v.toNat) rfl (by decide) (by simp) (by simpa using hv) (.inl (by simp)))
  rw [settingDone, leBytes_one, ← heff]
  exact h

theorem mbWrite_pmbusEnable (hs : DictServed s) {v : Byte} (hv : v.toNat ≤ 1) : mbWrite s 0x6040 3 1 [v] =
    settingDone s 0x6040 3 v.toNat 1 1 (enablePmbus (setSetting s 0x6040 3 v.toNat) (v.toNat = 1)) 0 := by
  have heff : settingEffect (setSetting s 0x6040 3 v.toNat) 0x6040 3 v.toNat =
      enablePmbus (setSetting s 0x6040 3 v.toNat) (v.toNat = 1) := if_neg (instar_of_svcUp hs.1)
  have h := mbWrite_setting hs.1 (by omega) (by omega) (by omega)
    ((objAt_served (served_of_dictServed hs) (by omega)).trans objRow_pmbusEnable) rfl (typeOk_pmbusEnable hv)
    (clampValue_fits (v := v.toNat) rfl (by decide) (by simp) (by simpa using hv) (.inl (by simp)))
  rw [settingDone, leBytes_one, ← heff]
  exact h

theorem mbWrite_vinCore (hs : DictServed s) {v : BitVec 16} {w code : Nat}
    (hclamp : clampValue s { base := 0x6040, ty := 3, acc := 1, min := 1750, max := 1850, step := 5 } 0x6040 1 v.toNat = (w, code)) :
    mbWrite s 0x6040 1 3 (leBytes 2 v.toNat) = settingDone s 0x6040 1 v.toNat 2 3
      (if s.pmb.state = 0 then sendSetpoint (setSetting s 0x6040 1 w) else setSetting s 0x6040 1 w) code := by
  have heff : settingEffect (setSetting s 0x6040 1 w) 0x6040 1 w =
      if s.pmb.state = 0 then sendSetpoint (setSetting s 0x6040 1 w) else setSetting s 0x6040 1 w := by
    simp [settingEffect, setSetting, instar_of_svcUp hs.1]
  have h := mbWrite_setting (bs := leBytes 2 v.toNat) hs.1 (by omega) (by omega) (by omega)
    ((objAt_served (served_of_dictServed hs) (by omega)).trans objRow_vinCore) rfl (typeOk_vinCore _)
    (by rw [leNat_leBytes_of_lt v.isLt, hclamp])
  rw [leNat_take_leBytes (by omega) v.isLt] at h
  rw [settingDone, ← heff]
  exact h

theorem mbWrite_lossQuery (hs : DictServed s) (v : Word32) : mbWrite s 0x2205 1 4 (leBytes 4 v.toNat) =
    settingDone s 0x2205 1 v.toNat 4 4 (lossQuery (setSetting s 0x2205 1 v.toNat) v.toNat) 0 := by
  have hv : v.toNat < 2 ^ 32 := v.isLt
  have h := mbWrite_setting (bs := leBytes 4 v.toNat) hs.1 (by omega) (by omega) (by omega)
    ((objAt_served (served_of_dictServed hs) (by omega)).trans objRow_lossQuery) rfl (typeOk_lossQuery _)
    (clampValue_fits rfl (by decide) (by simp) (by rw [leNat_leBytes_of_lt v.isLt]; simp; omega) (.inl (by simp)))
  rw [leNat_take_leBytes (by omega) v.isLt, leNat_leBytes_of_lt v.isLt] at h
  exact h

theorem mbWrite_stageKind (hs : DictServed s) {v : Byte} (hv : v.toNat ≤ 3) : mbWrite s 0x9100 1 10 [v] =
    settingDone s 0x9100 1 v.toNat 1 10
      (setSetting { setSetting s 0x9100 1 v.toNat with coc := { s.coc with stage := {}, stageState := 0 } } 0x9100 2 0) 0 := by
  have h := mbWrite_setting hs.1 (by omega) (by omega) (by omega)
    ((objAt_served (served_of_dictServed hs) (by omega)).trans objRow_stageKind) rfl (typeOk_stageKind hv)
    (clampValue_fits (v := v.toNat) rfl (by decide) (by simp) (by simpa using hv) (.inl (by simp)))
  rw [settingDone, leBytes_one]
  exact h

end

/-- Settles O48: a field by the steps of R427, the settings that act by their own, and a poll by what it read. -/
theorem settingsTakeEffect : Obligations.SettingsTakeEffect := by
  refine ⟨fun f s hup => ?field, fun s hs => ?settings, fun s hup hon => ?poll⟩
  case field =>
    intro i j w
    have hexec {t : State} {code : Nat} (h : applyField s 4 f = (t, code)) : exec (.objectWrite f) s =
        .next (thenRestored i code (FieldDone t i j w code (fieldChanged s t f code))) := by
      have hrun : exec (.objectWrite f) s = .next (writeRequest s 1 [f]).1 := congrArg Host.Outcome.next (if_pos hup)
      rw [hrun, writeRequest_one h]
    have hrefused {code : Nat} (hcode : 3 < code) (h : applyField s 4 f = (s, code)) :
        exec (.objectWrite f) s = .next (FieldDone s i j w code false) := by
      rw [hexec h, thenRestored_other (.inr (by omega)), fieldChanged_refused hcode]
    refine ⟨fun hl => hrefused (by omega) (applyField_locked hl), fun hl hr => hrefused (by omega) (applyField_absent hl hr),
      fun r hl hr => ⟨fun hacc => hrefused (by omega) (applyField_readOnly hl hr hacc),
        fun hlow hhigh hty => hrefused (by omega) (applyField_badType hl hr hlow hhigh hty),
        fun hty hacc hrun => hrefused (by omega) (applyField_running hl hr hty hacc hrun), fun hty hacc => ?_⟩⟩
    intro v code t
    rw [hexec (applyField_setting hl hr hty hacc), thenRestored_other (.inl (objAt_setting hr (hacc.imp_right And.left)))]
  case settings =>
    intro keep
    refine ⟨fun v hv => congrArg Host.Outcome.next (mbWrite_fnEnable hs hv),
      fun v hv => congrArg Host.Outcome.next (mbWrite_pmbusEnable hs hv), fun v hlow hhigh hstep hstate => ?_,
      fun v hhigh hstate => ?_, fun v => congrArg Host.Outcome.next (mbWrite_lossQuery hs v),
      fun v hv => congrArg Host.Outcome.next (mbWrite_stageKind hs hv)⟩
    · have h := mbWrite_vinCore hs (clampValue_fits rfl (by decide) hlow hhigh (.inr hstep))
      rw [if_pos hstate] at h
      exact congrArg Host.Outcome.next h
    · have h := mbWrite_vinCore hs (clampValue_above (v := v.toNat) rfl (by decide) (by simp; omega) hhigh)
      rw [if_neg hstate] at h
      exact congrArg Host.Outcome.next h
  case poll =>
    have hguard : ¬((!svcUp s) = true ∨ setting s 0x6040 3 = 0) := by simp [hup, hon]
    refine ⟨congrArg Host.Outcome.next (if_neg hguard), fun x hv hi hstatus => ?_, fun x hv hi hstatus => ?_⟩
    all_goals
      refine (congrArg Host.Outcome.next (if_neg hguard)).trans ?_
      simp only [Nat.mod_eq_of_lt hv, Nat.mod_eq_of_lt hi, hstatus, if_true, if_false]

end Sys2Proof.Machine
end

section
/-! DIE_SERVICE, CORE_RETIRE, migration requests, staging of firmware and the bank swap (R314, R471, R475 to R478, R525). -/

namespace Sys2Proof.Machine

theorem objRow_dieService : objRow 0x2204 1 = some { base := 0x2204, ty := 3, acc := 2 } := by rfl
theorem objRow_stageData : objRow 0x9100 3 = some { base := 0x9100, lo := 3, hi := 3, ty := 14, acc := 2 } := by rfl

theorem objRow_coreRetire (d : Die) : objRow (0x4012 + 0x400 * d) 1 = some (dieObj 0x4012 1 1 3 2 0 65535 1) := by
  fin_cases d <;> rfl

theorem objRow_migrate (d : Die) : objRow (dramIx d + 0x20) 1 = some (memObj 0x5020 1 1 2 2 0 127 1) := by
  fin_cases d <;> rfl

theorem keyObject_stageCommit : KeyObject 0x9100 4 0x434F4D54 { base := 0x9100, lo := 4, hi := 4, ty := 4, acc := 2 } :=
  ⟨rfl, rfl, rfl, rfl, by omega, by omega, by omega⟩

theorem keyObject_bankSwap : KeyObject 0x9101 1 0x53574150 { base := 0x9101, ty := 4, acc := 2 } :=
  ⟨rfl, rfl, rfl, rfl, by omega, by omega, by omega⟩

/-- The Cocoon's own objects are served in recovery mode too. -/
theorem served_cocoon {s : State} {index : Nat} (hlow : 0x9000 ≤ index) (hhigh : index ≤ 0x91FF) : served s index = true := by
  simp only [served, hlow, hhigh, decide_true, Bool.and_self, Bool.or_true]

section
variable {s t : State} {d : Die}

/-! ### DIE_SERVICE -/

theorem typeOk_dieService {v : Nat} (hv : v < 2 ^ 16) :
    typeOk { base := 0x2204, ty := 3, acc := 2 } 0x2204 1 3 (leBytes 2 v) = dieServiceOk v := by
  have h : leNat (leBytes 2 v) = v := leNat_leBytes_of_lt hv
  simp only [typeOk, magicValue, h, tyBytes, leBytes_length]
  rfl

theorem mbWrite_dieService (hs : DictServed s) {v : Nat} {ok : Bool} (hv : v < 2 ^ 16) (hgood : dieServiceOk v = true)
    (heff : serviceEffect s 4 0x2204 1 v (leBytes 2 v) = (t, ok)) :
    mbWrite s 0x2204 1 3 (leBytes 2 v) = FieldDone t 0x2204 1 v (if ok then 0 else 7) ok := by
  have h := mbWrite_service (t := t) (ok := ok) (bs := leBytes 2 v) hs.1 (by omega) (by omega) (by omega)
    ((objAt_served (served_of_dictServed hs) (by omega)).trans objRow_dieService) rfl ((typeOk_dieService hv).trans hgood)
    (by rw [leNat_leBytes_of_lt hv, heff])
  rw [leNat_take_leBytes (by omega) hv] at h
  exact h

/-- An accepted request of DIE_SERVICE acts. -/
theorem dieService_acts (hs : DictServed s) {v : Nat} (hv : v < 2 ^ 16) (hgood : dieServiceOk v = true)
    (hact : dieService s v = some t) : mbWrite s 0x2204 1 3 (leBytes 2 v) = FieldDone t 0x2204 1 v 0 true :=
  mbWrite_dieService hs hv hgood (by simp only [serviceEffect, hact]; rfl)

/-- A request of DIE_SERVICE that the unit's state does not allow is REFUSED_STATE. -/
theorem dieService_refused (hs : DictServed s) {v : Nat} (hv : v < 2 ^ 16) (hgood : dieServiceOk v = true)
    (hact : dieService s v = none) : mbWrite s 0x2204 1 3 (leBytes 2 v) = FieldDone s 0x2204 1 v 7 false :=
  mbWrite_dieService hs hv hgood (by simp only [serviceEffect, hact]; rfl)

theorem dieServiceOk_die (d : Die) {a : Nat} (hlow : 1 ≤ a) (hhigh : a ≤ 4) : dieServiceOk (0x100 * a + d) = true := by
  have hd : d.val < 4 := d.isLt
  have ha : (0x100 * a + d.val) / 256 = a := by omega
  have hu : (0x100 * a + d.val) % 256 = d.val := by omega
  have h3 : d.val ≤ 3 := by omega
  simp only [dieServiceOk, ha, hu, hlow, hhigh, h3, decide_true, Bool.true_or, Bool.and_self]

theorem dieService_drain (d : Die) : dieService s (0x100 + d) =
    if role s d = 0 then some (setRole { s with hub := { s.hub with service := some (1, d.val) } } d 1) else none := by
  have hu : (0x100 + d.val) % 256 = d.val := by omega
  have ha : (0x100 + d.val) / 256 = 1 := by omega
  simp only [dieService, ha, hu]

theorem dieService_undrain (d : Die) : dieService s (0x300 + d) =
    if role s d = 1 ∧ (!(getDie s d).upd) = true then some (setRole { s with hub := { s.hub with service := none } } d 0) else none := by
  have hu : (0x300 + d.val) % 256 = d.val := by omega
  have ha : (0x300 + d.val) / 256 = 3 := by omega
  simp only [dieService, ha, hu]

theorem dieService_rejoin (d : Die) : dieService s (0x400 + d) =
    if role s d = 4 ∧ (!(getDie s d).rejoin) = true then some (startRejoin s d false) else none := by
  have hu : (0x400 + d.val) % 256 = d.val := by omega
  have ha : (0x400 + d.val) / 256 = 4 := by omega
  simp only [dieService, ha, hu]

/-- No update is accepted while a die is not SERVING or another update goes on (R476). -/
theorem dieService_update_busy {u : Nat} (hu : u < 256) (hbusy : ¬(([0, 1, 2, 3].all (serving s)) = true ∧ updating s = false)) :
    dieService s (0x200 + u) = none := by
  have ha : (0x200 + u) / 256 = 2 := by omega
  have hguard : (!([0, 1, 2, 3].all (serving s))) = true ∨ updating s = true := by
    rw [Bool.not_eq_true', ← Bool.not_eq_true, ← Bool.not_eq_false (updating s)]
    exact Decidable.not_and_iff_or_not.mp hbusy
  simp only [dieService, ha]
  rw [if_pos hguard]

theorem dieService_update (hall : ([0, 1, 2, 3].all (serving s)) = true) (hfree : updating s = false) (d : Die) :
    dieService s (0x200 + d) = some (setRole (updDie { s with hub := { s.hub with service := some (1, d.val) } } d
      fun x => { x with upd := true }) d 1) := by
  have hd : d.val ≠ 4 := by omega
  have hu : (0x200 + d.val) % 256 = d.val := by omega
  have ha : (0x200 + d.val) / 256 = 2 := by omega
  simp only [dieService, ha, hu, hall, hfree, hd, Bool.not_true, Bool.false_eq_true, or_self, if_false]

theorem dieService_hubUpdate (hall : ([0, 1, 2, 3].all (serving s)) = true) (hfree : updating s = false) :
    dieService s 0x204 = some { s with hub := { s.hub with service := some (2, 4), update := true, pause := true } } := by
  simp only [dieService, hall, hfree, Bool.not_true, Bool.false_eq_true, or_self, if_false]
  rfl

/-! ### CORE_RETIRE and the migration request -/

theorem mbWrite_coreRetire (hs : DictServed s) {v : BitVec 16} {ok : Bool} (hhigh : v.toNat / 2 ^ 12 = 0)
    (hmid : v.toNat / 2 ^ 5 % 8 = 0)
    (heff : serviceEffect s 4 (0x4012 + 0x400 * d) 1 v.toNat (leBytes 2 v.toNat) = (t, ok)) :
    mbWrite s (0x4012 + 0x400 * d) 1 3 (leBytes 2 v.toNat) =
      FieldDone t (0x4012 + 0x400 * d) 1 v.toNat (if ok then 0 else 7) ok := by
  have hd := d.isLt
  have hv : leNat (leBytes 2 v.toNat) = v.toNat := leNat_leBytes_of_lt v.isLt
  have hgood : typeOk (dieObj 0x4012 1 1 3 2 0 65535 1) (0x4012 + 0x400 * d) 1 3 (leBytes 2 v.toNat) = true := by
    have hmagic : magicValue (0x4012 + 0x400 * d) 1 = none := by fin_cases d <;> rfl
    have h1 : ¬0x4012 + 0x400 * d.val = 0x1110 := by omega
    have h2 : ¬0x4012 + 0x400 * d.val = 0x2204 := by omega
    have h3 : ¬0x4012 + 0x400 * d.val = 0x1101 := by omega
    simp [typeOk, hmagic, hv, h1, h2, h3, dieObj, tyBytes, leBytes_length]
    omega
  have h := mbWrite_service (t := t) (ok := ok) (bs := leBytes 2 v.toNat) hs.1 (by omega) (by omega) (by omega)
    ((objAt_served (served_of_dictServed hs) (by omega)).trans (objRow_coreRetire d)) rfl hgood (by rw [hv, heff])
  rw [leNat_take_leBytes (by omega) v.isLt, thenRestored_other (by omega)] at h
  exact h

theorem serviceEffect_coreRetire (d : Die) (v : Nat) (bs : List Byte) : serviceEffect s 4 (0x4012 + 0x400 * d) 1 v bs =
    match coreRetire s d v with
    | some t => (t, true)
    | none => (s, false) := by
  fin_cases d <;> rfl

/-- The core that the value names is a core of the die of the object. -/
theorem retire_die (d : Die) (v : Nat) : (512 * d.val + 32 * (v / 256 % 16) + v % 32) / 512 = d := by omega

theorem mbWrite_migrate (hs : DictServed s) {ch : Byte} {ok : Bool}
    (heff : serviceEffect s 4 (dramIx d + 0x20) 1 ch.toNat [ch] = (t, ok)) :
    mbWrite s (dramIx d + 0x20) 1 2 [ch] = FieldDone t (dramIx d + 0x20) 1 ch.toNat (if ok then 0 else 7) ok := by
  have hd := d.isLt
  have hix : dramIx d + 0x20 < 0x5400 := by unfold dramIx; omega
  have hgood : typeOk (memObj 0x5020 1 1 2 2 0 127 1) (dramIx d + 0x20) 1 2 [ch] = true := by fin_cases d <;> rfl
  have h := mbWrite_service (t := t) (ok := ok) (bs := [ch]) hs.1 (by omega) (by omega) (by omega)
    ((objAt_served (served_of_dictServed hs) (by omega)).trans (objRow_migrate d)) rfl hgood heff
  have hother : thenRestored (dramIx d + 0x20) (if ok then 0 else 7) =
      fun u : State => u := funext (thenRestored_other (.inl (by unfold dramIx; omega)))
  rw [hother] at h
  exact h

theorem serviceEffect_migrate (d : Die) (ch : Byte) : serviceEffect s 4 (dramIx d + 0x20) 1 ch.toNat [ch] =
    if migrateOk s d ch.toNat then (queueMig s d ch.toNat 2 false, true) else (s, false) := by
  fin_cases d <;> rfl

/-! ### Staging -/

theorem mbWrite_stageData (hup : svcUp s = true) {bs : List Byte} (hlen : bs.length = 1024 ∨ bs.length = 2048 ∨ bs.length = 3072)
    {ok : Bool} (heff : serviceEffect s 4 0x9100 3 (leNat bs) bs = (t, ok)) :
    mbWrite s 0x9100 3 14 bs = FieldDone t 0x9100 3 (leNat (bs.take 8)) (if ok then 0 else 7) ok := by
  have hgood : typeOk { base := 0x9100, lo := 3, hi := 3, ty := 14, acc := 2 } 0x9100 3 14 bs = true := by
    simp [typeOk, magicValue]
    omega
  exact mbWrite_service (t := t) (ok := ok) (bs := bs) hup (by omega) (by omega) (by omega)
    ((objAt_served (served_cocoon (by omega) (by omega)) (by omega)).trans objRow_stageData) rfl hgood heff

end

/-- Settles O49: each service object by what its unit's state allows. -/
theorem serviceWritesAct : Obligations.ServiceWritesAct := by
  refine ⟨fun d s hs => ?service, fun s hup => ?staging⟩
  case service =>
    intro serve quiet
    refine ⟨fun h => ?drain, fun h => ?drainNot, fun h hupd => ?undrain, fun h => ?undrainNot, fun h => ?update, fun h => ?hub,
      fun h => ?updateNot, fun h => ?hubNot, fun h hre => ?rejoin, fun h => ?rejoinNot, fun v hhigh hmid => ?retire,
      fun ch hok => ?migrate, fun ch hok => ?migrateNot⟩
    case drain =>
      exact congrArg Host.Outcome.next (dieService_acts hs (by omega) (dieServiceOk_die d (a := 1) (by omega) (by omega))
        ((dieService_drain d).trans (if_pos h)))
    case drainNot =>
      exact congrArg Host.Outcome.next (dieService_refused hs (by omega) (dieServiceOk_die d (a := 1) (by omega) (by omega))
        ((dieService_drain d).trans (if_neg h)))
    case undrain =>
      exact congrArg Host.Outcome.next (dieService_acts hs (by omega) (dieServiceOk_die d (a := 3) (by omega) (by omega))
        ((dieService_undrain d).trans (if_pos ⟨h, by rw [hupd]; rfl⟩)))
    case undrainNot =>
      exact congrArg Host.Outcome.next (dieService_refused hs (by omega) (dieServiceOk_die d (a := 3) (by omega) (by omega))
        ((dieService_undrain d).trans (if_neg fun hd => h hd.1)))
    case update =>
      exact congrArg Host.Outcome.next (dieService_acts hs (by omega) (dieServiceOk_die d (a := 2) (by omega) (by omega))
        (dieService_update h.1 h.2 d))
    case hub =>
      exact congrArg Host.Outcome.next (dieService_acts hs (by omega) rfl (dieService_hubUpdate h.1 h.2))
    case updateNot =>
      exact congrArg Host.Outcome.next (dieService_refused hs (by omega) (dieServiceOk_die d (a := 2) (by omega) (by omega))
        (dieService_update_busy (by omega) h))
    case hubNot =>
      exact congrArg Host.Outcome.next (dieService_refused hs (by omega) rfl (dieService_update_busy (u := 4) (by omega) h))
    case rejoin =>
      exact congrArg Host.Outcome.next (dieService_acts hs (by omega) (dieServiceOk_die d (a := 4) (by omega) (by omega))
        ((dieService_rejoin d).trans (if_pos ⟨h, by rw [hre]; rfl⟩)))
    case rejoinNot =>
      exact congrArg Host.Outcome.next (dieService_refused hs (by omega) (dieServiceOk_die d (a := 4) (by omega) (by omega))
        ((dieService_rejoin d).trans (if_neg fun hd => h hd.1)))
    case retire =>
      intro c s1 k s2
      have hask : askRetire s c = s2 := by
        have hdie : c / 512 = d := retire_die d v.toNat
        simp only [askRetire, hdie, s2, k, s1]
      have heff := serviceEffect_coreRetire (s := s) d v.toNat (leBytes 2 v.toNat)
      refine ⟨fun h => ?_, fun h => ?_⟩
      · have hact : coreRetire s d v.toNat = some s2 := by
          rw [← hask]
          exact if_neg (by rw [show inService s _ = true from h]; simp)
        rw [hact] at heff
        exact congrArg Host.Outcome.next (mbWrite_coreRetire hs hhigh hmid heff)
      · have hact : coreRetire s d v.toNat = none := if_pos (by rw [show inService s _ = false from h]; rfl)
        rw [hact] at heff
        exact congrArg Host.Outcome.next (mbWrite_coreRetire hs hhigh hmid heff)
    case migrate =>
      exact congrArg Host.Outcome.next (mbWrite_migrate hs ((serviceEffect_migrate d ch).trans (if_pos hok)))
    case migrateNot =>
      exact congrArg Host.Outcome.next (mbWrite_migrate hs ((serviceEffect_migrate d ch).trans (if_neg (by rw [hok]; simp))))
  case staging =>
    refine ⟨fun bs hlen => ?data, ?commit, fun hstate hkind hrest hcoc => ?swap, fun hstate => ?swapNot⟩
    case data =>
      intro o
      refine ⟨fun hfits => ?_, fun hover => ?_⟩
      · have hact : stageData s bs = some (setSetting { s with coc := { s.coc with stage := memWrites s.coc.stage o bs, stageState := 1 } }
            0x9100 2 (o + bs.length)) := if_neg (not_lt.mpr hfits)
        exact congrArg Host.Outcome.next (mbWrite_stageData hup hlen (by simp only [serviceEffect, hact]; rfl))
      · have hact : stageData s bs = none := if_pos hover
        exact congrArg Host.Outcome.next (mbWrite_stageData hup hlen (by simp only [serviceEffect, hact]; rfl))
    case commit =>
      exact congrArg Host.Outcome.next (keyObject_stageCommit.write_key (v := 0x434F4D54) hup
        (served_cocoon (by omega) (by omega)) rfl rfl)
    case swap =>
      have hact : bankSwap s = some (bump { s with coc := { s.coc with
          restart := true, swapping := true, aliasGen := false, aliasOk := false } } 0xE0B1 1 1) := by
        simp [bankSwap, stageKind, hstate, hkind, hrest, hcoc]
      exact congrArg Host.Outcome.next (keyObject_bankSwap.write_key (v := 0x53574150) (ok := true) hup
        (served_cocoon (by omega) (by omega)) rfl (by simp only [serviceEffect, hact]; rfl))
    case swapNot =>
      have hact : bankSwap s = none := if_pos (.inl hstate)
      exact congrArg Host.Outcome.next (keyObject_bankSwap.write_key (v := 0x53574150) (ok := false) hup
        (served_cocoon (by omega) (by omega)) rfl (by simp only [serviceEffect, hact]; rfl))

end Sys2Proof.Machine
end

section
/-! Requests answered in the order of their arrival, and the Cocoon's pair (R426, R439, R440, R506, R510 to R513, R519 to R521, R525). -/

namespace Sys2Proof.Machine

section
variable {s : State} {q : Request}

/-- The request of the dictionary whose turn it is. -/
theorem nextDict_some (hup : svcUp s = true) (hq : s.svc.reqs.find? (fun q => decide (q.op ≤ 2)) = some q) {n : Nat} (hop : q.op = n) :
    nextDict s n = some (q, { s with svc := { s.svc with reqs := s.svc.reqs.erase q } }) := by
  simp only [nextDict, takeReq, hq, hup, hop, decide_true, Bool.and_self, if_true]

/-- The request to the Cocoon whose turn it is. -/
theorem nextCocoon_some (hup : svcUp s = true) (hq : s.svc.reqs.find? (fun q => decide (3 ≤ q.op)) = some q)
    (hrun : s.coc.restart = false) {p : Request → Bool} (hp : p q = true) :
    nextCocoon s p = some (q, { s with svc := { s.svc with reqs := s.svc.reqs.erase q } }) := by
  simp only [nextCocoon, takeReq, hq, hup, hrun, hp, Bool.not_false, Bool.and_self, if_true]

end

/-- Settles O50: each request by the first of its queue, and the answer that its check gives. -/
theorem requestsAreAnswered : Obligations.RequestsAreAnswered := by
  intro s q hup s1
  refine ⟨fun hq => ⟨fun hop => ?reads, fun hop => ?writes⟩, fun hq hrun => ⟨fun hop hno => ?orders, fun hclaim => ?claims,
    fun hop hno => ?reports, fun hcert => ?certificates⟩⟩
  case reads =>
    have hnext := nextDict_some hup hq hop
    refine ⟨fun e es h => ?_, fun h => ?_, fun h => ?_⟩
    all_goals
      simp only [exec, execDictRead, hnext, h]
      rfl
  case writes =>
    have hnext := nextDict_some hup hq hop
    refine ⟨fun fs t rs hparse hwrite => ?_, fun h => ?_⟩
    · simp only [exec, execDictWrite, hnext, hparse]
      rw [show writeRequest _ (clampSource q.src) fs = (t, rs) from hwrite]
    · simp only [exec, execDictWrite, hnext, h]
      rfl
  case orders =>
    have hnext := nextCocoon_some (p := fun q => q.op = 3 && !isClaim q) hup hq hrun (by simp [hop, hno])
    refine ⟨fun n o t rs hcheck happly => ?_, fun n hcheck => ?_⟩
    · simp only [exec, execChangeOrder, hnext]
      rw [show checkOrder _ (decide (q.src = .mailbox)) q.data = (n, some o) from hcheck]
      simp only
      rw [show applyOrder _ o (decide (q.src = .mailbox)) q.data = (t, rs) from happly]
    · simp only [exec, execChangeOrder, hnext]
      rw [show checkOrder _ (decide (q.src = .mailbox)) q.data = (n, none) from hcheck]
      simp only [refuseOrder, orderResponse, resultBytes, List.length_nil]
      rfl
  case claims =>
    have hnext := nextCocoon_some (p := isClaim) hup hq hrun hclaim
    refine ⟨fun n o t rs hcheck happly => ?_, fun n hcheck => ?_⟩
    · simp only [exec, execClaim, hnext]
      rw [show checkOrder _ (decide (q.src = .mailbox)) q.data = (n, some o) from hcheck]
      simp only
      rw [show applyOrder _ o true q.data = (t, rs) from happly]
    · simp only [exec, execClaim, hnext]
      rw [show checkOrder _ (decide (q.src = .mailbox)) q.data = (n, none) from hcheck]
      simp only [refuseOrder, orderResponse, resultBytes, List.length_nil]
      rfl
  case reports =>
    have hnext := nextCocoon_some (p := fun q => q.op = 4 && !asksCertificate q) hup hq hrun (by simp [hop, hno])
    refine ⟨fun h => ?_, fun h => ?_⟩
    · simp only [exec, execAttestReport, hnext]
      rw [if_pos (show attestStatus _ q.data ≠ 0 from h)]
      simp only [attestResponse, List.append_nil, List.length_nil, s1]
    · intro body answer s2
      have hrun : exec .attestReport s = .next (respond (if s2.coc.aliasLeaf = 65536 then
          sillage s2 0x0302 5 noJob (packItems [(32, s2.coc.bootCount)]) else s2) q (some answer)) := by
        simp only [exec, execAttestReport, hnext]
        rw [if_neg (not_not.mpr (show attestStatus _ q.data = 0 from h))]
      refine ⟨fun hleft => ?_, fun hlast => ?_⟩
      · rw [hrun, if_neg (show ¬s.coc.aliasLeaf + 1 = 65536 by omega)]
      · rw [hrun, if_pos (show s.coc.aliasLeaf + 1 = 65536 by omega)]
  case certificates =>
    have hnext := nextCocoon_some (p := asksCertificate) hup hq hrun hcert
    refine ⟨fun h => ?_, fun h => ?_⟩
    · simp only [exec, execAttestCertificate, hnext]
      rw [if_pos (show attestStatus _ q.data ≠ 0 from h)]
      simp only [attestResponse, List.append_nil, List.length_nil, s1]
    · simp only [exec, execAttestCertificate, hnext]
      rw [if_neg (not_not.mpr (show attestStatus _ q.data = 0 from h))]

/-- Settles O51: the identity key by the leaves that are left, a mismatch by its second, a restart by the banks that pass. -/
theorem pairRestartsAndAlias : Obligations.PairRestartsAndAlias := by
  refine ⟨fun s hgen hup hrun => ?aliasMade, fun s hpor hup => ?mismatch, fun s hpor hrun => ?restart⟩
  case aliasMade =>
    have hguard : ¬((!s.coc.aliasGen) = true ∨ (!s.coc.up) = true ∨ s.coc.restart = true) := by simp [hgen, hup, hrun]
    refine ⟨fun h => ?_, fun h => ?_⟩
    · simp only [exec, execAliasGenDone, hguard, h, if_false, if_true]
    · simp only [exec, execAliasGenDone, hguard, h.ne', if_false]
  case mismatch =>
    intro again
    have hguard : ¬(s.por = true ∨ (!s.coc.up) = true) := by simp [hpor, hup]
    refine ⟨fun h => ?_, fun t h hlate => ?_, fun t h hsoon => ?_⟩
    · simp only [exec, execLockstepMismatch, execLockstepMismatch.again, hguard, h, if_false, again]
    · simp only [exec, execLockstepMismatch, execLockstepMismatch.again, hguard, h, not_le.mpr hlate, if_false, again]
    · simp only [exec, execLockstepMismatch, hguard, h, hsoon, if_false, if_true]
  case restart =>
    intro s0 old
    have hguard : ¬(s.por = true ∨ (!s.coc.restart) = true) := by simp [hpor, hrun]
    have hrun {ok : Bool} : exec (.cocoonRestartDone ok) s = .next (startAlias (
        if s.coc.swapping then
          (if ok ∧ (bankImage s0 0 (1 - old)).ok then recordFw (activate s0 0 0 (1 - old) true) 1 4 0 (1 - old)
           else activate { s0 with coc := { s0.coc with stageState := 4 } } 0 0 old false)
        else if (bankImage s0 0 old).ok then activate s0 0 0 old false
        else if (bankImage s0 0 (1 - old)).ok then activate s0 0 0 (1 - old) false
        else { s0 with coc := { s0.coc with up := false } })) := by
      have hold : s.coc.prefer.getD 0 0 = old := by simp [Vector.getD, old]
      simp only [exec, execCocoonRestartDone, hguard, if_false, hold]
      rfl
    refine ⟨fun hs hold ok => ?_, fun hs hold hnew ok => ?_, fun hs hnew => ?_, fun hs hold hnew ok => ?_, fun hs => ?_⟩
    · rw [hrun]
      simp only [hs, hold, Bool.false_eq_true, if_false, if_true]
    · rw [hrun]
      simp only [hs, hold, hnew, Bool.false_eq_true, if_false, if_true]
    · rw [hrun]
      simp only [hs, hnew, and_self, if_true]
    · rw [hrun]
      simp only [hs, hold, hnew, Bool.false_eq_true, if_false]
    · rw [hrun]
      simp only [hs, Bool.false_eq_true, false_and, if_false, if_true]

end Sys2Proof.Machine
end

section
/-! Trips, supplies and POR (R482, R487 to R490, R507, R508). -/

namespace Sys2Proof.Machine

section
variable {s : State}

/-- What an assertion of COCOON_TRIP records, and where it leaves the pins (R507). -/
theorem assertTrip_asserts (h : s.coc.trip = false) (cause sensor reading : Nat) :
    (assertTrip s cause sensor reading).coc.trip = true ∧ (assertTrip s cause sensor reading).coc.tripCause = cause ∧
      (assertTrip s cause sensor reading).coc.tripSensor = sensor ∧ (assertTrip s cause sensor reading).coc.mr = zeroMr ∧
      (assertTrip s cause sensor reading).pins.tx = .idle ∧
      (assertTrip s cause sensor reading).pins.thermtrip = (cause = 1 || cause = 2 || cause = 7) := by
  unfold assertTrip
  rw [if_neg (by rw [h]; exact Bool.false_ne_true)]
  exact ⟨rfl, rfl, rfl, rfl, rfl, rfl⟩

/-- What POR leaves of the cause, the epoch and the counters (R482, R487). -/
theorem assertPor_asserts (s : State) : (assertPor s).por = true ∧ (assertPor s).hub.cause = 1 ∧ (assertPor s).accord.epoch = 0 ∧
    (assertPor s).stats = [] :=
  ⟨rfl, rfl, rfl, rfl⟩

end

/-- Settles O52: a trip by its cause, a supply by what it asserts, a release by what it waits for. -/
theorem tripsAndSupplies : Obligations.TripsAndSupplies := by
  refine ⟨fun cause sensor reading s hdue htrip => ?trip, fun cause sensor reading s hdue => ?notDue, fun s hpor htrip => ?release,
    fun s hpor => ?por, fun s hpor htrip => ?supplies, fun s => rfl, fun s => rfl, fun b k s hpor => ?porRelease⟩
  case trip =>
    obtain ⟨hset, hcause, hsensor, hmr, htx, hterm⟩ := assertTrip_asserts htrip cause.val sensor.toNat reading.toNat
    refine ⟨_, congrArg Host.Outcome.next (if_pos hdue), hset, hcause, hsensor, hmr, htx, ?_⟩
    rw [hterm]
    fin_cases cause <;> decide
  case notDue =>
    simp only [exec, execTrip, hdue, Bool.false_eq_true, if_false]
  case release =>
    refine ⟨fun hfree hold => ?_, fun hlatched cool => ?_, ?_⟩
    · simp only [exec, execTripRelease, hpor, htrip, hfree, not_lt.mpr hold, Bool.not_true, Bool.false_eq_true, or_self, if_false]
    · simp only [exec, execTripRelease, hlatched, true_or, or_true, if_true]
    · simp only [exec, execTripRelease, Bool.not_false, true_or, or_true, if_true]
  case por =>
    obtain ⟨hset, hcause, hepoch, hstats⟩ := assertPor_asserts s
    have hguard : ¬s.por = true := by simp [hpor]
    refine ⟨assertPor s, congrArg Host.Outcome.next (if_neg hguard), hset, hcause, hepoch, hstats,
      congrArg Host.Outcome.next (if_neg hguard), congrArg Host.Outcome.next (if_neg hguard), ?_⟩
    simp only [exec, execSupplyLoss, hpor, Bool.false_eq_true, if_false]
  case supplies =>
    have hguard : ¬s.por = true := by simp [hpor]
    obtain ⟨hset, hcause, -⟩ := assertTrip_asserts htrip 5 0 0
    obtain ⟨hset', hcause', -⟩ := assertTrip_asserts (s := { s with pow := { s.pow with vinUp := false } }) htrip 5 0 0
    exact ⟨_, _, congrArg Host.Outcome.next (if_neg hguard), hset, hcause, congrArg Host.Outcome.next (if_neg hguard), hset', hcause'⟩
  case porRelease =>
    simp only [exec, execPorRelease, hpor, Bool.not_true, Bool.false_eq_true, if_false]

end Sys2Proof.Machine
end

section
/-! Resets of the function and of the dies, instars, and blocks that go idle (R318, R457, R482 to R486, R489, R491, R492, R524). -/

namespace Sys2Proof.Machine

/-- Settles O53: each reset by the state of the pin, the package or the die that it asks for. -/
theorem functionAndDieResets : Obligations.FunctionAndDieResets := by
  refine ⟨fun s hpor hperst hlink => ?function, fun s hperst => ?perst, fun s hperst => ?perstRelease,
    fun pass s hpor htrip hrun => ?instars, fun d s hpor => ?dies⟩
  case function =>
    have hguard : ¬(s.por = true ∨ s.pins.perst = true ∨ (!s.hub.linkUp) = true) := by simp [hpor, hperst, hlink]
    exact ⟨congrArg Host.Outcome.next (if_neg hguard), congrArg Host.Outcome.next (if_neg hguard)⟩
  case perst =>
    refine ⟨fun hpor => ?_, fun hpor => ?_⟩
    · simp only [exec, execPerstAssert, hperst, hpor, Bool.false_eq_true, if_false, if_true]
    · refine ⟨hubBack (dropLink (resetCxl { wipeDies (functionReset (wideCause { s with pins := { s.pins with perst := true } } 4 2))
          with sched := {}, kvPages := [], chunks := [] })), ?_, rfl, rfl, rfl, rfl, rfl, rfl, rfl⟩
      simp only [exec, execPerstAssert, hperst, hpor, Bool.false_eq_true, if_false]
  case perstRelease =>
    intro s1
    refine ⟨fun h => ?_, fun hpor htrip => ?_⟩
    · simp only [exec, execPerstRelease, hperst, h, Bool.not_true, Bool.false_eq_true, if_false, if_true, s1]
    · simp only [exec, execPerstRelease, hperst, hpor, htrip, Bool.not_true, Bool.false_eq_true, or_self, if_false, List.foldl_cons,
        List.foldl_nil, s1]
  case instars =>
    have hguard : ¬(s.por = true ∨ s.coc.trip = true ∨ s.coc.restart = true) := by simp [hpor, htrip, hrun]
    refine ⟨fun hup hrec => ⟨fun b h => ?_, fun h => ?_⟩,
      fun hup hinstar hrec => ⟨fun hsel => ?_, fun b hsel h => ?_, fun hsel h => ?_⟩,
      fun d hphase hinstar hup => ⟨fun b h => ?_, fun h => ?_⟩⟩
    · simp only [exec, execInstarStart, hguard, hup, hrec, h, Bool.false_eq_true, or_self, if_false]
    · simp only [exec, execInstarStart, hguard, hup, hrec, h, Bool.false_eq_true, or_self, if_false]
    · simp only [exec, execInstarStart, hguard, hup, hrec, hsel, not_le.mpr hinstar, Bool.not_true, Bool.false_eq_true, or_self, if_false,
        if_true]
    · simp only [exec, execInstarStart, hguard, hup, hrec, hsel, h, not_le.mpr hinstar, Bool.not_true, Bool.false_eq_true, or_self,
        if_false]
    · simp only [exec, execInstarStart, hguard, hup, hrec, hsel, h, not_le.mpr hinstar, Bool.not_true, Bool.false_eq_true, or_self,
        if_false]
    · simp only [exec, execInstarStart, hguard, hup, hphase, hinstar, h, ne_eq, not_true_eq_false, Bool.not_true, Bool.false_eq_true,
        or_self, if_false]
    · simp only [exec, execInstarStart, hguard, hup, hphase, hinstar, h, ne_eq, not_true_eq_false, Bool.not_true, Bool.false_eq_true,
        or_self, if_false]
  case dies =>
    refine ⟨fun hrst hrole => ?lost, fun ask hrst hrole4 hrole5 hask => ?asked, fun hrst hrole hupd hask hphase => ?ask,
      fun htrip hrst hinstar hrec hvin hrole => ?release, fun hrole => ?lostRelease, fun hphase hinstar => ?done⟩
    case lost =>
      refine ⟨fun h => ?_, fun h => ?_⟩
      · simp only [exec, execDieRstAssert, hpor, hrst, hrole, h, Bool.false_eq_true, or_self, if_false, if_true]
      · simp only [exec, execDieRstAssert, hpor, hrst, hrole, h, Bool.false_eq_true, or_self, if_false, if_true]
    case asked =>
      refine ⟨?_, fun htrip hinstar hrec hvin hrole => ?_⟩
      · simp only [exec, execDieRstAssert, hpor, hrst, hrole4, hrole5, hask, Option.isSome_some, Bool.false_eq_true, or_self, if_false,
          if_true]
      · simp only [exec, execDieRstRelease, hpor, htrip, hrec, hvin, hrst, hask, not_lt.mpr hinstar, not_lt.mpr hrole,
          Option.isSome_some, Bool.not_true, Bool.false_eq_true, or_self, if_false, if_true]
    case ask =>
      have hnot : ¬((1 : Nat) = 4 ∨ (1 : Nat) = 5) := by decide
      simp only [exec, execDieRstAssert, hpor, hrst, hnot, hask, hrole, hupd, hphase, Option.isSome_none, Bool.not_false,
        Bool.false_eq_true, or_self, and_self, if_false, if_true]
    case release =>
      simp only [exec, execDieRstRelease, hpor, htrip, hrec, hvin, hrst, not_lt.mpr hinstar, not_lt.mpr hrole, Bool.not_true,
        Bool.false_eq_true, or_self, if_false, if_true]
    case lostRelease =>
      simp only [exec, execDieRstRelease, hrole, or_true, if_true]
    case done =>
      intro x s1 s2 s3
      have hguard : ¬((getDie s d).phase ≠ .running ∨ (getDie s d).instar ≠ 2) := by simp [hphase, hinstar]
      exact congrArg Host.Outcome.next (if_neg hguard)

/-- Settles O54: a request of a block in service is noted; its end is the report, or the timeout, whichever holds. -/
theorem blocksGoIdleAndReset : Obligations.BlocksGoIdleAndReset := by
  refine ⟨fun k s hup hwarm hask => ?cluster, fun c s hup hwarm hlive hidle => ?core, fun b s t hask => ⟨fun hquiet => ?idle,
    fun hbusy => ?busy, fun hlate => ?late, fun hearly => ?early⟩⟩
  case cluster =>
    simp only [exec, execClusterRst, hup, hwarm, hask, Option.isSome_none, ne_eq, not_true_eq_false, Bool.not_true, Bool.false_eq_true,
      or_self, if_false]
  case core =>
    simp only [exec, execCoreRst, hup, hwarm, hlive, hidle, ne_eq, not_true_eq_false, Bool.not_true, Bool.false_eq_true, or_self,
      if_false]
  case idle =>
    have hnone : ¬(s.cores.any fun c => blockCores b c.1 && coreActive c.2) = true := by
      rw [List.any_eq_true]
      rintro ⟨⟨c, k⟩, hmem, hcore⟩
      obtain ⟨hblock, hactive⟩ := Bool.and_eq_true_iff.mp hcore
      rw [hquiet c k hmem hblock] at hactive
      exact Bool.false_ne_true hactive
    simp only [exec, execIdleReport, hask, hnone, Option.isNone_some, Bool.false_eq_true, or_self, if_false]
  case busy =>
    obtain ⟨c, k, hmem, hblock, hactive⟩ := hbusy
    have hsome : (s.cores.any fun c => blockCores b c.1 && coreActive c.2) = true :=
      List.any_eq_true.mpr ⟨(c, k), hmem, Bool.and_eq_true_iff.mpr ⟨hblock, hactive⟩⟩
    exact congrArg Host.Outcome.next (if_pos (.inr hsome))
  case late =>
    simp only [exec, execIdleTimeout, hask, not_lt.mpr hlate, if_false]
  case early =>
    simp only [exec, execIdleTimeout, hask, hearly, if_true]

end Sys2Proof.Machine
end

section
/-! Losses of dies, and what moves to other dies (R454 to R457, R463, R466, R468, R469). -/

namespace Sys2Proof.Machine

section
variable {s : State} {d cause : Nat}

theorem declare_fresh (hpor : s.por = false) (hrun : s.coc.restart = false) (hrole : role s d ≤ 3)
    (hnone : tget s.accord.declared d = none) :
    declare s d cause = { s with accord := { s.accord with declared := tset s.accord.declared d cause } } := by
  simp only [declare, mayDeclare, hpor, hrun, hrole, hnone, Option.isNone_none, Bool.not_false, decide_true, Bool.and_self,
    Bool.not_true, Bool.false_eq_true, if_false]

/-- The paths of the bridges and of the hub lie below that of the always-on controller. -/
theorem pathNo_lt {p : HbPath} (hp : p ≠ .alwaysOn) : pathNo p < 5 := by
  cases p with
  | bridge peer => exact Nat.lt_of_lt_of_le peer.isLt (by omega)
  | hub => decide
  | alwaysOn => exact absurd rfl hp

/-- A controller is missed when no path but its own hears of it (R454). -/
theorem allStale_iff : (([0, 1, 2, 3, 4].filter fun q => q ≠ d).all fun q => stale s d q) = true ↔
    ∀ q, q < 5 → q ≠ d → stale s d q = true := by
  have hmem (q : Nat) : q ∈ [0, 1, 2, 3, 4] ↔ q < 5 := by
    simp only [List.mem_cons, List.not_mem_nil, or_false]
    omega
  simp only [List.all_eq_true, List.mem_filter, hmem, decide_eq_true_eq, and_imp]

end

/-- Settles O55: a heartbeat by its path, a loss by its cause and its limit. -/
theorem lossesAreDeclaredAndTaken : Obligations.LossesAreDeclaredAndTaken := by
  refine ⟨fun d p s => ?heartbeats, fun d s => ?losses⟩
  case heartbeats =>
    intro s1
    refine ⟨fun hp x => ?_, ?_⟩
    · simp only [exec, execHeartbeat, pathNo_lt hp, if_true, s1]
      rfl
    · rintro rfl
      exact ⟨rfl, rfl⟩
  case losses =>
    intro losing fresh
    have hdeclare (hfresh : fresh) (n : Nat) : declare s d n = losing n :=
      declare_fresh hfresh.1 hfresh.2.1 hfresh.2.2.1 hfresh.2.2.2
    refine ⟨fun hfresh hstale => ?silent, fun hstale => ?heard, fun p hp hfresh hwatched hstale hall => ?missed,
      fun p q hp hq hqd hstale => ?heardElsewhere, fun hwatched => ?watchdog, fun t ht hwatched => ⟨fun hearly => ?waits,
      fun hfresh hlate => ?restart⟩, fun hphase => ⟨fun hearly => ?releases, fun hlate hrejoin => ?rejoins,
      fun hfresh hlate hrejoin => ?overrun⟩,
      fun hpor hrun hrole => ⟨fun c m hc => ?taken, fun hnone => ?memory, fun hnone => ?nothing⟩⟩
    case silent =>
      obtain ⟨hpor, hrun, hrole, hnone⟩ := hfresh
      refine (congrArg Host.Outcome.next (if_pos (rfl : pathNo .alwaysOn = 5))).trans (congrArg Host.Outcome.next ?_)
      rw [if_pos hstale]
      exact declare_fresh hpor hrun hrole hnone
    case heard =>
      refine (congrArg Host.Outcome.next (if_pos (rfl : pathNo .alwaysOn = 5))).trans (congrArg Host.Outcome.next ?_)
      rw [if_neg (by rw [hstale]; exact Bool.false_ne_true)]
    case missed =>
      have hown : ¬pathNo p = 5 := (pathNo_lt hp).ne
      have hmissed := allStale_iff.mpr hall
      simp only [exec, execHeartbeatMiss, hown, if_false]
      rw [if_pos ⟨hwatched, by rw [hstale]; rfl, hmissed⟩, hdeclare hfresh]
    case heardElsewhere =>
      have hown : ¬pathNo p = 5 := (pathNo_lt hp).ne
      simp only [exec, execHeartbeatMiss, hown, if_false]
      rw [if_neg]
      rintro ⟨-, -, hall⟩
      have hmissed := allStale_iff.mp hall q hq hqd
      rw [hstale] at hmissed
      exact Bool.false_ne_true hmissed
    case watchdog =>
      exact congrArg Host.Outcome.next (if_pos hwatched)
    case waits =>
      simp only [exec, execWatchdogRestartTimeout, ht, hearly, or_true, if_true]
    case restart =>
      simp only [exec, execWatchdogRestartTimeout, ht, hwatched, not_lt.mpr hlate, Bool.not_true, Bool.false_eq_true, or_self, if_false,
        hdeclare hfresh]
    case releases =>
      simp only [exec, execReleaseSequenceOverrun, hearly, or_true, if_true]
    case rejoins =>
      simp only [exec, execReleaseSequenceOverrun, hphase, hrejoin, not_le.mpr hlate, ne_eq, not_true_eq_false, or_self, if_false, if_true]
    case overrun =>
      simp only [exec, execReleaseSequenceOverrun, hphase, hrejoin, not_le.mpr hlate, ne_eq, not_true_eq_false, Bool.false_eq_true,
        or_self, if_false, hdeclare hfresh]
    case taken =>
      simp only [exec, execDieLoss, hpor, hrun, hc, not_lt.mpr hrole, Bool.false_eq_true, or_self, if_false]
    case memory =>
      simp only [exec, execDieLoss, hpor, hrun, hnone, not_lt.mpr hrole, Bool.false_eq_true, or_self, if_false, if_true]
    case nothing =>
      simp only [exec, execDieLoss, hpor, hrun, hnone, not_lt.mpr hrole, Bool.false_eq_true, or_self, if_false]

/-- The job that an update leaves is the update of the job that stood there. -/
theorem tget_updJob {s : State} {n : Nat} {f : Job → Job} {x : Job} (h : tget (updJob s n f).jobs n = some x) :
    ∃ y, tget s.jobs n = some y ∧ x = f y := by
  cases hy : tget s.jobs n with
  | none =>
    simp only [updJob, hy] at h
    cases h
  | some y =>
    rw [updJob_some hy] at h
    exact ⟨y, rfl, (Option.some.inj ((tget_tset_self _ _ _).symm.trans h)).symm⟩

/-- Settles O56: a ring, a group and a job by what may move them, second copies by the die that takes them. -/
theorem workMovesToOtherDies : Obligations.WorkMovesToOtherDies := by
  refine ⟨fun r s hpause => ?rings, fun g gr c s hg hsecond hstopped hhome hup hfirst => ?groups, fun n d j s hj hd => ?jobs,
    fun asid a s ha => ?spaces, fun g gr s hg hrun => ?copies⟩
  case rings =>
    intro d to'
    refine ⟨fun hserve hlow hto => ?_, fun hserve => ?_, fun hr hserve hupd hd => ⟨fun hbusy => ?_, fun hbusy => ?_⟩⟩
    · intro new
      have hguard : ¬(s.hub.pause = true ∨ serving s d = true ∨ lowestRing s d ≠ some r.val ∨ to' = []) := by
        simp [hpause, hserve, hlow, hto]
      exact congrArg Host.Outcome.next (if_neg hguard)
    · exact congrArg Host.Outcome.next (if_pos (.inr (.inl hserve)))
    · have hguard : ¬(r.val = 0 ∨ s.hub.pause = true ∨ (!serving s (r.val / 2048)) = true ∨ (getDie s (r.val / 2048)).upd = true ∨
          ringHome s r = r.val / 2048 ∨ ringBusy s r = true) := by
        rintro (h | h | h | h | h | h)
        · exact hr h
        · simp [hpause] at h
        · simp [hserve] at h
        · simp [hupd] at h
        · exact hd h
        · simp [hbusy] at h
      exact congrArg Host.Outcome.next (if_neg hguard)
    · exact congrArg Host.Outcome.next (if_pos (.inr (.inr (.inr (.inr (.inr hbusy))))))
  case groups =>
    intro back
    have hlc : (!gr.lc && s.groups.any fun o => o.2.stopped && o.2.lc && o.2.second = some c) = false := by
      rcases hfirst with hlc | hnone
      · rw [hlc]
        rfl
      · rw [Bool.and_eq_false_iff]
        right
        rw [List.any_eq_false]
        intro o ho
        simpa [and_assoc] using hnone o ho
    simp only [exec, execGroupRehome, hg, hsecond, hstopped, hhome, hup, hlc, Bool.not_true, Bool.false_eq_true, or_self, if_false]
    rfl
  case jobs =>
    refine ⟨fun hfailed => ?_, fun hfailed hno => ?_, fun hfailed hmay hspace hready => ?_, fun hfailed hmay hspace hready => ?_⟩
    · simp only [exec, execJobRequeue, hj, hd, Option.isSome_iff_ne_none.mpr hfailed, if_true]
    · have hguard : (!mayRequeue s j) = true ∨ (tget s.aspaces j.asid).isNone = true := by simpa using hno
      simp only [exec, execJobRequeue, hj, hd, hfailed, hguard, Option.isSome_none, Bool.false_eq_true, if_false, if_true]
    · have hguard : ¬((!mayRequeue s j) = true ∨ (tget s.aspaces j.asid).isNone = true) := by simp [hmay, hspace]
      simp only [exec, execJobRequeue, hj, hd, hfailed, hguard, hready, Option.isSome_none, Bool.false_eq_true, Bool.not_false,
        if_false, if_true]
    · have hguard : ¬((!mayRequeue s j) = true ∨ (tget s.aspaces j.asid).isNone = true) := by simp [hmay, hspace]
      refine ⟨?requeued, ?run, fun x hx => ?fresh⟩
      case run =>
        simp only [exec, execJobRequeue, hj, hd, hfailed, hguard, hready, Option.isSome_none, Bool.false_eq_true, Bool.not_true,
          if_false]
        rfl
      case fresh =>
        obtain ⟨y, -, rfl⟩ := tget_updJob hx
        exact ⟨rfl, rfl, rfl, rfl, rfl, rfl, rfl⟩
  case spaces =>
    refine ⟨fun c hnone haccord hsucc => ?_, fun hsome => ?_⟩
    · simp only [exec, execSecondDieFill, ha, hnone, haccord, hsucc, Option.isSome_none, Bool.not_true, Bool.false_eq_true, or_self,
        if_false]
    · simp only [exec, execFillDone, ha, Option.isSome_iff_ne_none.mpr hsome, if_true]
  case copies =>
    refine ⟨fun c hnone hsucc => ?_, fun hsome => ?_⟩
    · simp only [exec, execSecondDieFill, hg, hnone, hrun, hsucc, Option.isSome_none, Bool.false_eq_true, or_self, if_false]
    · simp only [exec, execFillDone, hg, hrun, Option.isSome_iff_ne_none.mpr hsome, Bool.not_false, and_self, if_true]

end Sys2Proof.Machine
end

section
/-! Repacks and rejoins, spares, and updates of the dies and the hub (R471, R473, R475 to R477). -/

namespace Sys2Proof.Machine

/-- What a change of the accord sets, and what it keeps of the rest (R466). -/
theorem setRole_sets (s : State) (d r : Nat) : (setRole s d r).accord.roles = s.accord.roles.setIfInBounds d r ∧
    (setRole s d r).accord.epoch = s.accord.epoch + 1 ∧ (setRole s d r).hub.service = s.hub.service ∧
    (setRole s d r).dies = s.dies ∧ (setRole s d r).dram = s.dram ∧ (setRole s d r).dramUE = s.dramUE := by
  obtain ⟨l, hl⟩ := sendCtrlAll_links { s with accord := { s.accord with
    epoch := s.accord.epoch + 1, roles := s.accord.roles.setIfInBounds d r } }
  simp only [setRole, accordChange, hl, postEvent]
  split <;> exact ⟨rfl, rfl, rfl, rfl, rfl, rfl⟩

theorem role_setRole (s : State) (d : Die) (r : Nat) : role (setRole s d r) d = r := by
  obtain ⟨hroles, -⟩ := setRole_sets s d r
  simp only [role, hroles, d.isLt, dif_pos, Vector.getElem_setIfInBounds_self]

theorem getDie_setRole (s : State) (d r e : Nat) : getDie (setRole s d r) e = getDie s e := by
  obtain ⟨-, -, -, hdies, -⟩ := setRole_sets s d r
  simp only [getDie, hdies]

/-- Where no imago can be rebuilt on the die, no page of it is kept (R471). -/
theorem rebuilt_nil {s : State} {d : Nat} (h : ∀ i, i ∈ s.imagos → rebuildable s d i.2 = false) :
    (s.imagos.flatMap fun i => if rebuildable s d i.2 then i.2.pages.filter fun p => p.die = d else []) = [] := by
  rw [List.flatMap_eq_nil_iff]
  intro i hi
  rw [h i hi, if_neg Bool.false_ne_true]

/-- Settles O57: a repack by the layout that fits, a rejoin by what is to be rebuilt. -/
theorem repackAndRejoin : Obligations.RepackAndRejoin := by
  refine ⟨fun n m s hnone hlargest => ?repack, fun n frame m s hsome => ?switch, fun d s hrole hset hre hrun hlow hhigh => ?auto,
    fun d s hrole hrun hkeep => ?rejoin⟩
  case repack =>
    intro fits chosen
    have hrun : exec .repack s = .next (
        let mode := if fits true then 3 else if fits false then 4 else 2
        if 3 ≤ mode then { chosen mode with hub := { (chosen mode).hub with service := some (4, n) } } else chosen mode) := by
      simp only [exec, execRepack, hnone, hlargest, Option.isSome_none, Bool.false_eq_true, if_false]
      rfl
    refine ⟨fun hpar => ?_, fun hpar hplain => ?_, fun hpar hplain => ?_⟩
    · rw [hrun, hpar]
      rfl
    · rw [hrun, hpar, hplain]
      rfl
    · rw [hrun, hpar, hplain]
      rfl
  case switch =>
    refine ⟨fun h => ?_, fun got h => ?_⟩
    · simp only [exec, execRepackSwitch, hsome, h]
    · intro gone moves at' copied new formed switched
      simp only [exec, execRepackSwitch, hsome, h]
      rfl
  case auto =>
    have hcause : s.accord.causes.getD d.val 0 = s.accord.causes[d] := by simp [Vector.getD]
    refine ⟨fun hfirst hlate => ?_, fun hnot => ?_⟩
    · have hguard : ¬(role s d ≠ 4 ∨ setting s 0x2203 2 = 0 ∨ (getDie s d).autoTried = true ∨ (getDie s d).rejoin = true ∨
          s.accord.causes[d] < 1 ∨ 4 < s.accord.causes[d] ∨ s.nowNs < (getDie s d).lossNs + 1000000000 ∨ s.coc.restart = true) := by
        rintro (h | h | h | h | h | h | h | h)
        · exact h hrole
        · exact hset h
        · simp [hfirst] at h
        · simp [hre] at h
        · exact absurd hlow (not_le.mpr h)
        · exact absurd hhigh (not_le.mpr h)
        · exact absurd hlate (not_le.mpr h)
        · simp [hrun] at h
      simp only [exec, execAutoRejoin, hcause, hguard, if_false]
    · simp only [exec, execAutoRejoin]
      rw [if_pos]
      rcases hnot with htried | hearly
      · exact .inr (.inr (.inl htried))
      · exact .inr (.inr (.inr (.inr (.inr (.inr (.inl hearly))))))
  case rejoin =>
    have hguard : ¬(role s d ≠ 3 ∨ s.coc.restart = true) := by simp [hrole, hrun]
    refine ⟨?left, ?run, ?fields⟩
    case run =>
      simp only [exec, execRejoinDone, hguard, rebuilt_nil hkeep, List.map_nil, List.foldl_nil, if_false]
      rfl
    case fields =>
      obtain ⟨-, hepoch, hservice, -, hdram, hue⟩ := setRole_sets _ d 0
      refine ⟨role_setRole _ d 0, hservice, ?_, hepoch, hdram, hue⟩
      rw [getDie_setRole]
      simp [updDie, setDie, getDie, tgetD_tset]

/-- Settles O58: a swap by the spare that is left, an update by the bank that passes. -/
theorem sparesAndUpdates : Obligations.SparesAndUpdates := by
  refine ⟨fun c s hask hbe hlc hspill => ?swap, fun c s hlive hask => ?logic, fun d s hupd hrun => ?update, fun s hupd => ?hub⟩
  case swap =>
    intro x settled
    have hguard : ¬((!(getDie s (c / 512)).retire.contains c.val) = true ∨ (getCore s c).be.isSome = true ∨
        (getCore s c).lc.isSome = true ∨ (getCore s c).spill.isSome = true) := by
      simp [hask, hbe, hlc, hspill]
    refine ⟨fun hused pass => ?_, fun hfree hcold => ?_, fun hfree hwarm => ?_, fun hfree => ?_⟩
    · have hused' : ¬(getCluster s (c / 32)).spare = 0 := hused
      simp only [exec, execSpareSwapDone, hguard, hused', false_and, if_false, settled]
    · have hfree' : (getCluster s (c / 32)).spare = 0 := hfree
      have hcold' : ¬(getCluster s (c / 32)).power = .warm := hcold
      simp only [exec, execSpareSwapDone, hguard, hfree', hcold', Bool.not_true, Bool.false_eq_true, and_false, if_false, settled]
    · have hfree' : (getCluster s (c / 32)).spare = 0 := hfree
      have hwarm' : (getCluster s (c / 32)).power = .warm := hwarm
      simp only [exec, execSpareSwapDone, hguard, hfree', hwarm', Bool.not_true, Bool.false_eq_true, and_false, and_self, if_false,
        if_true, settled]
    · have hfree' : (getCluster s (c / 32)).spare = 0 := hfree
      simp only [exec, execSpareSwapDone, hguard, hfree', Bool.not_false, Bool.false_eq_true, false_and, and_false, and_self, if_false,
        if_true, settled]
  case logic =>
    have hcontains : (getDie s (c / 512)).retire.contains c.val = false := by simpa using hask
    have hcores : getCore (askRetire s c) c = getCore s c := by
      simp only [askRetire]
      split <;> rfl
    have hwaits : askRetire s c =
        (let waiting := updDie s (c / 512) fun x => { x with retire := x.retire ++ [c.val] }
         let x := getCluster waiting (c / 32)
         if x.spare = 0 ∧ x.swap = none then setCluster waiting (c / 32) { x with swap := some c.val } else waiting) := by
      have hdie : (updDie s (c / 512) fun x => { x with retire := if x.retire.contains c.val then x.retire else x.retire ++ [c.val] }) =
          updDie s (c / 512) fun x => { x with retire := x.retire ++ [c.val] } := by
        simp only [updDie, hcontains, Bool.false_eq_true, if_false]
      simp only [askRetire, hdie]
      exact if_congr (and_congr_right fun _ => Option.isNone_iff_eq_none) rfl rfl
    simp only [exec, execCoreLogicUe, hlive, hcontains, Bool.false_eq_true, or_self, if_false, hcores]
    rw [hwaits]
  case update =>
    refine ⟨fun hrole hbusy => ?_, fun hrole hidle => ?_, fun hrole hperst => ?_⟩
    · exact congrArg Host.Outcome.next (if_pos (.inr (.inr (.inl hbusy))))
    · intro s1
      simp only [exec, execUpdateRestart, hupd, hrole, hidle, hrun, ne_eq, not_true_eq_false, Bool.not_true, Bool.false_eq_true, or_self,
        if_false, s1]
    · intro old s1 done
      have hguard : ¬((!(getDie s d).upd) = true ∨ role s d ≠ 2 ∨ s.pins.perst = true ∨ s.coc.restart = true) := by
        simp [hupd, hrole, hperst, hrun]
      refine ⟨fun h => ?_, fun h => ?_, ?_, ?_⟩
      · simp only [exec, execUpdateDone, hguard, if_false]
        rw [if_pos h]
      · simp only [exec, execUpdateDone, hguard, if_false]
        rw [if_neg (by rw [h]; exact Bool.false_ne_true)]
      · simp only [exec, execUpdateDone, hguard, if_false, done, s1, old]
      · simp only [exec, execUpdateDone, hguard, if_false]
  case hub =>
    intro old s1
    refine ⟨fun h => ?_, fun h => ?_⟩
    · have h' : (bankImage s 1 (1 - s.coc.prefer.getD 1 0)).ok = true := h
      simp only [exec, execHubUpdateDone, hupd, h', Bool.not_true, Bool.false_eq_true, if_false, if_true, s1, old]
    · have h' : (bankImage s 1 (1 - s.coc.prefer.getD 1 0)).ok = false := h
      simp only [exec, execHubUpdateDone, hupd, h', Bool.not_true, Bool.false_eq_true, if_false, s1, old]

end Sys2Proof.Machine
end

section
/-! The field network's frames and sessions, and the links (R24 to R31, R361, R441 to R446). -/

namespace Sys2Proof.Machine

/-- Settles O59: a frame by the first rule that refuses it, a session and a buffer by their time. -/
theorem fieldNetworkServes : Obligations.FieldNetworkServes := by
  refine ⟨fun bs s hup => ?frames, fun mac q g rest s hup hrun hgrants => ?grants, fun n rest e s hup hcloses he => ?closes,
    fun n e s he => ?expiry, fun b r s hr => ?buffers⟩
  case frames =>
    intro f s1
    refine ⟨fun hoff => ?off, fun hon hlow hhigh htype hdst => ?for'⟩
    case off => exact congrArg Host.Outcome.next (if_pos (.inl (by rw [hoff]; rfl)))
    case for' =>
      have hmine : (f.dst = s.fnet.mac || (decide (f.dst = 2 ^ 48 - 1) && (f.op = 1 || f.op = 4))) = true := by
        simpa using hdst
      have hguard : ¬((!s.fnet.on) = true ∨ (!svcUp s) = true ∨ bs.length < 14 ∨ 1514 < bs.length ∨
          netNat ((bs.drop 12).take 2) ≠ s.fnet.ethertype ∨
          (!(f.dst = s.fnet.mac || (decide (f.dst = 2 ^ 48 - 1) && (f.op = 1 || f.op = 4)))) = true) := by
        rw [hmine, hon, hup]
        simp [hlow, hhigh, htype]
      have hrun : exec (.fnFrame bs) s = .next (
          if !f.ok then rejectLayout s1 f.src f.op
          else if f.op = 0 ∨ (4 < f.op ∧ f.op ≠ 0x10 ∧ f.op ≠ 0x11) then rejectFrame s1 f.src f.op 6
          else match sessionCheck s1 f with
            | some c => rejectFrame s1 f.src f.op c
            | none => if f.off = 0 ∧ !f.more then acceptRequest s1 f.src f.session f.seq f.op f.payload else takeFragment s1 f) :=
        congrArg Host.Outcome.next (if_neg hguard)
      refine ⟨fun hbad => ?_, fun hok hop => ?_, fun hok hop => ?_⟩
      · simp only [hrun, hbad, Bool.not_false, if_true]
      · simp only [hrun, hok, Bool.not_true, Bool.false_eq_true, if_false]
        rw [if_pos hop]
      · have hknown : ¬(f.op = 0 ∨ (4 < f.op ∧ f.op ≠ 0x10 ∧ f.op ≠ 0x11)) := by omega
        refine ⟨fun c hc => ?_, fun hnone hoff hmore => ?_, fun hnone hpart => ?_⟩
        · simp only [hrun, hok, hknown, hc, Bool.not_true, Bool.false_eq_true, if_false]
        · simp only [hrun, hok, hknown, hnone, hoff, hmore, Bool.not_true, Bool.not_false, Bool.false_eq_true, and_self, if_false,
            if_true]
        · have hwhole : ¬(f.off = 0 ∧ (!f.more) = true) := by
            rintro ⟨hoff, hmore⟩
            rcases hpart with h | h
            · exact h hoff
            · rw [h] at hmore
              cases hmore
          simp only [hrun, hok, hknown, hnone, hwhole, Bool.not_true, Bool.false_eq_true, if_false]
  case grants =>
    intro s1
    have hguard : ¬((!svcUp s) = true ∨ s.coc.restart = true) := by simp [hup, hrun]
    refine ⟨fun hbad => ?_, fun hcoc hok => ?_⟩
    · have hbad' : (!s1.coc.up) = true ∨ (!grantOk s1 g) = true := by
        rcases hbad with h | h
        · exact .inl (by rw [Bool.not_eq_true']; exact h)
        · exact .inr (by rw [h]; rfl)
      simp only [exec, execSessionGrant, hgrants, hguard, if_false]
      rw [if_pos hbad']
    · intro n e s2
      have hgood : ¬((!s1.coc.up) = true ∨ (!grantOk s1 g) = true) := by
        rintro (h | h)
        · rw [show s1.coc.up = true from hcoc] at h
          cases h
        · rw [hok] at h
          cases h
      simp only [exec, execSessionGrant, hgrants, hguard, if_false]
      rw [if_neg hgood]
  case closes =>
    simp only [exec, execSessionClose, hcloses, hup, he, Bool.not_true, Bool.false_eq_true, if_false]
  case expiry =>
    refine ⟨fun hlate => ?_, fun hearly => ?_⟩
    · simp only [exec, execSessionExpiry, he, not_lt.mpr hlate, closeSession, Option.isNone_some, Bool.false_eq_true, if_false]
    · simp only [exec, execSessionExpiry, he, hearly, if_true]
  case buffers =>
    refine ⟨fun hlate => ?_, fun hearly => ?_⟩
    · simp only [exec, execReassemblyTimeout, hr, not_lt.mpr hlate, if_false]
    · simp only [exec, execReassemblyTimeout, hr, hearly, if_true]

/-! ### Links -/

section
variable {s : State}

/-- A flit that takes a hop waits on its link, whose state stays. -/
theorem sendHop_linkState (c : TrafficClass) (n : Nat) (s : State) (h : Hop) (k : Nat) :
    (getLink (sendHop c n s h) k).state = (getLink s k).state := by
  simp only [sendHop, getLink_setLink]
  split
  case isTrue hk =>
    subst hk
    split <;> rfl
  case isFalse => rfl

theorem send_linkState (s : State) (c : TrafficClass) (a b page n k : Nat) :
    (getLink (send s c a b page n) k).state = (getLink s k).state := by
  have hops (hs : List Hop) : ∀ s, (getLink (hs.foldl (sendHop c n) s) k).state = (getLink s k).state := by
    induction hs with
    | nil => exact fun s => rfl
    | cons h hs ih => exact fun s => (ih _).trans (sendHop_linkState c n s h k)
  unfold send
  split
  · exact hops _ s
  · rfl

theorem rerouteDir_linkState (s : State) (a b : Nat) (x : LinkDir) (k : Nat) :
    (getLink (rerouteDir s a b x) k).state = (getLink s k).state := by
  simp only [rerouteDir, send_linkState]

/-- A link taken DOWN stays so while its traffic goes by others. -/
theorem downLink_state (s : State) (l : Nat) : (getLink (downLink s l) l).state = 2 := by
  simp only [downLink, rerouteDir_linkState, getLink_setLink, if_true]

end

/-! ### The host link's window -/

theorem HostTx.flit_io_le (x : HostTx) : x.flit.io ≤ x.io := by
  simp only [HostTx.flit]
  split_ifs <;> simp

theorem HostTx.flits_io_le (n : Nat) (x : HostTx) : (HostTx.flits n x).io ≤ x.io := by
  induction n generalizing x with
  | zero => exact le_refl x.io
  | succ n ih => exact (ih x.flit).trans x.flit_io_le

/-- While CXL.io has not had its 8 of the window, it goes first (R361). -/
theorem HostTx.flit_io_first {x : HostTx} (hio : 0 < x.io) (hsent : x.ioSent < 8) : x.flit =
    if x.window = 63 then { x with io := x.io - 1, window := 0, ioSent := 0 }
    else { x with io := x.io - 1, ioSent := x.ioSent + 1, window := x.window + 1 } := by
  simp only [HostTx.flit]
  rw [if_pos ⟨hio, .inl hsent⟩]

/-- What is left of a window is enough for the CXL.io that waits to have its 8 flits of it. -/
theorem HostTx.flits_share (n : Nat) (x : HostTx) (hwindow : x.window + n ≤ 64) (hwait : 8 ≤ x.io + x.ioSent)
    (hleft : 8 ≤ x.ioSent + n) : (HostTx.flits n x).io + 8 ≤ x.io + x.ioSent := by
  induction n generalizing x with
  | zero => exact Nat.add_le_add_left hleft x.io
  | succ n ih =>
    by_cases hsent : x.ioSent < 8
    · have hflit := HostTx.flit_io_first (x := x) (by omega) hsent
      rw [HostTx.flits, hflit]
      split
      case isTrue hlast =>
        have hn : n = 0 := by omega
        subst hn
        simp only [HostTx.flits]
        omega
      case isFalse hlast =>
        have h := ih { x with io := x.io - 1, ioSent := x.ioSent + 1, window := x.window + 1 } (by simp only; omega)
          (by simp only; omega) (by simp only; omega)
        simp only at h
        omega
    · have hle := HostTx.flits_io_le (n + 1) x
      omega

/-! ### One flit boundary -/

section
variable {x : LinkDir}

theorem LinkDir.boundary_ctrl (h : 0 < x.ctrlWait ∧ x.ctrlUsed < 16 ∧ ¬(x.windowCtrl = true ∧ 0 < x.dataWait)) : x.boundary =
    { x.sent (decide (0 < x.dataWait)) with ctrlWait := x.ctrlWait - 1, ctrlUsed := x.ctrlUsed + 1 } :=
  if_pos h

theorem LinkDir.boundary_other (h : ¬(0 < x.ctrlWait ∧ x.ctrlUsed < 16 ∧ ¬(x.windowCtrl = true ∧ 0 < x.dataWait))) : x.boundary =
    if 0 < x.reqWait ∧ x.reqUsed < classCredits .req then
      { x.sent false with reqWait := x.reqWait - 1, reqUsed := x.reqUsed + 1 }
    else if 0 < x.dataWait ∧ x.dataUsed < classCredits .data then
      { x.sent false with dataWait := x.dataWait - 1, dataUsed := x.dataUsed + 1 }
    else x :=
  if_neg h

/-- Moving the window on leaves what waits and what credits are out. -/
theorem LinkDir.sent_keeps (x : LinkDir) (held : Bool) : (x.sent held).ctrlWait = x.ctrlWait ∧ (x.sent held).ctrlUsed = x.ctrlUsed ∧
    (x.sent held).reqWait = x.reqWait ∧ (x.sent held).dataWait = x.dataWait := by
  unfold LinkDir.sent
  split <;> exact ⟨rfl, rfl, rfl, rfl⟩

theorem LinkDir.sent_within (h : x.window < 63) (held : Bool) : (x.sent held).windowCtrl = (x.windowCtrl || held) := by
  rw [LinkDir.sent, if_neg h.ne]

theorem LinkDir.sent_last (h : x.window = 63) (held : Bool) : (x.sent held).window = 0 ∧ (x.sent held).windowCtrl = false := by
  rw [LinkDir.sent, if_pos h]
  exact ⟨rfl, rfl⟩

end

/-- Settles O60: training by the bad lanes, a path by the links that are up, a boundary by the classes that wait. -/
theorem linksTrainAndFail : Obligations.LinksTrainAndFail := by
  refine ⟨fun l s => ?links, fun a b page s hab => ?paths, fun x => ?boundary, fun x hwindow hsent hio => ?host⟩
  case links =>
    intro x
    refine ⟨fun hup hstate hready => ?train, fun hup n => ?trained, fun hup hstate => ?retrain, fun hre => ?retrained,
      fun hup hstate hends => ⟨?fault, downLink_state s l⟩⟩
    case train =>
      have hguard : ¬((getLink s l).up = true ∨ (getLink s l).state = 2 ∨ (!linkReady s l) = true) := by
        simp [show (getLink s l).up = false from hup, show (getLink s l).state ≠ 2 from hstate, hready]
      have hrun (n : Nat) : exec (.linkTrain l n) s = .next (
          if n ≤ spareLanes l then
            linkRecord (setLink s l { x with up := true, used := n, tries := 0, state := if n = 0 then 0 else 1 }) l
          else if x.tries < 2 then setLink s l { x with tries := x.tries + 1 }
          else linkRecord (setLink s l { x with tries := 0, state := 2 }) l) := congrArg Host.Outcome.next (if_neg hguard)
      refine ⟨fun n hn => ?_, fun n hn htries => ?_, fun n hn htries => ?_⟩
      · rw [hrun, if_pos hn]
      · rw [hrun, if_neg (not_le.mpr hn), if_pos htries]
      · rw [hrun, if_neg (not_le.mpr hn), if_neg (not_lt.mpr htries)]
    case trained => exact congrArg Host.Outcome.next (if_pos (.inl hup))
    case retrain =>
      have hguard : ¬((!(getLink s l).up) = true ∨ (getLink s l).state = 2) := by
        simp [show (getLink s l).up = true from hup, show (getLink s l).state ≠ 2 from hstate]
      exact congrArg Host.Outcome.next (if_neg hguard)
    case retrained =>
      exact congrArg Host.Outcome.next (if_neg (by simp [show (getLink s l).retrain = true from hre]))
    case fault =>
      have hguard : ¬((!(getLink s l).up) = true ∨ (getLink s l).state = 2 ∨ (!(linkEnds l).all (answersAlwaysOn s)) = true) := by
        rw [List.all_eq_true.mpr hends]
        simp [show (getLink s l).up = true from hup, show (getLink s l).state ≠ 2 from hstate]
      exact congrArg Host.Outcome.next (if_neg hguard)
  case paths =>
    refine ⟨fun hup => ?_, fun hdown => ⟨fun hr => ?_, fun e hr => ?_, fun e f r hr => ⟨fun heven => ?_, fun hodd => ?_⟩⟩⟩
    · simp only [diePath, hab, hup, if_false, if_true]
    · simp only [diePath, hab, hdown, hr, Bool.false_eq_true, if_false]
    · simp only [diePath, hab, hdown, hr, Bool.false_eq_true, if_false]
    · simp only [diePath, hab, hdown, hr, heven, Bool.false_eq_true, if_false, if_true]
    · simp only [diePath, hab, hdown, hr, hodd, one_ne_zero, Bool.false_eq_true, if_false]
  case boundary =>
    intro ctrlGoes
    refine ⟨fun hgoes => ?ctrl, fun hnot => ?other, fun hlast hmoves => ?window⟩
    case ctrl =>
      obtain ⟨-, -, hreq, hdata⟩ := x.sent_keeps (decide (0 < x.dataWait))
      rw [LinkDir.boundary_ctrl hgoes]
      exact ⟨rfl, rfl, hreq, hdata, fun hwithin => LinkDir.sent_within hwithin _⟩
    case other =>
      obtain ⟨hctrl, hused, hreq, hdata⟩ := x.sent_keeps false
      rw [LinkDir.boundary_other hnot]
      refine ⟨?_, ?_, fun hgo => ?_, fun hstay hwait hcredit => ?_⟩
      · split_ifs
        exacts [hctrl, hctrl, rfl]
      · split_ifs
        exacts [hused, hused, rfl]
      · rw [if_pos hgo]
        exact ⟨rfl, rfl, hdata⟩
      · rw [if_neg hstay, if_pos ⟨hwait, hcredit⟩]
        exact ⟨rfl, rfl, hreq⟩
    case window =>
      by_cases hgoes : ctrlGoes
      · rw [LinkDir.boundary_ctrl hgoes]
        exact LinkDir.sent_last hlast _
      · rw [LinkDir.boundary_other hgoes] at hmoves ⊢
        split_ifs at hmoves ⊢
        · exact LinkDir.sent_last hlast _
        · exact LinkDir.sent_last hlast _
        · exact absurd rfl hmoves
  case host =>
    have h := HostTx.flits_share 64 x (by omega) (by omega) (by omega)
    omega

end Sys2Proof.Machine
end
